-- ==== Sys2Proof/Word.lean ====
section
/-! DEFINITION. Word.lean: the word types of the device and their plainest readings (spec 00 R9, 01 R20). -/

namespace Sys2Proof

/-- One byte of memory. -/
abbrev Byte := BitVec 8
/-- A 32-bit value of a v register (03 R49). -/
abbrev Word := BitVec 32
/-- A 64-bit value of an s register (03 R49). -/
abbrev DWord := BitVec 64
/-- A set of threads of one group, bit i for thread i (02 R28: at most 64 threads). -/
abbrev Mask := BitVec 64
/-- A data label: 0 open, 1 tenant, 2 secret, 3 key (18 R393). -/
abbrev Label := BitVec 2
/-- A taint set, bit n for load queue qn (03 R55). -/
abbrev Taint := BitVec 8

/-- The larger of two labels (18 R393). -/
def Label.max (a b : Label) : Label := if a.toNat < b.toNat then b else a

end Sys2Proof
end

