-- ==== Sys2Proof/Config.lean ====
section
/-! DEFINITION. Config.lean: the values the spec leaves open. Each is an opaque constant with no body:
nothing can be proved about its value, so a statement that holds, holds whatever the value is. -/

namespace Sys2Proof.Config

/-- The n-th free byte: what the spec leaves undefined in a byte of memory that an instruction or an
engine command goes on with (14 R302: two elements of one command on one destination byte; 17 R374: a range
granted again decrypts under another key). Log entry 3. -/
opaque freeByte : Nat → Nat → Byte

/-- The n-th free word: an undefined 64-bit value with which the machine goes on (13 R291: V after a plain
store to its bytes; 13 R288: a sum whose overflow entries software wrote). Log entry 3. -/
opaque freeDWord : Nat → DWord

/-- AES-256-GCM decryption of a sealed blob (18 R400): key, initialisation vector, ciphertext. The spec names
the standard and does not state it. Log entry 4. -/
opaque gcmDecrypt : List Byte → List Byte → List Byte → List Byte

/-- Whether the AES-256-GCM tag verifies (18 R400): key, initialisation vector, additional data,
ciphertext, tag. Log entry 4. -/
opaque gcmVerifies : List Byte → List Byte → List Byte → List Byte → List Byte → Bool

/-- SHA-384 (20 R444, R443), named and not stated by the spec. Log entry 4. -/
opaque sha384 : List Byte → List Byte

/-- The two signatures over a hash (18 R413, 20 R443): scheme index, hash. Log entry 4. -/
opaque sign : Nat → List Byte → List Byte

/-- Whether both signatures of a firmware image verify against the ROM keys (20 R444). Log entry 4. -/
opaque imageVerifies : List Byte → Bool

/-- The security version number an image carries (20 R444). Log entry 4. -/
opaque imageVersion : List Byte → Nat

/-- The version number fused for a boot stage (20 R444). Log entry 4. -/
opaque fusedVersion : Nat → Nat

/-- The key that Wellhead draws from its random-bit generator for the n-th context created (18 R405). -/
opaque drawKey : Nat → List Byte

/-- Whether the post-package repair of a retired page succeeds at the n-th opportunity (20 R439): number, page. Log entry
3. -/
opaque repairWorks : Nat → Nat → Bool

/-- The measurement registers as the boot before the model's first state left them (20 R444), whose images the spec does not give:
register. Log entry 4. -/
opaque bootMeasure : Nat → List Byte

/-- The bytes of the security policy (20 R444), whose encoding the spec does not state: fuse state and debug enablement are the
part's own, W of R438 is given. Log entry 4. -/
opaque policyBytes : Nat → List Byte

/-- The bytes of the configuration block (18 R413, 20 R444), whose encoding the spec does not state: grade BZ-576, NUMA mode, CL,
bitmap of retired pairs; the stepping is the part's own. Log entry 4. -/
opaque configBlock : Bool → Bool → Nat → Nat → List Byte

/-- How the state of a block lies in the 60 bytes of a snapshot record (20 R442), which the spec does not state: block type, the
values of the table's row in its order. Log entry 3. -/
opaque snapLayout : Nat → List Nat → List Byte

/-- The AES-256-GCM tag (18 R415): key, nonce, header. Log entry 4. -/
opaque gcmTag : List Byte → List Byte → List Byte → List Byte

/-- HKDF-SHA-384 (18 R415), named and not stated by the spec: input keying material, info, length. Log entry 4. -/
opaque hkdf : List Byte → List Byte → Nat → List Byte

/-- The device identity certificate (20 R443). Log entry 4. -/
opaque certificate : List Byte

/-- The body of the n-th SPDM response (18 R413): the spec names SPDM 1.3 and does not state it. Log entry 4. -/
opaque spdmBody : Nat → List Byte

end Sys2Proof.Config
end

