-- ==== Sys2Proof/Syntax.lean ====
section
/-! DEFINITION. Syntax.lean: operands, guards, forms and the abstract fields of an instruction (spec 04 R69 to
R80), the parameters of the events that are rows of the table of operations, and the one type `Instr` with a
constructor for every row of spec/opcode_table.json. -/

namespace Sys2Proof

/-- A source operand (04 R78), one constructor per row of its table. -/
inductive Src where
  | v (n : Fin 384)
  | s (n : Fin 64)
  | p (n : Fin 16)
  | c (n : Fin 8)
  | lat (n : Fin 3)
  | zero
  | tid
  | gid
  | kid
  | width
  | reserved (n : Fin 32)
  | imm (n : Fin 512)
  deriving DecidableEq, Repr

/-- A destination operand (04 R79); `none` is code 475, the discard destination. -/
inductive Dst where
  | v (n : Fin 384)
  | s (n : Fin 64)
  | p (n : Fin 16)
  | c (n : Fin 8)
  | lat (n : Fin 3)
  | none
  | reserved (n : Fin 36)
  deriving DecidableEq, Repr

/-- A guard: predicate register and negate (04 R69, R80). -/
structure Guard where
  p : Fin 16
  neg : Bool
  deriving DecidableEq, Repr

/-- The guard that holds in every thread: p0, not negated. -/
def Guard.always : Guard := ⟨0, false⟩

/-- The forms of 04 R70: three of Torub-N, and Torub-D with its extension units (R75). -/
inductive Form where
  | n64
  | n96
  | n128
  | d32
  | d64 (fieldUnit immUnit : Bool)
  deriving DecidableEq, Repr

/-- The length of an instruction in bytes (04 R72, R75). -/
def Form.bytes : Form → Nat
  | .n64 => 8
  | .n96 => 12
  | .n128 => 16
  | .d32 => 4
  | .d64 f i => 8 + (if f then 4 else 0) + (if i then 4 else 0)

/-- Torub-D or Torub-N (04 R69). -/
def Form.isDense : Form → Bool
  | .d32 => true
  | .d64 _ _ => true
  | _ => false

/-- Whether the form holds an IMM field (04 R72, R75; 06 R114). -/
def Form.hasImm : Form → Bool
  | .n96 => true
  | .n128 => true
  | .d64 _ i => i
  | _ => false

/-- The abstract fields of one instruction (04 R69). IMM is the field as encoded, zero-extended. -/
structure Fields where
  form : Form
  re : Bool
  lat : Fin 8
  dst : Dst
  a : Src
  b : Src
  c : Src
  d : Src
  g1 : Guard
  g2 : Guard
  mod : BitVec 6
  qual : BitVec 8
  qual2 : BitVec 7
  imm : BitVec 32
  deriving DecidableEq, Repr

/-- The cache levels that hold copies (12 R249): the L1 of a core, the remote-data cache of a die. -/
inductive CacheId where
  | l1 (core : Nat)
  | rdc (die : Nat)
  deriving DecidableEq, Repr

/-- What another rank of a collective contributes when its ring forms (14 R304, R306): its ring position, its
command's snapshot agrees, its source shards with their label, and the fault it tells the ring of, after how many
chunks (14 R307). -/
structure PeerPart where
  pos : Nat
  agrees : Bool
  shards : List (List Byte)
  label : BitVec 2
  fault : Option (Nat × Byte)
  deriving DecidableEq, Repr

/-- A chunk that an Axdal port receives from a group member (17 R387, 18 R415); `tagOk` says that its tag verifies under the key and
the nonce of its direction and counter. -/
structure GroupChunk where
  sender : Nat
  counter : Nat
  tagOk : Bool
  token : BitVec 128
  write : Bool
  offset : Nat
  data : List Byte
  label : Label
  /-- Offsets in the data of the 16-byte granules that arrive tagged (17 R387). -/
  tags : List Nat
  deriving DecidableEq, Repr

/-- The PF driver's request that creates a context (16 R348, 17 R372, 18 R405, 19 R433). -/
structure CtxReq where
  colour : Nat
  fn : Nat
  pmask : BitVec 64
  shared : List Nat
  saveBase : Nat
  saveLen : Nat
  replyAt : Nat
  deriving DecidableEq, Repr

/-- An ATS translation completion (18 R408). -/
structure AtsReply where
  fn : Nat
  pasid : Nat
  iova : Nat
  size : Nat
  read : Bool
  write : Bool
  frame : Nat
  deriving DecidableEq, Repr

/-- A PRI page response (18 R409); `ok` is Response Success. -/
structure PageReply where
  fn : Nat
  pasid : Nat
  page : Nat
  ok : Bool
  deriving DecidableEq, Repr

/-- The sources of the snapshot trigger (20 R440). -/
inductive SnapSource where
  | sw (imm : BitVec 17) (fn : Nat)
  | fault (code : Byte) (fn : Nat)
  | debug
  | fabric
  deriving DecidableEq, Repr

/-- One secured or plain SPDM message (18 R413, R414): the session it names and whether it verifies. -/
structure SpdmMsg where
  sess : Nat
  valid : Bool
  deriving DecidableEq, Repr

/-- A GET_RECEIPT request: the message that carries it, and the number asked for (20 R443). -/
structure ReceiptReq where
  msg : SpdmMsg
  seq : Nat
  deriving DecidableEq, Repr

/-- The payload of SET_GROUP (18 R414). -/
structure GroupReq where
  gid : Nat
  own : Nat
  hashes : List (List Byte)
  key : List Byte
  deriving DecidableEq, Repr

/-- The debugger's own capability for a read through Wellhead (17 R373). -/
structure DbgCap where
  bits : BitVec 128
  tag : Bool
  deriving DecidableEq, Repr

/-- The 128-byte SRAM rows of a core (20 R437), named by the data that they hold: 32 threads of a vector register or a latch, a
line of a tile register, of mere (32 elements of an accumulator, a line of mere scratch) or of the tarn. -/
inductive SramRow where
  | vreg (team gid n half : Nat)
  | latch (team gid n half : Nat)
  | tile (team n line : Nat)
  | acc (team n row : Nat)
  | mscr (team line : Nat)
  | tarn (team line : Nat)
  deriving DecidableEq, Repr

/-- The instances of the protected structures (20 R437). -/
inductive ErrSite where
  | page (n : Nat) (sector : Nat)
  | l1Line (core line : Nat)
  | l2Line (die line : Nat)
  | rdcLine (die line : Nat)
  | atomLine (cluster line : Nat)
  | icacheLine (pair line : Nat)
  | sramRow (core : Nat) (row : SramRow)
  | lane (core quad lane : Nat)
  | axdalLane (port lane : Nat)
  deriving DecidableEq, Repr

/-- What Wellhead and the part fix at a cold reset (01 R13, R23, R25; 17 R374; 20 R444): grade, mapping, the
length of the reserved range, the quadrants in which a defective lane is replaced by the spare, and the boot images in order. -/
structure BootReq where
  grade576 : Bool
  numa : Bool
  reservedLen : Nat
  spares : List (Nat × Nat)
  images : List (List Byte)
  deriving DecidableEq, Repr

/-- A word that is not an instruction (04 R97): its raw units, its length in bytes when known, the fault. -/
structure BadWord where
  dense : Bool
  units : List Word
  length : Nat
  opc : BitVec 10
  fault : Byte
  deriving DecidableEq, Repr

/-- Every step of the part: the instructions of Torub 3 and the events of the table of operations, one
constructor per row of spec/opcode_table.json. -/
inductive Instr where
  /-- R74: Does nothing except shape the run, ending it when RE is set. -/
  | nop (f : Fields)
  /-- R328: Moves the whole running subset to A + IMM when the named c bit, optionally negated, holds. -/
  | br (f : Fields)
  /-- R328: Moves the whole running subset to A + IMM without a condition. -/
  | bra (f : Fields)
  /-- R329: Writes the return address into the link and moves the subset to the target. -/
  | call (f : Fields)
  /-- R329: Moves each thread of the subset to the address in its own target operand. -/
  | ret (f : Fields)
  /-- R330: Returns through a capability pair, making it the group's code capability and jumping to its ADDR. -/
  | retK (f : Fields)
  /-- R330: Checks a code capability, saves a sealed-entry link and switches the group's code capability. -/
  | callk (f : Fields)
  /-- R332: Sets every subset thread's meeting register and sends taking-part threads with a true condition to the target. -/
  | fork (f : Fields)
  /-- R334: Sets each taking-part thread's meeting register. -/
  | meetSet (f : Fields)
  /-- R334: Writes each taking-part thread's meeting register into an even v pair. -/
  | meetGet (f : Fields)
  /-- R337: Ends the taking-part threads and makes the meeting test for each exiting thread. -/
  | exitt (f : Fields)
  /-- R337: Ends every non-exited thread of the group. -/
  | endGroup (f : Fields)
  /-- R340: Arrives at named barrier N and waits for its completion. -/
  | bar (f : Fields)
  /-- R340: Arrives at named barrier N without waiting. -/
  | barArrive (f : Fields)
  /-- R340: Waits for completion of named barrier N if the group has arrived in the current phase. -/
  | barWait (f : Fields)
  /-- R309: Resolves a guard slot to true or false and decides guarded commands waiting on it. -/
  | gset (f : Fields)
  /-- R309: Makes a guard slot unresolved. -/
  | gclr (f : Fields)
  /-- R326: Writes a c register from the some or every truth of A over the taking-part threads. -/
  | cset (f : Fields)
  /-- R327: Combines two uniform truth values into a c register. -/
  | cop (f : Fields)
  /-- R338: Marks the lowest-indexed taking-part thread. -/
  | elect (f : Fields)
  /-- R360: Ends the run and moves the quadrant's round-robin pointer to the group's slot. -/
  | yield (f : Fields)
  /-- R361: Makes the group WAITING for a given number of cycles. -/
  | sleep (f : Fields)
  /-- R275: Waits for loads of a queue, raises deferred faults, clears pending bits and moves the queue stamp. -/
  | qwait (f : Fields)
  /-- R206: Waits for array operations on an accumulator set, clears UNWAITED and ORs their flags into sr.sat. -/
  | mwait (f : Fields)
  /-- R316: Waits for the group's older engine commands, raises the earliest unreported fault and acquires their destinations. -/
  | ewait (f : Fields)
  /-- R362: Reads the device cycle counter CLK. -/
  | rdclk (f : Fields)
  /-- R429: Fires the software trigger of the snapshot mechanism with IMM as tag. -/
  | snap (f : Fields)
  /-- R60: Reads a system register. -/
  | srd (f : Fields)
  /-- R60: Writes a writable system register from a uniform source. -/
  | swr (f : Fields)
  /-- R428: Stops the group with BREAKPOINT when a debugger is attached. -/
  | brk (f : Fields)
  /-- R427: Raises SOFTWARE with the immediate in AUX and RPC after the instruction. -/
  | trap (f : Fields)
  /-- R430: Returns from an in-group handler to RPC under the saved code capability. -/
  | rfe (f : Fields)
  /-- R153: Integer add, wrapping or saturating. -/
  | add (f : Fields)
  /-- R153: Integer subtract, wrapping or saturating. -/
  | subb (f : Fields)
  /-- R153: Add with carry in, or carry out with CY. -/
  | addc (f : Fields)
  /-- R153: Subtract with borrow in, or borrow out with CY. -/
  | subc (f : Fields)
  /-- R153: Integer multiply, low part. -/
  | mul (f : Fields)
  /-- R153: Integer multiply, high part. -/
  | mulh (f : Fields)
  /-- R153: Integer multiply-add, low part. -/
  | mad (f : Fields)
  /-- R153: Integer multiply-add, high part. -/
  | madh (f : Fields)
  /-- R154: Truncating integer division with defined results for zero divisors. -/
  | idiv (f : Fields)
  /-- R154: Integer remainder with the sign of the dividend. -/
  | irem (f : Fields)
  /-- R153: Integer minimum. -/
  | minn (f : Fields)
  /-- R153: Integer maximum. -/
  | maxx (f : Fields)
  /-- R153: Signed absolute value, optionally saturating. -/
  | abss (f : Fields)
  /-- R153: Integer negation. -/
  | negg (f : Fields)
  /-- R155: Bitwise AND. -/
  | andd (f : Fields)
  /-- R155: Bitwise OR. -/
  | orr (f : Fields)
  /-- R155: Bitwise XOR. -/
  | xor (f : Fields)
  /-- R155: A AND NOT B. -/
  | andn (f : Fields)
  /-- R155: A OR NOT B. -/
  | orn (f : Fields)
  /-- R155: Bitwise NOT. -/
  | nott (f : Fields)
  /-- R156: Logical shift left. -/
  | shl (f : Fields)
  /-- R156: Logical shift right. -/
  | shr (f : Fields)
  /-- R156: Arithmetic shift right. -/
  | sar (f : Fields)
  /-- R156: Rotate left. -/
  | rol (f : Fields)
  /-- R156: Rotate right. -/
  | ror (f : Fields)
  /-- R157: Population count. -/
  | popc (f : Fields)
  /-- R157: Count leading zeros. -/
  | clz (f : Fields)
  /-- R157: Count trailing zeros. -/
  | ctz (f : Fields)
  /-- R157: Bit reversal. -/
  | brev (f : Fields)
  /-- R158: Bit-field extract with sign or zero extension. -/
  | bfe (f : Fields)
  /-- R159: Bit-field insert. -/
  | bfi (f : Fields)
  /-- R160: Byte permute of two registers under nibble selectors. -/
  | bperm (f : Fields)
  /-- R161: Selects A or B by C. -/
  | sel (f : Fields)
  /-- R161: Integer comparison giving 1 or 0. -/
  | cmp (f : Fields)
  /-- R162: Copies A without any tag. -/
  | mov (f : Fields)
  /-- R162: Loads an immediate. -/
  | li (f : Fields)
  /-- R163: Sign-extends the low k bits. -/
  | sext (f : Fields)
  /-- R163: Zero-extends the low k bits. -/
  | zext (f : Fields)
  /-- R164: Deprecated 24-bit multiply. -/
  | mul24 (f : Fields)
  /-- R164: Deprecated 24-bit multiply-add. -/
  | mad24 (f : Fields)
  /-- R165: Experimental median of three integers. -/
  | med3 (f : Fields)
  /-- R167: Floating-point add, rounded once. -/
  | fadd (f : Fields)
  /-- R167: Floating-point subtract, rounded once. -/
  | fsub (f : Fields)
  /-- R167: Floating-point multiply, rounded once. -/
  | fmul (f : Fields)
  /-- R167: Fused multiply-add, rounded once. -/
  | ffma (f : Fields)
  /-- R168: IEEE minimum, or legacy minimum under LEGNAN. -/
  | fmin (f : Fields)
  /-- R168: IEEE maximum, or legacy maximum under LEGNAN. -/
  | fmax (f : Fields)
  /-- R168: minimumNumber. -/
  | fminn (f : Fields)
  /-- R168: maximumNumber. -/
  | fmaxn (f : Fields)
  /-- R169: Clears the sign bit. -/
  | fabs (f : Fields)
  /-- R169: Inverts the sign bit. -/
  | fneg (f : Fields)
  /-- R169: Copies a sign onto A's magnitude. -/
  | fcpsgn (f : Fields)
  /-- R170: Floating-point comparison giving 1 or 0 per element. -/
  | fcmp (f : Fields)
  /-- R171: Classifies a value into a one-hot mask. -/
  | fclass (f : Fields)
  /-- R172: Rounds to an integral value in the same format. -/
  | frint (f : Fields)
  /-- R173: Scales A by a power of two and rounds. -/
  | fldexp (f : Fields)
  /-- R174: Experimental division, implemented on C0 and raising UNIMPL on B1. -/
  | fdiv (f : Fields)
  /-- R175: Converts between f32, bf16, f16 and 32/16-bit integers. -/
  | cvt (f : Fields)
  /-- R176: Converts to or from the format of a format slot. -/
  | cvtf (f : Fields)
  /-- R177: Inserts two adjacent packed elements into C. -/
  | pack (f : Fields)
  /-- R178: Extracts one packed element. -/
  | unpack (f : Fields)
  /-- R179: Computes an MX or BPI shared scale, or the scaled value. -/
  | qscale (f : Fields)
  /-- R180: Gathers one bit plane of eight BPI elements. -/
  | bpsplit (f : Fields)
  /-- R181: Rebuilds one BPI element value from its plane bytes. -/
  | bpjoin (f : Fields)
  /-- R182: Reads the sticky flags, optionally clearing them. -/
  | satrd (f : Fields)
  /-- R182: Clears selected sticky flags. -/
  | satclr (f : Fields)
  /-- R184: Correctly rounded reciprocal. -/
  | rcp (f : Fields)
  /-- R184: Correctly rounded reciprocal square root. -/
  | rsqrt (f : Fields)
  /-- R184: Correctly rounded square root. -/
  | sqrt (f : Fields)
  /-- R186: Base-2 exponential by the reference procedure. -/
  | exp2 (f : Fields)
  /-- R187: Base-2 logarithm by the reference procedure. -/
  | log2 (f : Fields)
  /-- R188: sin(pi x) by the reference procedure. -/
  | sinpi (f : Fields)
  /-- R188: cos(pi x) by the reference procedure. -/
  | cospi (f : Fields)
  /-- R189: Hyperbolic tangent by the reference procedure. -/
  | tanh (f : Fields)
  /-- R191: Philox-4x32-10 word or unit float from a key and logical indices. -/
  | rng (f : Fields)
  /-- R192: Draws an index from weights within each partition tile and writes a c bit. -/
  | csamp (f : Fields)
  /-- R238: Combines truth values across a partition tile. -/
  | vote (f : Fields)
  /-- R239: Reads A from another thread of the tile, or C. -/
  | shfl (f : Fields)
  /-- R241: Balanced-tree reduction over each tile. -/
  | red (f : Fields)
  /-- R242: Doubling-network prefix over each tile. -/
  | scan (f : Fields)
  /-- R234: Sets the partition tile size sr.psize. -/
  | part (f : Fields)
  /-- R243: Compares bit patterns within a tile. -/
  | matchv (f : Fields)
  /-- R276: Loads through a queue, leaving the destination pending. -/
  | ld (f : Fields)
  /-- R278: Stores enabled bits, performed in L1 at commit. -/
  | st (f : Fields)
  /-- R279: Synchronous load from the team's own tarn. -/
  | ldt (f : Fields)
  /-- R279: Store to the team's own tarn. -/
  | stt (f : Fields)
  /-- R277: Loads a capability with its tag under LDCAP and revocation. -/
  | ldk (f : Fields)
  /-- R277: Stores a capability with its tag as one packet. -/
  | stk (f : Fields)
  /-- R284: Integer read-modify-write at the atomic engine. -/
  | atom (f : Fields)
  /-- R285: FP32 add, min or max at the atomic engine. -/
  | atomf (f : Fields)
  /-- R287: Sends an ordered FP32 add contribution to be held until a summing event. -/
  | atomfAddOrd (f : Fields)
  /-- R286: Compare-and-swap at the atomic engine. -/
  | cas (f : Fields)
  /-- R292: Fills a binding entry with a sync object and a region. -/
  | bind (f : Fields)
  /-- R292: Empties a binding entry. -/
  | unbind (f : Fields)
  /-- R294: Reads V of a bound sync object once and performs the acquire. -/
  | acq (f : Fields)
  /-- R294: Waits until V reaches a threshold, then performs the acquire. -/
  | acqGe (f : Fields)
  /-- R293: Writes back bound dirty data, gathers markers and updates V. -/
  | rel (f : Fields)
  /-- R295: Scoped fence of the group's own accesses. -/
  | fence (f : Fields)
  /-- R290: Runs summing events for targets within a capability. -/
  | ordflush (f : Fields)
  /-- R296: Pins lines of a range in their home L2s within the budget. -/
  | l2pin (f : Fields)
  /-- R296: Releases pinned lines of a range. -/
  | l2unpin (f : Fields)
  /-- R297: Fills copies of lines without faulting or writing a register. -/
  | prefetch (f : Fields)
  /-- R262: Clears taint bits of one register. -/
  | tclr (f : Fields)
  /-- R376: Copies a capability or builds a window, tarn or sealer root. -/
  | kmov (f : Fields)
  /-- R379: Narrows bounds from the cursor. -/
  | kbound (f : Fields)
  /-- R379: Sets the cursor relative to base. -/
  | kaddr (f : Fields)
  /-- R379: Moves the cursor by an increment. -/
  | kadd (f : Fields)
  /-- R380: Removes permissions and optionally lowers LBL. -/
  | kperm (f : Fields)
  /-- R381: Seals a capability with a type or as a sealed entry. -/
  | kseal (f : Fields)
  /-- R381: Unseals a software-sealed capability. -/
  | kunseal (f : Fields)
  /-- R386: Opens a live grant token into its delegated capability. -/
  | kunsealGrant (f : Fields)
  /-- R385: Delegates a narrowed capability into the grant table and returns a token. -/
  | kdeleg (f : Fields)
  /-- R382: Reads a field of a capability. -/
  | kget (f : Fields)
  /-- R383: Tests subset or equality of two capabilities. -/
  | ktest (f : Fields)
  /-- R389: Sets the revocation bits of a capability's range, or withdraws a token. -/
  | krevoke (f : Fields)
  /-- R397: Copies A and raises its label. -/
  | lblup (f : Fields)
  /-- R398: Copies A and lowers its label under DECLASS authority. -/
  | lbldn (f : Fields)
  /-- R399: Reads a register label, a sector's side band or a tile's state. -/
  | lblget (f : Fields)
  /-- R209: Issues C += A x B on an accumulator tile. -/
  | mma (f : Fields)
  /-- R210: Issues zeroing of an accumulator tile. -/
  | mzero (f : Fields)
  /-- R212: Reads a 16-row band of an accumulator into registers. -/
  | mrd (f : Fields)
  /-- R212: Writes a 16-row band of an accumulator from registers. -/
  | mwr (f : Fields)
  /-- R211: Issues rescaling of an accumulator by row and column exponents. -/
  | mscale (f : Fields)
  /-- R213: Offers an accumulator tile as a contribution to a peer team's tile. -/
  | mdrain (f : Fields)
  /-- R214: Arms an accumulator to add a count of contributions in ascending sender order. -/
  | mrecv (f : Fields)
  /-- R225: Creates a vocabulary stream on an accumulator. -/
  | vinit (f : Fields)
  /-- R226: Folds logits into the heap, normaliser and label logits, and zeroes the tile. -/
  | vfold (f : Fields)
  /-- R227: Writes softmax gradients into a tile register. -/
  | vfoldBwd (f : Fields)
  /-- R228: Merges an adjacent single-shard stream image from the tarn. -/
  | vmerge (f : Fields)
  /-- R229: Reads stream results or exports the image, optionally ending the stream. -/
  | vread (f : Fields)
  /-- R312: Issues a tile-transfer command from a shape record snapshot. -/
  | tx (f : Fields)
  /-- R314: Issues a gather command with indexed dimension 1. -/
  | gx (f : Fields)
  /-- R317: Installs a shape record from an image and returns its handle. -/
  | shp (f : Fields)
  /-- R318: Frees a live shape record. -/
  | shpfree (f : Fields)
  /-- R319: Returns a record's in-flight count, switch state and liveness. -/
  | eqry (f : Fields)
  /-- R319: Returns or releases a record's switch grant. -/
  | swslot (f : Fields)
  /-- R392: Requests a Dredge pass that follows the group's revocations. -/
  | dredgeStart (f : Fields)
  /-- R392: Waits until a given Dredge pass has completed. -/
  | dredgeWait (f : Fields)
  /-- R392: Returns the number of completed passes. -/
  | dredgeQuery (f : Fields)
  /-- R358: DLEFT reaches zero and DEMOTED is cleared. -/
  | demotionExpiry (team gid thread : Nat)
  /-- R361: The wake cycle of a sleeping group arrives and the group becomes READY. -/
  | sleepWake (team gid : Nat)
  /-- R353: A READY group ungranted for 16,384 cycles becomes aged. -/
  | aging (team gid : Nat)
  /-- R353: A quadrant grants a run to a READY group and runs the subset chosen by R336. -/
  | runGrant (core quad : Nat)
  /-- R355: A wait, barrier, park or hold condition holds and the group becomes READY. -/
  | groupWake (team gid : Nat)
  /-- R273: A load element's value arrives and is written to its pending register. -/
  | loadReturn (team gid iseq thread : Nat)
  /-- R283: An atomic engine applies one request and returns the old value. -/
  | atomicRequest (rid : Nat)
  /-- R64: A register- or tarn-window access is performed at the target core between runs. -/
  | windowAccess (wid : Nat)
  /-- R249: A cache writes dirty bits back to the level below. -/
  | dirtyWriteback (c : CacheId) (line : Nat) (colour : Nat)
  /-- R249: A cache drops a copy that holds no dirty bits. -/
  | copyDrop (c : CacheId) (line : Nat) (colour : Nat)
  /-- R259: A flush marker reaches its destination and is acknowledged. -/
  | flushMarkerArrival (op die path : Nat)
  /-- R194: The array executes an issued array operation and completes it. -/
  | arrayOperationExecute (oid : Nat)
  /-- R214: An armed receiver takes and adds a held contribution, completing the sender's mdrain. -/
  | drainTake (team acc sender : Nat)
  /-- R312: A command at its queue head begins, performing its acquire and switch request. -/
  | engineCommandBegin (cid : Nat)
  /-- R313: An engine checks and moves one 4 KiB chunk of a command. -/
  | engineChunk (cid : Nat)
  /-- R315: A command ends, writes its completion record and performs its release. -/
  | engineCommandComplete (cid : Nat)
  /-- R306: All ranks' commands of a collective are matched and the ring starts. -/
  | collectiveRingForm (cid : Nat) (peers : List PeerPart)
  /-- R308: The external switch grants or denies a reduction slot. -/
  | switchResponse (cid : Nat) (granted : Bool)
  /-- R415: An Axdal port verifies an inbound group chunk and its KIND 5 token checks. -/
  | groupChunkReceive (msg : GroupChunk)
  /-- R313: A ring member becomes unreachable and affected commands end with LINK_LOST. -/
  | linkLost (member : Nat)
  /-- R341: Host writes 1 to ENABLE, which checks REV, QLOG and QBASE and starts the queue. -/
  | lqEnable (fn q : Nat)
  /-- R343: Host writes WRIDX to the notify page. -/
  | lqNotify (fn q : Nat) (wridx : BitVec 32)
  /-- R343: The queue reads a LAUNCH packet and accepts or refuses the grid. -/
  | launch (fn q : Nat)
  /-- R343: The queue consumes a NOP packet. -/
  | nopPacket (fn q : Nat)
  /-- R347: Host writes KCMD to terminate the grid named by KTAG. -/
  | lqTerminate (fn q : Nat) (kcmd : BitVec 32)
  /-- R350: The dispatcher places and admits a team or restores a saved one. -/
  | teamAdmit (fn : Nat)
  /-- R352: The dispatcher chooses victim teams and starts saving them. -/
  | preemption (fn : Nat)
  /-- R434: Once runs, array operations and loads have settled, core images are written and the team becomes SAVED. -/
  | teamSave (team : Nat)
  /-- R436: A saved team is restored from its core images. -/
  | teamRestore (team : Nat)
  /-- R47: A DRAINING team finishes its outstanding work, sums its ordered adds and retires. -/
  | teamRetire (team : Nat)
  /-- R48: A grid completes, releases its writes and writes its completion record. -/
  | gridComplete (grid : Nat)
  /-- R348: The PF driver creates a context and the device writes the reply. -/
  | contextCreate (req : CtxReq)
  /-- R443: A context is destroyed and its key is destroyed. -/
  | contextDestroy (colour : Nat)
  /-- R374: GOP grant assigns a device-memory range to a colour after a tag-clear pass. -/
  | grant
  /-- R374: GOP withdraw sets revocation bits and awaits a Dredge pass. -/
  | withdraw
  /-- R374: The awaited Dredge pass ends and the range becomes ungranted. -/
  | withdrawComplete
  /-- R375: MGO mints a root capability at MDEST or refuses. -/
  | mint (fn : Nat)
  /-- R400: SOP import starts decrypting a sealed blob into CO memory. -/
  | sealImport (fn : Nat)
  /-- R400: The import's GCM tag is verified, making the entry LIVE or FAILED. -/
  | sealImportComplete (fn : Nat)
  /-- R400: SOP release clears CO over an entry's range and removes it. -/
  | sealRelease (fn : Nat)
  /-- R431: Host writes 1 to FCTL.ENABLE. -/
  | faultRingEnable (fn : Nat)
  /-- R431: A pending fault record is written into the ring when room exists. -/
  | faultRecordWrite (fn : Nat)
  /-- R432: FCMD resume moves the stopped group to RPC and READY. -/
  | faultResume (fn : Nat)
  /-- R432: FCMD terminate terminates the record's grid. -/
  | faultTerminate (fn : Nat)
  /-- R440: SGO arms the snapshot trigger. -/
  | snapshotArm
  /-- R441: The first armed source fires the trigger and sets TCLK. -/
  | snapshotTrigger (src : SnapSource)
  /-- R441: At TCLK every block latches and the records are written to SBUF. -/
  | snapshotLatch
  /-- R441: A trigger message from a group member arrives. -/
  | fabricTrigger (member : Nat)
  /-- R391: A requested pass enters SNAP and records the set bits. -/
  | dredgeSnap
  /-- R391: After SNAP's wait, the pass clears tags of marked capabilities everywhere. -/
  | dredgeSweep
  /-- R391: After the sweep, the pass clears its bits and completes. -/
  | dredgeClear
  /-- R408: An ATS translation completion arrives. -/
  | atsCompletion (c : AtsReply)
  /-- R409: A PRI page response arrives and waiting accesses are resolved. -/
  | pageResponse (r : PageReply)
  /-- R410: An ATS Invalidate Request is performed and completed. -/
  | atsInvalidate (fn pasid iova len : Nat)
  /-- R443: After its tag-clear pass, Wellhead issues a signed scrub receipt. -/
  | scrubReceipt
  /-- R97: A group executes a word that is not an instruction, such as LEN 0b11 or an unassigned or reserved opcode, and faults with ILLEGAL_LEN, ILLEGAL_FORM or UNIMPL. -/
  | nonInstructionEncoding (e : BadWord)
  /-- R331: A fetch at a PC outside the code capability raises FETCH_BOUND before any instruction word exists. -/
  | fetchBound (addr : Nat)
  /-- R412: A host request to a RUN TDI's BAR outside its IDE stream completes as Unsupported Request. -/
  | hostBarRequest (fn : Nat) (inStream tbit : Bool) (off size : Nat) (write : Option (BitVec 64))
  /-- R411: A change to a locked configuration moves the TDI to ERROR and terminates its contexts. -/
  | tdiConfigChange (fn : Nat)
  /-- R413: SPDM GET_VERSION request. -/
  | getVersion (m : SpdmMsg)
  /-- R413: SPDM GET_CAPABILITIES request. -/
  | getCapabilities (m : SpdmMsg)
  /-- R413: SPDM NEGOTIATE_ALGORITHMS request. -/
  | negotiateAlgorithms (m : SpdmMsg)
  /-- R413: SPDM GET_DIGESTS request. -/
  | getDigests (m : SpdmMsg)
  /-- R413: SPDM GET_CERTIFICATE request. -/
  | getCertificate (m : SpdmMsg)
  /-- R413: SPDM CHALLENGE request. -/
  | challenge (m : SpdmMsg)
  /-- R413: SPDM GET_MEASUREMENTS request. -/
  | getMeasurements (m : SpdmMsg)
  /-- R413: SPDM KEY_EXCHANGE request. -/
  | keyExchange (m : SpdmMsg) (fn : Option Nat) (heartbeat : Nat)
  /-- R416: SPDM FINISH completes and the session becomes ACTIVE. -/
  | finishh (m : SpdmMsg)
  /-- R416: SPDM HEARTBEAT, which also resumes a FROZEN session. -/
  | heartbeat (m : SpdmMsg)
  /-- R413: SPDM KEY_UPDATE request. -/
  | keyUpdate (m : SpdmMsg)
  /-- R416: SPDM END_SESSION makes the session LOST. -/
  | endSession (m : SpdmMsg)
  /-- R414: Installs a weight key W as a WEIGHT entry. -/
  | setWeightKey (m : SpdmMsg) (colour : Nat) (key : List Byte)
  /-- R414: Joins the device to a device group with a group key. -/
  | setGroup (m : SpdmMsg) (g : GroupReq)
  /-- R414: Sets the grace period of later freezes. -/
  | setGrace (m : SpdmMsg) (ms : Nat)
  /-- R418: Destroys a WEIGHT entry of the session. -/
  | destroyKey (m : SpdmMsg) (colour : Nat)
  /-- R443: Returns a stored scrub receipt by sequence number. -/
  | getReceipt (r : ReceiptReq)
  /-- R416: No valid message within twice the heartbeat period freezes the session. -/
  | sessionTimeout (sess : Nat)
  /-- R418: The grace period ends and the session becomes LOST with keys destroyed and teams terminated. -/
  | graceExpiry (sess : Nat)
  /-- R363: The debugger sets a breakpoint address. -/
  | debugSetBreakpoint (colour addr : Nat)
  /-- R364: The debugger steps one run of a named thread's subset. -/
  | debugStep (team gid thread : Nat)
  /-- R420: The debugger requests a debug stop of a group. -/
  | debugHalt (team gid : Nat)
  /-- R364: The debugger resumes a stopped group to READY. -/
  | debugResume (team gid : Nat)
  /-- R402: A debugger read through Wellhead, refused with CO_DEBUG for CO data. -/
  | debugRead (team : Nat) (cap : DbgCap) (addr size : Nat)
  /-- R349: The PF sets a function's WDRR weight through management. -/
  | setFunctionWeight (fn w : Nat)
  /-- R372: The PF driver sets a context's shared colour set. -/
  | setSharedColours (colour : Nat) (shared : List Nat)
  /-- R446: The PF sets the module power limit. -/
  | setPowerLimit (watts : Nat)
  /-- R438: The PF sets the lasting-error window W. -/
  | setErrorWindow (w : Nat)
  /-- R438: A correctable error is corrected and counted, possibly retiring or disabling its instance. -/
  | correctableError (site : ErrSite)
  /-- R437: An uncorrectable error marks its instance lasting and its data uncorrectable. -/
  | uncorrectableError (site : ErrSite)
  /-- R437: The patrol scrub visits an HBM4 sector. -/
  | patrolScrub (sector : Nat)
  /-- R446: Junction temperature reaches 110 C and the module powers off. -/
  | thermalShutdown
  /-- R447: Power-on or PF request ends all state and runs measured boot. -/
  | coldReset (boot : BootReq)
  /-- R447: A VF reset terminates its contexts and issues receipts. -/
  | functionLevelReset (fn : Nat)
  /-- R11: A host write to a control register that has no row of its own. -/
  | registerWrite (fn off size : Nat) (val : BitVec 64)
  /-- R411: A TDISP lock moves a VF's TDI to CONFIG_LOCKED and binds its function session. -/
  | tdispLock (fn : Nat) (sess : Nat)
  /-- R411: A TDISP request moves a locked TDI into RUN, where sealed imports, SET_WEIGHT_KEY, SET_GROUP and IDE stream rules apply. -/
  | tdiRun (fn : Nat)
  /-- R412: IDE_KM messages over a function's secured session key the function's PCIe IDE selective stream. -/
  | ideKm (m : SpdmMsg)
  /-- R445: The PF stages a firmware update, which takes effect and is measured into register 7 at the next cold reset. -/
  | firmwareStage (image : List Byte)
  /-- R428: A debugger attaches to or detaches from a context, setting whether brk stops the group and whether TEAMSTOP applies. -/
  | debuggerAttach (colour : Nat) (attached teamstop : Bool)
  /-- R308: An external switch fails after the first chunk has left, and every command of the ring ends FAULT with LINK_LOST and no fallback. -/
  | switchFailure (cid : Nat)
  deriving DecidableEq, Repr

end Sys2Proof
end

