-- ==== Sys2Proof/Machine/State.lean ====
section
/-! DEFINITION. Machine/State.lean: everything the spec gives the machine, as plain data; the faults and
refusals of a step; the machine right after reset.

Every field's comment ends with its width, the file and rule of spec/ that names it, and its reset value in
square brackets. "no object at reset" means that the spec lets no such object exist at a cold reset (20 R447: every
context, key and session ends), and the value given is the one the spec states for the moment the object is made. -/

namespace Sys2Proof.Machine

open Sys2Proof

/-- Why a step can stop for good. -/
inductive Fault where
  /-- An access that passed the checks of 13 R271 reached an unpopulated address of 01 R20, which R21 says no
  tagged capability authorises. Raised by the byte accesses of Machine/Ops.lean. Safe: the machine stops. -/
  | unpopulated (addr : Nat)
  deriving DecidableEq, Repr

/-- Why a step can be refused. -/
inductive Refusal where
  /-- No meaning has been written for this row of spec/opcode_table.json. Safe: the machine stops. -/
  | notModelled (mnemonic : String)
  deriving DecidableEq, Repr

/-- A capability with its tag (17 R365). -/
structure TCap where
  /-- The 128 bits. [128; 17 R365; 0] -/
  bits : BitVec 128
  /-- The tag. [1; 17 R365; 0] -/
  tag : Bool
  deriving DecidableEq, Repr

/-- 128 zero bits, untagged. -/
def TCap.null : TCap := ⟨0, false⟩

/-- The side state of a v or s register (03 R55, R63). -/
structure Side where
  /-- The pending bit. [1; 03 R55; clear at admission, 02 R37] -/
  pend : Bool
  /-- The queue of the pending load. [3; 03 R55; 0] -/
  pq : Fin 8
  /-- The taint set. [8; 03 R55; 0] -/
  taint : Taint
  /-- The label. [2; 03 R55; 0] -/
  lbl : Label
  deriving DecidableEq, Repr

/-- Clear side state (02 R37). -/
def Side.clear : Side := ⟨false, 0, 0, 0⟩

/-- One latch of a group (03 R58, 04 R84). -/
structure Latch where
  /-- Captured since the run began or last restarted. [1; 04 R84; invalid] -/
  valid : Bool
  /-- The captured 32-bit values, thread by thread; an unlisted thread holds 0. [32 per thread; 04 R84; 0] -/
  vals : List (Nat × Word)
  /-- Taint of the value. [8; 03 R58; 0] -/
  taint : Taint
  /-- Label of the value. [2; 03 R58; 0] -/
  lbl : Label
  /-- Captured by a uniform instruction. [1; 04 R84; 0] -/
  uniform : Bool
  deriving DecidableEq, Repr

/-- An invalid latch. -/
def Latch.empty : Latch := ⟨false, [], 0, 0, false⟩

/-- One thread of a group (02 R28, 03 R67). -/
structure Thread where
  /-- Program counter. [56; 02 R37; code base + ENTRY] -/
  pc : BitVec 56
  /-- Meeting register. [56; 02 R37; 0xFF_FFFF_FFFF_FFFF] -/
  meet : BitVec 56
  /-- The thread has exited. [1; 02 R37; 0] -/
  exited : Bool
  /-- HELD at its meeting register. [1; 03 R67; 0] -/
  held : Bool
  /-- DEMOTED by the spin detector. [1; 03 R67; 0] -/
  demoted : Bool
  /-- SINCE: runs since the thread's subset last ran, 0 to 255. [8; 03 R67; 0] -/
  since : Nat
  /-- DLEFT: cycles of demotion left, 0 to 4,096. [13; 03 R67; 0] -/
  dleft : Nat
  deriving DecidableEq, Repr

/-- The state of one element of an outstanding load (13 R273, R274). -/
inductive ElemStatus where
  | waiting
  | pageWait (addr : Nat)
  | failed (code : Byte) (addr : Nat)
  | delivered
  | dropped
  deriving DecidableEq, Repr

/-- One element of an outstanding load: its thread, its bytes, and for each of its parts by line (12 R267) the instants
before which no L1 copy and no remote-data-cache copy may answer it (12 R251); 0 restricts nothing. -/
structure LoadElem where
  thread : Nat
  addr : Nat
  bytes : Nat
  mins : List (Nat × Nat)
  keepTag : Bool
  colour : Nat
  status : ElemStatus
  deriving DecidableEq, Repr

/-- What an outstanding load delivers (13 R269, R277, R283). -/
inductive LoadKind where
  | plain (size pos : Nat) (sx : Bool)
  | cap
  | atomic (width : Nat)
  deriving DecidableEq, Repr

/-- A load, capability load or value-returning atomic that no completed `qwait` covers (13 R273). -/
structure Load where
  /-- Issue number among the group's loads. [32; 03 R67; none] -/
  iseq : Nat
  /-- The queue named. [3; 13 R273; none] -/
  queue : Fin 8
  /-- Address of the instruction. [56; 03 R67; none] -/
  pc : BitVec 56
  /-- The destination registers. [9; 13 R273; none] -/
  dst : Dst
  /-- What is delivered. [-; 13 R269; none] -/
  kind : LoadKind
  /-- The elements. [-; 13 R273; none] -/
  elems : List LoadElem
  deriving DecidableEq, Repr

/-- The state of a group (02 R43); SAVED is held by its team. -/
inductive GStatus where
  | ready
  | running
  | waiting
  | barrier
  | parked
  | replayable
  | stopped
  | exited
  deriving DecidableEq, Repr

/-- The recorded condition of a group that waits (02 R45, 19 R435). -/
inductive Wait where
  | none
  | qwait (mask : BitVec 8)
  | mwait (mask : BitVec 16)
  | ewait (n : Nat)
  | acqGe (e scope : Nat) (threshold : DWord)
  | sleep (wake : Nat)
  | dredge (pass : Nat)
  | bar (n : Nat) (rearrive : Bool)
  | park (lines : List (Nat × Nat))
  | hold (ns : List Nat)
  | page (addr : Nat) (store : Bool)
  deriving DecidableEq, Repr

/-- The trap frame of a group (19 R421). -/
structure Frame where
  /-- CODE. [8; 19 R421; 0] -/
  code : Byte
  /-- FFLAGS bit 0, ACTIVE. [1; 19 R421; 0] -/
  active : Bool
  /-- FFLAGS bit 1, NESTED. [1; 19 R421; 0] -/
  nested : Bool
  /-- XFLAGS. [7; 19 R421; 0] -/
  xflags : BitVec 7
  /-- FTHREAD. [8; 19 R421; 0] -/
  fthread : Byte
  /-- FORM. [8; 19 R421; 0] -/
  form : Byte
  /-- OPC. [16; 19 R421; 0] -/
  opc : BitVec 16
  /-- FPC. [64; 19 R421; 0] -/
  fpc : DWord
  /-- RPC, writable through the window. [64; 19 R421; 0] -/
  rpc : DWord
  /-- FADDR. [64; 19 R421; 0] -/
  faddr : DWord
  /-- LPC. [64; 19 R421; 0] -/
  lpc : DWord
  /-- SUBSET. [64; 19 R421; 0] -/
  subset : Mask
  /-- AMASK. [64; 19 R421; 0] -/
  amask : Mask
  /-- AUX. [64; 19 R421; 0] -/
  aux : DWord
  /-- WORDS. [128; 19 R421; 0] -/
  words : List Word
  /-- DST, SRCA, SRCB, SRCC, SRCD. [5 x 16; 19 R421; 0] -/
  ops : List (BitVec 16)
  /-- MOD, QUAL, QUAL2. [3 x 8; 19 R421; 0] -/
  mods : List Byte
  /-- G1, G2. [2 x 8; 19 R421; 0] -/
  guards : List Byte
  /-- IMM. [32; 19 R421; 0] -/
  imm : BitVec 32
  /-- KCODE. [128 and tag; 19 R421; zero, untagged] -/
  kcode : TCap
  deriving DecidableEq, Repr

/-- A frame of zeros. -/
def Frame.zero : Frame :=
  ⟨0, false, false, 0, 0, 0, 0, 0, 0, 0, 0, 0, 0, 0, [], [], [], [], 0, TCap.null⟩

/-- The spin detector of a group (16 R357). -/
structure Spin where
  /-- Source address of the last watched transfer. [56; 16 R357; none watched] -/
  src : BitVec 56
  /-- Target of that transfer. [56; 16 R357; none watched] -/
  dst : BitVec 56
  /-- The subset that made it; empty when none is watched. [64; 16 R357; 0] -/
  subset : Mask
  /-- No write of the present iteration changed a value and no excluded instruction ran. [1; 16 R357; 1] -/
  silent : Bool
  /-- Consecutive silent iterations. [3; 16 R357; 0] -/
  count : Nat
  deriving DecidableEq, Repr

/-- A detector that watches nothing. -/
def Spin.idle : Spin := ⟨0, 0, 0, true, 0⟩

/-- The progress of the run a group is executing (04 R81, R84). -/
structure Run where
  /-- The running subset. [64; 15 R322; empty] -/
  subset : Mask
  /-- Instructions executed since the run began. [5; 04 R81; 0] -/
  count : Nat
  /-- The run is the continuation of one that stopped (04 R84). [1; 04 R84; 0] -/
  resumed : Bool
  /-- A breakpoint at the run's start is passed over once (16 R363). [1; 16 R363; 0] -/
  skipBreak : Bool
  /-- The run was granted by a debug step (16 R364). [1; 16 R364; 0] -/
  stepped : Bool
  deriving DecidableEq, Repr

/-- No run. -/
def Run.idle : Run := ⟨0, 0, false, false, false⟩

/-- The part of the frame that the word gives (19 R421). -/
structure FrameWord where
  form : Byte
  opc : BitVec 16
  words : List Word
  ops : List (BitVec 16)
  mods : List Byte
  guards : List Byte
  imm : BitVec 32
  amask : Mask
  length : Nat
  deriving DecidableEq, Repr

/-- The instruction a WAITING group waits at: what a fault of the wait, or a save of a condition that is re-evaluated,
goes back to (13 R274, 19 R435). -/
structure WaitAt where
  /-- The threads as they stood at the instruction. [-; 13 R274; none] -/
  threads : List Thread
  /-- The run as it stood at the instruction. [-; 13 R274; none] -/
  run : Run
  /-- The fields of the instruction. [-; 19 R421; none] -/
  word : FrameWord
  deriving DecidableEq, Repr

/-- One group of threads (02 R28, R37; 03 R49, R55, R59). -/
structure Group where
  /-- The team's identity. [-; 02 R28; no object at reset] -/
  team : Nat
  /-- `gid`. [5; 02 R28; no object at reset] -/
  gid : Nat
  /-- CoreIndex of the core it lives on. [10; 02 R29; no object at reset] -/
  core : Nat
  /-- Quadrant it lives on. [2; 02 R29; no object at reset] -/
  quad : Nat
  /-- Slot on that quadrant. [4; 16 R353; no object at reset] -/
  slot : Nat
  /-- State. [-; 02 R43; READY at admission] -/
  status : GStatus
  /-- STATE[15:8]: the fault code of a REPLAYABLE or STOPPED group. [8; 03 R67; 0] -/
  stopCode : Byte
  /-- The recorded condition. [64; 19 R435; none] -/
  wait : Wait
  /-- The instruction it waits at, while WAITING. [-; 13 R274; none] -/
  waitAt : Option WaitAt
  /-- CLK when it entered READY. [64; 16 R353; CLK at admission] -/
  readySince : Nat
  /-- READY without a grant for 16,384 cycles. [1; 16 R353; 0] -/
  aged : Bool
  /-- The instruction at hand waits at issue for an event (13 R273, R278, R282). The model's own. [1; 13 R278; 0] -/
  stall : Bool
  /-- The threads, in index order. [width records; 02 R37; as Thread] -/
  threads : List Thread
  /-- v registers, vn of thread i under key 64n + i; unlisted reads 0. [32 each; 03 R49; zero] -/
  v : List (Nat × Word)
  /-- Side state of vn under key n. [14 each; 03 R55; clear] -/
  vside : List (Nat × Side)
  /-- Capability tag of the quad v4m of thread i under key 64m + i. [1 each; 03 R56; clear] -/
  vtag : List (Nat × Bool)
  /-- s registers, sn under key n. [64 each; 03 R49; s0 to s9 from the launch record, others zero] -/
  s : List (Nat × DWord)
  /-- Side state of sn under key n. [14 each; 03 R55; labels of s2 to s9 from the record's sectors, else clear] -/
  sside : List (Nat × Side)
  /-- Capability tag of the pair s2m under key m. [1 each; 03 R56; s0's pair from ARG, else clear] -/
  stag : List (Nat × Bool)
  /-- p registers, pn under key n, bit i for thread i. [64 each; 03 R52; p1 to p15 zero] -/
  p : List (Nat × Mask)
  /-- Labels of the p registers. [2 each; 03 R55; 0] -/
  plbl : List (Nat × Label)
  /-- c0 to c7. [8; 03 R53; 0] -/
  c : BitVec 8
  /-- Labels of the c registers. [2 each; 03 R55; 0] -/
  clbl : List (Nat × Label)
  /-- `sr.mode`. [32; 07 R142; MODE of the launch record] -/
  mode : Word
  /-- `sr.sat`. [32; 07 R146; 0] -/
  sat : Word
  /-- `sr.psize`. [32; 11 R233; width] -/
  psize : Word
  /-- Labels of `sr.mode`, `sr.sat` and `sr.psize`. [2 each; 03 R59; 0] -/
  srlbl : List (Nat × Label)
  /-- lat0 to lat2. [32 per thread and side state; 03 R58; invalid] -/
  lats : List Latch
  /-- The condition recorded at a save became true while the team was SAVED: it takes effect at the restore. [1; 02 R45; 0] -/
  met : Bool
  /-- Words with an uncorrectable error: 64n + i for vn of thread i, 65536 + 64n + i for lat n of thread i. [1 each; 20 R437;
  none] -/
  vbad : List Nat
  /-- Loads that no completed `qwait` covers, in issue order. [-; 13 R273; empty] -/
  loads : List Load
  /-- Issue number of the next load. [32; 03 R67; 0] -/
  nextIseq : Nat
  /-- `qwait` stamps of q0 to q7 as (queue, instant). [8; 12 R261; instant of admission] -/
  qstamp : List (Nat × Nat)
  /-- Stamp of admission or restore, which every load must meet. [-; 12 R251; instant of admission] -/
  admitStamp : Nat
  /-- Latest fence stamp that restricts L1 copies. [-; 12 R258; 0] -/
  fenceL1 : Nat
  /-- Latest fence stamp that restricts remote-data-cache copies. [-; 12 R258; 0] -/
  fenceRdc : Nat
  /-- Ranges that an `ewait` acquired, as (base, top, stamp). [-; 12 R263; empty] -/
  acquiredRanges : List (Nat × Nat × Nat)
  /-- Identity of the synchronisation operation later accesses must wait for, 0 for none. [-; 13 R295; 0] -/
  fencing : Nat
  /-- Stores, by line address, that this group committed since its last fence (12 R258). [-; 12 R258; empty] -/
  written : List Nat
  /-- The group's code capability. [128 and tag; 15 R330; CODE of the launch record] -/
  kcode : TCap
  /-- The trap frame. [1,024; 19 R421; zero] -/
  frame : Frame
  /-- The spin detector. [-; 16 R357; idle] -/
  spin : Spin
  /-- The run in progress. [-; 04 R81; none] -/
  run : Run
  /-- Instructions of the faulting run that the run after `rfe` continues (19 R430, 04 R84). [5; 19 R430; 0] -/
  cont : Nat
  /-- Set when the group was stopped by the debugger and not by a fault (19 R420). [1; 16 R364; 0] -/
  debugStop : Bool
  /-- TEAMSTOP asks for a debug stop at the end of the current run (16 R363). [1; 16 R363; 0] -/
  haltAtEnd : Bool
  /-- The breakpoint address at which it stopped: the subset there executes once without triggering (16 R363). [56; 16 R363;
  none] -/
  skipAt : Option (BitVec 56)
  /-- A window store of the group was refused when it was performed: the code and the address, raised at the group's next
  instruction (03 R64). [64; 03 R64; none] -/
  owed : Option (Byte × Nat)
  /-- The page request of the store at which the group was REPLAYABLE failed: the PASID and the page for which that store raises
  HOST_DENIED (18 R409). [-; 18 R409; none] -/
  refused : Option (Nat × Nat)
  deriving DecidableEq, Repr

/-- A tile register of a team on one core (03 R49, R55; 18 R403). -/
structure Tile where
  /-- Bytes by offset; unlisted reads 0. [64 KiB; 03 R49; zero at admission] -/
  bytes : List Host.Cell
  /-- LBL. [2; 03 R55; 0] -/
  lbl : Label
  /-- CO. [1; 03 R55; 0] -/
  co : Bool
  /-- KEYCOL. [12; 03 R66; 0] -/
  keycol : Nat
  /-- Its words (by offset / 4) that hold an uncorrectable error. [1 each; 20 R437; none] -/
  bad : List Nat
  deriving DecidableEq, Repr

/-- A zero tile (02 R38). -/
def Tile.zero : Tile := ⟨[], 0, false, 0, []⟩

/-- An accumulator tile of a team on one core (03 R49, R55; 09 R205). -/
structure Acc where
  /-- Element (row, col) under key 128 row + col; unlisted reads 0. [160 x 128 x 32; 03 R49; zero] -/
  el : List (Nat × Word)
  /-- LBL. [2; 03 R55; 0] -/
  lbl : Label
  /-- STREAM. [1; 03 R55; 0] -/
  stream : Bool
  /-- UNWAITED. [1; 09 R205; 0] -/
  unwaited : Bool
  /-- UNWAITED was set here by an integer `mma` on the tile below (09 R206). [1; 09 R206; 0] -/
  inner : Bool
  /-- Its elements that hold an uncorrectable error. [1 each; 20 R437; none] -/
  bad : List Nat
  deriving DecidableEq, Repr

/-- A zero accumulator (02 R38). -/
def Acc.zero : Acc := ⟨[], 0, false, false, false, []⟩

/-- The line state of a tarn line (03 R55, R65; 13 R280). -/
structure TLine where
  /-- Commands that cleared PRESENT and have not finished with the line; PRESENT when empty. [1; 13 R280; present] -/
  awaits : List Nat
  /-- LBL. [2; 03 R55; 0] -/
  lbl : Label
  deriving DecidableEq, Repr

/-- A present line of label 0. -/
def TLine.clear : TLine := ⟨[], 0⟩

/-- What a team holds on one of its cores (02 R33). -/
structure CoreRes where
  /-- CoreIndex. [10; 01 R14; no object at reset] -/
  core : Nat
  /-- Resident-team slot of that core. [3; 03 R61; no object at reset] -/
  slot : Nat
  /-- Tarn bytes; unlisted reads 0. [TARN x 4 KiB; 03 R49; zero] -/
  tarn : List Host.Cell
  /-- Tarn line states. [per line; 03 R55; present, label 0] -/
  tline : List (Nat × TLine)
  /-- Tile registers t0 to t7. [8; 03 R49; zero] -/
  tiles : List (Nat × Tile)
  /-- Accumulator tiles a0 to a15. [16; 03 R49; zero] -/
  accs : List (Nat × Acc)
  /-- Mere scratch bytes; unlisted reads 0. [MSCR x 16 KiB; 03 R62; zero] -/
  mscr : List Host.Cell
  /-- Words of the tarn (by offset / 4) that hold an uncorrectable error. [1 each; 20 R437; none] -/
  tbad : List Nat
  /-- Words of mere scratch that hold an uncorrectable error. [1 each; 20 R437; none] -/
  mbad : List Nat
  deriving DecidableEq, Repr

/-- The matrix record of one accumulator number (09 R217). -/
structure MRec where
  /-- KCOUNT. [32; 09 R217; 0] -/
  kcount : Nat
  /-- PFLAGS. [7; 09 R217; 0] -/
  pflags : BitVec 7
  /-- ARMED. [1; 09 R217; 0] -/
  armed : Bool
  /-- EXPECT. [6; 09 R217; 0] -/
  expect : Nat
  /-- RSLOT. [3; 09 R217; 0] -/
  rslot : Nat
  /-- DONE, bit j for ClusterInGang j. [48; 09 R217; 0] -/
  done : BitVec 48
  /-- Notified senders, oldest first, as (ClusterInGang, team, accumulator). [-; 09 R214; empty] -/
  notified : List (Nat × Nat × Nat)
  /-- DRAINING. [1; 09 R217; 0] -/
  draining : Bool
  /-- TACC. [4; 09 R217; 0] -/
  tacc : Nat
  /-- TTEAM. [4; 09 R217; 0] -/
  tteam : Nat
  /-- TCIG. [6; 09 R217; 0] -/
  tcig : Nat
  /-- A failure the covering `mwait` raises; 0 for none. [8; 09 R218, 10 R231; 0] -/
  err : Byte
  /-- The sector that the failure reports (19 R419). [-; 09 R218; 0] -/
  errAt : Nat
  /-- An integer `mma`, `mdrain` or `mrecv` issued and not retired by an `mwait` (10 R225). [1; 10 R225; 0] -/
  owed : Bool
  deriving DecidableEq, Repr

/-- A record of zeros. -/
def MRec.zero : MRec := ⟨0, 0, false, 0, 0, 0, [], false, 0, 0, 0, 0, 0, false⟩

/-- The stream word of one accumulator number (10 R232). -/
structure SWord where
  /-- LIVE. [1; 10 R232; 0] -/
  live : Bool
  /-- PAIRS. [1; 10 R232; 0] -/
  pairs : Bool
  /-- SBASE. [4; 10 R232; 0] -/
  sbase : Nat
  /-- K, as `vinit` fixed it at issue. [9; 10 R225; 0] -/
  k : Nat
  /-- The operands NLBL, NSH, VLIM, LSCALE as issued, for the checks that read only issue state. [-; 10 R224; 0] -/
  nlbl : Nat
  nsh : Nat
  vlim : Nat
  lscale : Word
  /-- The shards covered once every issued operation has executed. [8 each; 10 R220; 0] -/
  shlo : Nat
  shhi : Nat
  /-- The label ids as issued, word 4r + j for label j of row r. [640 x 32; 10 R225; empty] -/
  lids : List Word
  deriving DecidableEq, Repr

/-- No stream. -/
def SWord.none : SWord := ⟨false, false, 0, 0, 0, 0, 0, 0, 0, 0, []⟩

/-- A binding entry (12 R254, 13 R292). -/
structure Binding where
  /-- The sync-object capability. [128 and tag; 12 R254; empty] -/
  sync : TCap
  /-- The region capability. [128 and tag; 12 R254; empty] -/
  region : TCap
  /-- The acquire stamp that restricts L1 copies. [-; 12 R254; 0] -/
  stampL1 : Nat
  /-- The acquire stamp that restricts remote-data-cache copies. [-; 12 R254; 0] -/
  stampRdc : Nat
  deriving DecidableEq, Repr

/-- An empty entry. -/
def Binding.empty : Binding := ⟨TCap.null, TCap.null, 0, 0⟩

/-- The state of a guard slot (03 R49, 14 R309). -/
inductive GuardState where
  | unresolved
  | known (b : Bool)
  deriving DecidableEq, Repr

/-- A named barrier (15 R339). -/
structure Barrier where
  /-- PHASE. [16; 15 R339; 0] -/
  phase : BitVec 16
  /-- ARRIVED. [32; 15 R339; 0] -/
  arrived : BitVec 32
  deriving DecidableEq, Repr

/-- A barrier in its initial phase. -/
def Barrier.zero : Barrier := ⟨0, 0⟩

/-- The state of a team (02 R47); a team that is not yet admitted has no record. -/
inductive TStatus where
  | admitted
  | saving
  | saved
  | draining
  | retired
  deriving DecidableEq, Repr

/-- One admitted team (02 R28, R33, R47). -/
structure Team where
  /-- Identity. [-; 02 R47; no object at reset] -/
  id : Nat
  /-- Its grid. [-; 02 R28; no object at reset] -/
  grid : Nat
  /-- `kid`. [31; 02 R28; no object at reset] -/
  kid : Nat
  /-- State. [-; 02 R47; ADMITTED] -/
  status : TStatus
  /-- Its single core, or leader and then follower. [-; 02 R33; as CoreRes] -/
  cores : List CoreRes
  /-- ClusterIndex of its cores. [6; 01 R14; no object at reset] -/
  cluster : Nat
  /-- Guard slots; unlisted is unresolved. [16; 14 R309; unresolved] -/
  guards : List (Nat × GuardState)
  /-- Named barriers. [16; 15 R339; initial phase] -/
  bars : List (Nat × Barrier)
  /-- Binding entries. [16; 12 R254; empty] -/
  binds : List (Nat × Binding)
  /-- Matrix records. [16; 09 R217; zero] -/
  mrecs : List (Nat × MRec)
  /-- Stream words. [16; 10 R232; zero] -/
  streams : List (Nat × SWord)
  /-- CLK at its admission, for the preference of 16 R352. [64; 16 R352; no object at reset] -/
  admitClk : Nat
  /-- The team is being terminated with this code once no group of it is in a run (16 R347). [8; 02 R48; none] -/
  term : Option Byte
  /-- Targets to which its ordered adds have contributed, for the sums at its retirement. [-; 13 R289; empty] -/
  contributed : List Nat
  /-- A release that ends demotion has performed while the team was SAVED: it takes effect at the restore. [1; 16 R358; 0] -/
  calmed : Bool
  deriving DecidableEq, Repr

/-- A placement that a unit keeps until it is admitted there, while its victims are saved (16 R352). -/
structure Claim where
  /-- The grid whose next team or gang it is. [-; 16 R352; no object at reset] -/
  grid : Nat
  /-- The cores of each team of the unit, in order of `kid`. [-; 16 R352; no object at reset] -/
  place : List (List Nat)
  /-- The teams being saved for it. [-; 16 R352; no object at reset] -/
  victims : List Nat
  deriving DecidableEq, Repr

/-- An accepted grid with the fields of its launch record (02 R35, R48; 16 R343). -/
structure Grid where
  /-- Identity, in order of acceptance. [-; 16 R343; no object at reset] -/
  id : Nat
  /-- Its context's colour. [12; 16 R344; no object at reset] -/
  colour : Nat
  /-- The function and launch queue that accepted it. [6 and 4; 16 R341; no object at reset] -/
  fn : Nat
  queue : Nat
  /-- TAG, CMPL, IRQ and VECTOR of the packet. [64, 64, 1, 11; 16 R342; no object at reset] -/
  tag : DWord
  cmpl : Nat
  irq : Bool
  vector : Nat
  /-- WIDTH in threads. [-; 02 R35; no object at reset] -/
  width : Nat
  /-- PLACE bit 0. [1; 02 R35; no object at reset] -/
  pair : Bool
  /-- NGROUPS. [8; 02 R35; no object at reset] -/
  ngroups : Nat
  /-- PRIO. [4; 02 R35; no object at reset] -/
  prio : Nat
  /-- ISSUER, none for 0xFF. [8; 02 R35; no object at reset] -/
  issuer : Option Nat
  /-- FORM: 1 Torub-N. [8; 02 R35; no object at reset] -/
  native : Bool
  /-- MODE. [32; 02 R35; no object at reset] -/
  mode : Word
  /-- VREGS, TARN, TILES, ACCS, MSCR, GUARDS, BARS, BINDS. [8 to 16; 02 R35; no object at reset] -/
  vregs : Nat
  tarn : Nat
  tiles : Nat
  accs : Nat
  mscr : Nat
  guards : Nat
  bars : Nat
  binds : Nat
  /-- VCL and GANG. [8 and 16; 02 R35; no object at reset] -/
  vcl : Nat
  gang : Nat
  /-- NTEAMS. [32; 02 R35; no object at reset] -/
  nteams : Nat
  /-- ENTRY. [32; 02 R35; no object at reset] -/
  entry : Nat
  /-- Format slots f0 to f7. [8 x 32; 07 R139; no object at reset] -/
  fmt : List Word
  /-- CODE, ARG, SPILL, OVFL. [128 and tag each; 02 R35; no object at reset] -/
  code : TCap
  arg : TCap
  spill : TCap
  ovfl : TCap
  /-- SARG and the labels of the sectors it was read from. [8 x 64, 8 x 2; 02 R37; no object at reset] -/
  sarg : List DWord
  sargLbl : List Label
  /-- Next `kid` to be admitted. [32; 02 R40; 0] -/
  nextKid : Nat
  /-- CLK at the first admission, 0 before it. [64; 16 R346; 0] -/
  start : Nat
  /-- The grid was terminated, with this code and this lowest kid. [8, 32; 02 R48, 16 R346; none] -/
  term : Option (Byte × Nat)
  /-- The packet held SERIAL and is the last accepted of its queue (16 R343). [1; 16 R342; no object at reset] -/
  serial : Bool
  /-- The grid has completed. [1; 02 R48; 0] -/
  complete : Bool
  /-- Ordered contributions made so far, as (kid, rank, target, number): the next seq (11 R246). [-; 13 R287; empty] -/
  seqs : List (Nat × Nat × Nat × Nat)
  /-- The markers that its completion waits for have been gathered (12 R264). [1; 12 R264; 0] -/
  gathered : Bool
  deriving DecidableEq, Repr

/-- A dimension of a shape record (14 R300). -/
structure Dim where
  extent : Nat
  srcStride : Int
  dstStride : Int
  deriving DecidableEq, Repr

/-- The fields of an installed shape record (14 R300, R303). -/
structure Shape where
  src : TCap
  dst : TCap
  synca : TCap
  syncr : TCap
  cmpl : TCap
  idx : TCap
  x0 : Nat
  dims : List Dim
  advs : Int
  advd : Int
  fmt : Nat
  red : Nat
  coll : Nat
  rmask : Nat
  gridExt : BitVec 16
  acq : Option Nat
  rel : Option (Nat × Nat)
  acqv : DWord
  relv : DWord
  sw : Bool
  fallback : Bool
  clog2 : Nat
  cid : Nat
  shs : Int
  coords : BitVec 32
  /-- SWSTATE: 0 none, 1 granted and held, 2 denied, 3 outstanding. [2; 14 R319; 0] -/
  swstate : Nat
  deriving DecidableEq, Repr

/-- A slot of a context's shape table (14 R299). -/
structure ShapeSlot where
  /-- Generation. [16; 14 R299; 1] -/
  gen : Nat
  /-- The record, when one is installed. [-; 14 R299; free] -/
  rcd : Option Shape
  deriving DecidableEq, Repr

/-- A free slot of generation 1. -/
def ShapeSlot.free : ShapeSlot := ⟨1, Option.none⟩

/-- The recipient of a delegation (17 R385). -/
inductive Recipient where
  | team (grid kid : Nat)
  | context (colour : Nat)
  | peer (member : Nat)
  deriving DecidableEq, Repr

/-- A slot of a context's grant table (17 R384). -/
structure GrantSlot where
  /-- Generation. [16; 17 R384; 1] -/
  gen : Nat
  /-- The derived capability and its recipient, with the delegator's grid. [-; 17 R384; free] -/
  entry : Option (TCap × Recipient × Nat)
  deriving DecidableEq, Repr

/-- A free slot of generation 1. -/
def GrantSlot.free : GrantSlot := ⟨1, Option.none⟩

/-- A context (16 R348, 17 R372, 18 R405, 19 R433). -/
structure Ctx where
  /-- Its colour. [12; 17 R372; no object at reset] -/
  colour : Nat
  /-- Its function. [6; 16 R348; no object at reset] -/
  fn : Nat
  /-- Its partition, bit c for ClusterIndex c. [64; 16 R348; no object at reset] -/
  pmask : BitVec 64
  /-- Its shared colours, at most 15. [15 x 12; 17 R372; no object at reset] -/
  shared : List Nat
  /-- Pairs retired when it was created. [-; 16 R348; no object at reset] -/
  retired : List Nat
  /-- Its save area. [-; 19 R433; no object at reset] -/
  saveBase : Nat
  saveLen : Nat
  /-- Its shape table. [65,536 slots; 14 R299; free, generation 1] -/
  shapes : List (Nat × ShapeSlot)
  /-- Its grant table. [4,096 slots; 17 R384; free, generation 1] -/
  grants : List (Nat × GrantSlot)
  /-- A debugger is attached. [1; 19 R428; 0] -/
  debugger : Bool
  /-- TEAMSTOP. [1; 16 R363; 0] -/
  teamstop : Bool
  /-- Breakpoint addresses, at most 16. [16 x 56; 16 R363; none] -/
  breaks : List (BitVec 56)
  deriving DecidableEq, Repr

/-- A launch queue of a function (16 R341). -/
structure LQueue where
  /-- QBASE. [64; 16 R341; 0, DESIGN CHOICE] -/
  qbase : DWord
  /-- QCFG. [32; 16 R341; 0, DESIGN CHOICE] -/
  qcfg : Word
  /-- QCTL.ENABLE. [1; 16 R341; 0, DESIGN CHOICE] -/
  enable : Bool
  /-- A write of 1 to ENABLE waits for translations of the ring. The model's own. [1; 16 R344; 0] -/
  enabling : Bool
  /-- QSTAT.RUNNING. [1; 16 R341; 0, DESIGN CHOICE] -/
  running : Bool
  /-- QSTAT.STOPPED. [1; 16 R341; 0, DESIGN CHOICE] -/
  stopped : Bool
  /-- QSTAT.STOPCODE. [8; 16 R341; 0, DESIGN CHOICE] -/
  stopcode : Byte
  /-- RDIDX. [32; 16 R341; 0, DESIGN CHOICE] -/
  rdidx : Word
  /-- WRIDX. [32; 16 R341; 0, DESIGN CHOICE] -/
  wridx : Word
  /-- KTAG. [64; 16 R341; 0, DESIGN CHOICE] -/
  ktag : DWord
  /-- KSTAT. [2; 16 R341; 0 idle, DESIGN CHOICE] -/
  kstat : Nat
  /-- The grid that the terminate command under way found, 0 for none. [-; 16 R347; 0] -/
  kgrid : Nat
  deriving DecidableEq, Repr

/-- A queue after reset. -/
def LQueue.reset : LQueue := ⟨0, 0, false, false, false, false, 0, 0, 0, 0, 0, 0⟩

/-- A fault-ring record (19 R431). -/
structure FaultRec where
  tag : DWord
  kid : Nat
  core : Nat
  gid : Nat
  code : Byte
  fpc : DWord
  faddr : DWord
  aux : DWord
  subset : Mask
  colour : Nat
  nested : Bool
  teamterm : Bool
  team : Nat
  deriving DecidableEq, Repr

/-- An entry of a PASID table (18 R407). -/
structure PasidEntry where
  valid : Bool
  pasid : Nat
  colour : Nat
  deriving DecidableEq, Repr

/-- The state of a VF's TDI (18 R411). -/
inductive Tdi where
  | unlocked
  | locked
  | run
  | error
  deriving DecidableEq, Repr

/-- A page request (18 R409): its PASID, page and access type. -/
structure PageReq where
  pasid : Nat
  page : Nat
  write : Bool
  deriving DecidableEq, Repr

/-- A PCIe function: its BAR0 blocks and its management state (16 R341, R349; 17 R375; 18 R400, R407, R411; 19 R431). -/
structure Fn where
  /-- Launch queues 0 to 15; unlisted is as after reset. [16; 16 R341; as LQueue] -/
  queues : List (Nat × LQueue)
  /-- MBASE, MLEN, MDEST. [64 each; 17 R375; 0, DESIGN CHOICE] -/
  mbase : DWord
  mlen : DWord
  mdest : DWord
  /-- MPERM, MCOL, MKIND, MLBL. [16, 16, 8, 8; 17 R375; 0, DESIGN CHOICE] -/
  mperm : BitVec 16
  mcol : BitVec 16
  mkind : Byte
  mlbl : Byte
  /-- MSTAT. [8; 17 R375; 0 idle] -/
  mstat : Byte
  /-- SSRC, SDST, SLEN. [64 each; 18 R400; 0, DESIGN CHOICE] -/
  ssrc : DWord
  sdst : DWord
  slen : DWord
  /-- SCOL, SKEY, SOP, SIV. [16, 16, 8, 96; 18 R400; 0, DESIGN CHOICE] -/
  scol : BitVec 16
  skey : BitVec 16
  sop : Byte
  siv : List (Nat × Byte)
  /-- SSTAT. [8; 18 R400; 0 idle] -/
  sstat : Byte
  /-- PASID table. [16 x 64; 18 R407; 0] -/
  pasids : List (Nat × PasidEntry)
  /-- FBASE, FCFG, FCTL.ENABLE. [64, 32, 1; 19 R431; 0, DESIGN CHOICE] -/
  fbase : DWord
  fcfg : Word
  fenable : Bool
  /-- A write of 1 to FCTL.ENABLE waits for translations of the ring. The model's own. [1; 16 R344; 0] -/
  fenabling : Bool
  /-- FWR, FRD, FSEQ. [32 each; 19 R431; 0, DESIGN CHOICE] -/
  fwr : Word
  frd : Word
  fseq : Word
  /-- Fault records that wait to be written, in order. [-; 19 R431; empty] -/
  pendingRecs : List FaultRec
  /-- Records written, by record number, that FCMD can act on (19 R432). [-; 19 R432; empty] -/
  ring : List (Nat × FaultRec)
  /-- WDRR weight. [8; 16 R349; 1] -/
  weight : Nat
  /-- State of the TDI. [2; 18 R411; CONFIG_UNLOCKED, DESIGN CHOICE] -/
  tdi : Tdi
  /-- Its function session, 0 for none. [-; 18 R414; 0] -/
  session : Nat
  /-- Its IDE selective stream is keyed. [1; 18 R412; 0, DESIGN CHOICE] -/
  ide : Bool
  /-- MSI-X messages raised, newest last, as vectors. [-; 16 R346; empty] -/
  msix : List Nat
  /-- Queue-error vector raised, times. [-; 16 R345; 0] -/
  qerr : Nat
  /-- Page requests outstanding. [-; 18 R409; 0] -/
  pageReqs : List PageReq
  /-- Page requests that wait for one of the host's allocated number. [-; 18 R409; empty] -/
  pageQueue : List PageReq
  /-- The number of outstanding page requests that the host allocated. [-; 18 R409; 32, DESIGN CHOICE] -/
  pageMax : Nat
  /-- Pages whose request failed and which a control block or a packet has still to report. [-; 18 R409; empty] -/
  denied : List (Nat × Nat)
  deriving DecidableEq, Repr

/-- A function after reset. -/
def Fn.reset : Fn :=
  ⟨[], 0, 0, 0, 0, 0, 0, 0, 0, 0, 0, 0, 0, 0, 0, [], 0, [], 0, 0, false, false, 0, 0, 0, [], [], 1, .unlocked, 0, false,
   [], 0, [], [], 32, []⟩

/-- A copy of a 128-byte line in a private level (12 R249). -/
structure Copy where
  /-- The level. [-; 12 R249; no copy] -/
  cache : CacheId
  /-- Line address: byte address / 128. [49; 12 R249; no copy] -/
  line : Nat
  /-- Owner colour. [12; 01 R17; no copy] -/
  colour : Nat
  /-- Fill stamp. [-; 12 R249; no copy] -/
  stamp : Nat
  /-- The fill stamp of the remote-data-cache copy it was filled from, else its own. [-; 12 R251; no copy] -/
  base : Nat
  /-- Its 128 bytes, by offset; unlisted reads 0. [1,024; 12 R249; no copy] -/
  data : List Host.Cell
  /-- Dirty bits by byte offset, as bit masks. [1,024; 12 R249; no copy] -/
  dirty : List (Nat × Byte)
  /-- Capability tags of its eight granules. [8; 12 R252; no copy] -/
  tags : BitVec 8
  /-- Granules whose tag is dirty. [8; 12 R252; no copy] -/
  dirtyTags : BitVec 8
  /-- Labels of its four sectors. [8; 01 R17; no copy] -/
  lbls : List (Nat × Label)
  /-- CO of its four sectors. [4; 01 R17; no copy] -/
  co : BitVec 4
  /-- The translated address of a host line, none for a device line (18 R406, R408). [-; 18 R408; no copy] -/
  hpa : Option Nat
  deriving DecidableEq, Repr

/-- A register- or tarn-window access accepted and not yet performed (03 R64). -/
structure WinAcc where
  id : Nat
  /-- The accessing group, as (team, gid). [-; 03 R64; none] -/
  byTeam : Nat
  byGid : Nat
  /-- The load element it delivers to (iseq, thread), or none for a store. [-; 13 R276; none] -/
  load : Option (Nat × Nat)
  addr : Nat
  bytes : Nat
  data : List Byte
  /-- Enabled bits of each byte of a store (12 R266). [-; 12 R266; none] -/
  mask : List Byte
  /-- The tag of a capability store (03 R64); for a capability load, that its tag is kept (13 R277). [-; 03 R64; none] -/
  tag : Option Bool
  lbl : Label
  deriving DecidableEq, Repr

/-- The operation of an atomic request (13 R284 to R287). -/
inductive AtomOp where
  | add
  | exch
  | maxu
  | orr
  | fadd
  | fmin
  | fmax
  | ord
  | cas
  deriving DecidableEq, Repr

/-- One element of an atomic request (13 R283). -/
structure AtomElem where
  thread : Nat
  addr : Nat
  data : DWord
  cmp : DWord
  lbl : Label
  colour : Nat
  deriving DecidableEq, Repr

/-- The elements of one instruction that address one atomic engine (13 R283). -/
structure AtomReq where
  id : Nat
  team : Nat
  gid : Nat
  iseq : Nat
  op : AtomOp
  width : Nat
  cluster : Nat
  elems : List AtomElem
  deriving DecidableEq, Repr

/-- A held contribution of an ordered add (11 R246, 13 R287). -/
structure Contrib where
  grid : Nat
  team : Nat
  kid : Nat
  rank : Nat
  seq : Nat
  target : Nat
  value : Word
  lbl : Label
  cluster : Nat
  /-- The overflow entry that holds it, or none when the engine holds it (13 R288). [-; 13 R288; none] -/
  entry : Option Nat
  deriving DecidableEq, Repr

/-- A source of write packets (12 R259): a private level, or the engine of a core. -/
inductive Source where
  | cache (c : CacheId)
  | engine (core : Nat)
  deriving DecidableEq, Repr

/-- What a pending release, fence or ordered flush does when its markers are gathered (12 R255, R258; 13 R290): a release,
a fence, the gathering of an ordered flush or a scoped atomic, the release of an engine command, the completion of a grid
(12 R263, R264). -/
inductive SyncKind where
  | rel (addr : Nat) (op : Nat) (amount : DWord)
  | fence
  | gather
  | engine (cid : Nat)
  | grid (id : Nat)
  deriving DecidableEq, Repr

/-- A synchronisation operation that waits for its flush markers (12 R259). -/
structure SyncOp where
  id : Nat
  team : Nat
  gid : Nat
  kind : SyncKind
  /-- SCOPE. [3; 06 R116; none] -/
  scope : Nat
  /-- The loads issued below this number must have read before it writes back (12 R255 and R258, step 1). [32; 12 R255; none] -/
  upto : Nat
  /-- Its write-backs have left (step 2). [1; 12 R255; 0] -/
  flushed : Bool
  /-- The sources whose destination sets it empties. [-; 12 R259; none] -/
  sources : List Source
  /-- Markers not yet acknowledged, as (destination, path): die d, or 64 + m for the device of member m. [-; 12 R259; none] -/
  markers : List (Nat × Nat)
  deriving DecidableEq, Repr

/-- Where an array operation takes B or column exponents from (09 R198, R201). -/
inductive BSource where
  | tile (n off : Nat)
  | bytes (member0 member1 : List Byte)
  deriving DecidableEq, Repr

/-- The kinds of array operation (09 R193, 10 R219). -/
inductive ArrKind where
  | mma (slot : Nat) (slab : List Word) (b : BSource)
  | mzero
  | mscale (slab : List Word) (b : BSource)
  | mdrain (tcig tteam tacc : Nat)
  | mrecv (count slot : Nat)
  | vinit (w : SWord) (dropFollower : Bool)
  | vfold (w : SWord) (vbase : Word)
  | vfoldBwd (w : SWord) (slot tile : Nat) (vbase : Word)
  | vmerge (w : SWord) (image : List Byte)
  deriving DecidableEq, Repr

/-- An array operation issued and not retired by an `mwait` (09 R193, R206). -/
structure ArrOp where
  id : Nat
  team : Nat
  acc : Nat
  pair : Bool
  kind : ArrKind
  /-- Label of everything read at issue. [2; 09 R204; none] -/
  lbl : Label
  /-- The sector of an operand read at issue that holds an uncorrectable error. [-; 09 R218; none] -/
  bad : Option Nat
  /-- It has completed. [1; 09 R205; 0] -/
  done : Bool
  /-- An `mdrain` that notified, or an `mrecv` that is armed. [1; 09 R213; 0] -/
  begun : Bool
  /-- Flags collected. [7; 09 R204; 0] -/
  flags : BitVec 7
  /-- The accumulators that it wrote. [-; 09 R204; none] -/
  wrote : List Nat
  deriving DecidableEq, Repr

/-- The progress of an engine command (14 R312, R315). -/
inductive CmdState where
  | queued
  | acquiring
  | ring
  | switchWait
  | active
  | finishing (status : Nat) (code : Byte)
  /-- It is at its release, which waits for the flush markers, or has performed (12 R259, R263). -/
  | releasing (performed : Bool)
  | done (status : Nat) (code : Byte)
  deriving DecidableEq, Repr

/-- An engine command (14 R312). -/
structure Cmd where
  id : Nat
  team : Nat
  gid : Nat
  fn : Nat
  colour : Nat
  core : Nat
  gather : Bool
  handle : Word
  step : Word
  rcd : Shape
  shapeSlot : Nat
  ctx : Nat
  /-- The guard slot and GNEG of a guarded command. [5; 14 R309; none] -/
  guard : Option (Nat × Bool)
  /-- The team, and which of its cores, whose window SRC and DST name at issue. [-; 14 R321; none] -/
  srcTeam : Option (Nat × Nat)
  dstTeam : Option (Nat × Nat)
  /-- The decision: none, run, or DISCARDED. [-; 14 R309; undecided when guarded on an unresolved slot] -/
  decided : Option Bool
  state : CmdState
  /-- Chunks moved at this rank. [32; 14 R315; 0] -/
  chunks : Nat
  /-- Elements (bytes of a shard) moved so far. [-; 14 R307; 0] -/
  pos : Nat
  flags : BitVec 7
  /-- Maximum label of the data read. [2; 14 R315; 0] -/
  lbl : Label
  /-- The shards of the other ring positions. [-; 14 R304; none] -/
  peers : List PeerPart
  ringSize : Nat
  ringPos : Nat
  switched : Bool
  /-- The address that an `ewait` reports for its fault (19 R419). [56; 19 R419; 0] -/
  faddr : Nat
  /-- The page that its next chunk waits for: PASID, page, and the address to report. [-; 18 R409; none] -/
  page : Option (Nat × Nat × Nat)
  /-- The request for that page failed. [1; 18 R409; 0] -/
  lost : Bool
  /-- Index words of a gather read so far, as (row, offset) (14 R302). [-; 14 R314; empty] -/
  rows : List (Nat × Int)
  /-- An `ewait` has reported its fault. [1; 14 R316; 0] -/
  reported : Bool
  /-- An `ewait` has covered it, or its group is gone (14 R316). [1; 14 R316; 0] -/
  waited : Bool
  /-- Its request for a switch slot is outstanding, whatever has become of it since (14 R308, R319). [1; 14 R319; 0] -/
  asked : Bool
  deriving DecidableEq, Repr

/-- A server of functions besides the dispatcher (16 R349, 14 R320): the TXE or GXE of a core, the ring sequencer of a port, the atomic
engine of a cluster. -/
inductive Server where
  | txe (core : Nat)
  | gxe (core : Nat)
  | ring (port : Nat)
  | atomic (cluster : Nat)
  deriving DecidableEq, Repr

/-- The round of a server (16 R349). -/
structure Turn where
  /-- Deficits per function. [-; 16 R349; 0] -/
  deficit : List (Nat × Nat)
  /-- The function visited last. [6; 16 R349; DESIGN CHOICE 63, so that it visits the PF first] -/
  last : Nat
  deriving DecidableEq, Repr

/-- A translation cache entry (18 R408). -/
structure Tlb where
  fn : Nat
  pasid : Nat
  iova : Nat
  size : Nat
  read : Bool
  write : Bool
  frame : Nat
  deriving DecidableEq, Repr

/-- An ATS translation request in flight (18 R408). -/
structure AtsReq where
  fn : Nat
  pasid : Nat
  page : Nat
  write : Bool
  /-- Ranges invalidated since it was sent, as (IOVA, length): a completion that covers one is discarded. [-; 18 R410; none] -/
  inval : List (Nat × Nat)
  /-- A prefetch asked: it never becomes a page request (13 R297). [1; 13 R297; 0] -/
  quiet : Bool
  deriving DecidableEq, Repr

/-- An entry of the key table (18 R405). -/
inductive KeyEntry where
  | context (key : List Byte)
  | weight (key : List Byte) (sess : Nat)
  deriving DecidableEq, Repr

/-- The states of a CO map entry (18 R401). -/
inductive CoState where
  | busy
  | live
  | failed
  | dead
  deriving DecidableEq, Repr

/-- An entry of the CO map (18 R401). -/
structure CoEntry where
  base : Nat
  len : Nat
  keycol : Nat
  state : CoState
  /-- The function whose seal block imports it. [6; 18 R400; none] -/
  fn : Nat
  /-- The tag of the blob that was decrypted verifies. [1; 18 R400; none] -/
  good : Bool
  deriving DecidableEq, Repr

/-- The states of a session (18 R416). -/
inductive SessState where
  | handshake
  | active
  | frozen
  | lost
  deriving DecidableEq, Repr

/-- An SPDM session (18 R414, R416). -/
structure Session where
  id : Nat
  /-- The function whose TDI it is bound to, or none for an owner session. [6; 18 R414; no object at reset] -/
  fn : Option Nat
  state : SessState
  /-- Grace period in milliseconds. [-; 18 R414; 2,000] -/
  grace : Nat
  /-- HeartbeatPeriod. [-; 18 R416; as negotiated] -/
  heartbeat : Nat
  deriving DecidableEq, Repr

/-- The device group (18 R415). -/
structure DevGroup where
  id : Nat
  own : Nat
  hashes : List (List Byte)
  key : List Byte
  /-- The function whose SET_GROUP joined it. [6; 18 R414; none] -/
  fn : Nat
  /-- Send counters by member. [64 each; 18 R415; 1] -/
  sendCtr : List (Nat × Nat)
  /-- Last counters accepted by member. [64 each; 18 R415; 0] -/
  recvCtr : List (Nat × Nat)
  /-- Members that are unreachable. [-; 14 R313; none] -/
  lost : List Nat
  deriving DecidableEq, Repr

/-- A scrub receipt (20 R443). -/
structure Receipt where
  kind : Nat
  colour : Nat
  seq : Nat
  clk : Nat
  retired : List Nat
  uncorr : List Nat
  sigs : List (List Byte)
  deriving DecidableEq, Repr

/-- A receipt that Wellhead still has to issue (20 R443): its kind and colour, and whether the key destroyed was a weight key. -/
structure ReceiptDue where
  kind : Nat
  colour : Nat
  weight : Bool
  deriving DecidableEq, Repr

/-- What the device answers to its host, to a debugger or to an SPDM requester: an output of the machine. -/
inductive Reply where
  /-- An SPDM response: session, number of its body (18 R413). -/
  | spdm (sess body : Nat)
  /-- An SPDM error: session (18 R414, R416). -/
  | error (sess : Nat)
  /-- A message to a session that is LOST (18 R416). -/
  | invalidSession (sess : Nat)
  /-- The measurements by index: the registers 1 to 8 and the configuration block (18 R413, 20 R445). -/
  | measurements (sess : Nat) (blocks : List (Nat × List Byte))
  /-- The bytes of a scrub receipt, when it is kept (20 R443). -/
  | receipt (seq : Nat) (bytes : Option (List Byte))
  /-- A trigger message to a member of the device group, with the nonce under which it is sealed and its tag (20 R441, 18 R415). -/
  | trigger (member : Nat) (nonce tag : List Byte)
  /-- Completion of a host request to a BAR: its data, or Unsupported Request (18 R412). -/
  | bar (fn : Nat) (data : Option DWord)
  /-- A debugger's read: code 0 with its bytes, or a fault code without (18 R402). -/
  | debug (code : Byte) (bytes : List Byte)
  /-- An ATS Invalidate Completion: function, PASID, IOVA, length (18 R410). -/
  | invalidated (fn pasid iova len : Nat)
  deriving DecidableEq, Repr

/-- The states of a Dredge pass (17 R391). -/
inductive DredgeState where
  | idle
  | snap
  | sweep
  | clear
  deriving DecidableEq, Repr

/-- The Dredge (17 R391). -/
structure Dredge where
  /-- Pass state. [2; 17 R391; IDLE] -/
  state : DredgeState
  /-- COMPLETED. [-; 17 R391; 0] -/
  completed : Nat
  /-- REQUESTED. [-; 17 R391; 0] -/
  requested : Nat
  /-- S(N): the granules recorded on entering SNAP. [-; 17 R391; empty] -/
  snap : List Nat
  /-- Accesses that SNAP still waits for: atomic requests and window accesses by identity (17 R391). [-; 17 R391; empty] -/
  waits : List Nat
  /-- Loads that SNAP still waits for, as (team, gid, issue number) (17 R391). [-; 17 R391; empty] -/
  waitLoads : List (Nat × Nat × Nat)
  deriving DecidableEq, Repr

/-- The snapshot block and its trigger (20 R440, R441). -/
structure Snapshot where
  /-- SBUF. [64; 20 R440; 0, DESIGN CHOICE] -/
  sbuf : DWord
  /-- SARM. [8; 20 R440; 0, DESIGN CHOICE] -/
  sarm : Byte
  /-- SCODE. [8; 20 R440; 0, DESIGN CHOICE] -/
  scode : Byte
  /-- SSTAT. [8; 20 R440; 0 disarmed] -/
  sstat : Byte
  /-- SMISS. [32; 20 R440; 0, DESIGN CHOICE] -/
  smiss : Word
  /-- TCLK of a trigger that fired. [64; 20 R441; 0] -/
  tclk : Nat
  /-- SRCMASK. [8; 20 R441; 0] -/
  srcmask : Byte
  /-- CODE, FN and TAG of the header. [8, 8, 32; 20 R442; 0] -/
  code : Byte
  fn : Nat
  tag : Word
  deriving DecidableEq, Repr

/-- An error instance's record (20 R438). -/
structure ErrRec where
  site : ErrSite
  /-- CLK of its last correctable events, newest first, at most four. [4 x 64; 20 R438; none] -/
  events : List Nat
  /-- Classified as lasting. [1; 20 R438; 0] -/
  lasting : Bool
  deriving DecidableEq, Repr

/-- The grant block of the PF (17 R374). -/
structure GrantBlock where
  /-- GBASE, GLEN, GCOL, GOP. [64, 64, 16, 8; 17 R374; 0, DESIGN CHOICE] -/
  gbase : DWord
  glen : DWord
  gcol : BitVec 16
  gop : Byte
  /-- GSTAT. [8; 17 R374; 0 idle] -/
  gstat : Byte
  /-- The pass a withdraw waits for, 0 for none. [-; 17 R374; 0] -/
  pass : Nat
  deriving DecidableEq, Repr

/-- A range of device memory granted to a colour (17 R374). -/
structure GrantRange where
  base : Nat
  len : Nat
  colour : Nat
  /-- A withdraw of the range is in progress: further mints are refused. [1; 17 R374; 0] -/
  withdrawing : Bool
  deriving DecidableEq, Repr

/-- A range that became ungranted, with the key under which its sectors are encrypted (18 R404); none when that key was destroyed. -/
structure OldRange where
  base : Nat
  len : Nat
  key : Option KeyEntry
  deriving DecidableEq, Repr

/-- What the part, Wellhead and a cold reset fix (01 R13, R23, R25; 17 R374; 20 R444). -/
structure Part where
  /-- Grade BZ-576. [1; 01 R25; per part: DESIGN CHOICE BZ-672] -/
  grade576 : Bool
  /-- NUMA home mapping. [1; 01 R23; interleave, the spec's default] -/
  numa : Bool
  /-- Bytes that Wellhead reserves at the top of device memory. [-; 17 R374; DESIGN CHOICE 1 GiB] -/
  reserved : Nat
  /-- Paths between two dies. [-; 12 R259; PRESUMED 4, as in the spec's timeline] -/
  paths : Nat
  /-- Boot stage reached: 9 when every stage was accepted. [-; 20 R445; 9, DESIGN CHOICE] -/
  boot : Nat
  /-- The module has power. [1; 20 R446; on] -/
  powered : Bool
  deriving DecidableEq, Repr

/-- What arrives from outside the machine, and what settles the orders that the spec leaves open: events, cycles that
pass, the choice of the group that issues next, host memory written by the host, the number of page requests that the host
allocates a function (18 R409), the certificate hash that the peer at a port has proved (18 R415). No input reaches device memory (01 R26). The model's own, log entry 2. -/
inductive Input where
  | event (i : Instr)
  | elapse (cycles : Nat)
  | select (team gid : Nat)
  | hostWrite (frameAddr : Nat) (b : Byte)
  | priAlloc (fn n : Nat)
  | peerCert (member : Nat) (hash : List Byte)
  | linkPause (port : Nat) (lanes : BitVec 8)
  deriving DecidableEq, Repr

/-- An Axdal port's link (01 R23, 20 R442). -/
structure PortState where
  /-- Link-level retries. [-; 20 R442; DESIGN CHOICE 0] -/
  retries : Nat
  /-- The virtual lanes that the other end has paused; their number is not stated. [8; 20 R442; DESIGN CHOICE 0] -/
  paused : BitVec 8
  deriving DecidableEq, Repr

/-- A port without a retry or a pause. -/
def PortState.reset : PortState := ⟨0, 0⟩

/-- The machine. -/
structure State where
  /-- What the part and the boot fix; `sr.topo` reads it. [64; 01 R25; as Part] -/
  part : Part
  /-- CLK. [64; 16 R362; 0, 20 R447] -/
  clk : Nat
  /-- The instant, one per step, that fill and acquire stamps are compared by; at least 1. The model's own. [-; 12 R249; DESIGN CHOICE 1] -/
  now : Nat
  /-- Inputs still to come. The model's own. [-; log entry 2; empty] -/
  inputs : List Input
  /-- Counter of free values drawn. The model's own. [-; log entry 3; DESIGN CHOICE 0] -/
  free : Nat
  /-- Next identity given to an object. The model's own. [-; log entry 2; DESIGN CHOICE 1] -/
  nextId : Nat
  /-- The group whose instruction is executed next, as (team, gid). The model's own. [-; log entry 2; none] -/
  cur : Option (Nat × Nat)
  /-- Device memory at the point of coherence; unlisted reads 0. [512 GiB; 01 R20; DESIGN CHOICE 0, log entry 5] -/
  mem : List Host.Cell
  /-- Side-band bytes by sector; unlisted reads 0. [8 each; 01 R18; 0] -/
  side : List (Nat × Byte)
  /-- Sectors marked uncorrectable. [1 each; 13 R278; none] -/
  unc : List (Nat × Bool)
  /-- Host memory by translated address; unlisted reads 0. [-; 18 R406; DESIGN CHOICE 0, log entry 5] -/
  hostMem : List Host.Cell
  /-- Copies in the private levels. [-; 12 R249; none] -/
  copies : List Copy
  /-- Bytes of host memory, by translated address, whose last write was lost with an uncorrectable line. [1 each; 20 R437; none] -/
  hostBad : List Nat
  /-- The destination sets: the other dies (as d), and the peer devices (as 64 + member), to which each source has sent
  write packets since its last event that gathers markers from it. [-; 12 R259; empty] -/
  sent : List (Source × Nat)
  /-- Revocation bitmap: the marked 64-byte granules. [1 each; 17 R388; clear] -/
  revoked : List (Nat × Bool)
  /-- Pinned ranges of L2, as (base, top, colour). [-; 13 R296; none] -/
  pins : List (Nat × Nat × Nat)
  /-- Granted ranges. [-; 17 R374; none] -/
  granted : List GrantRange
  /-- Ranges that became ungranted, newest first, with the keys of their contents. [-; 18 R404; none] -/
  ungranted : List OldRange
  /-- The grant block. [-; 17 R374; as GrantBlock] -/
  gblock : GrantBlock
  /-- The snapshot block. [-; 20 R440; as Snapshot] -/
  snapb : Snapshot
  /-- Functions by number; unlisted is as after reset. [64; 18 R411; as Fn] -/
  fns : List (Nat × Fn)
  /-- Contexts by colour. [-; 16 R348; none] -/
  ctxs : List (Nat × Ctx)
  /-- Grids by identity. [-; 16 R343; none] -/
  grids : List (Nat × Grid)
  /-- Teams by identity. [-; 02 R47; none] -/
  teams : List (Nat × Team)
  /-- Groups, under key 32 team + gid. [-; 02 R43; none] -/
  groups : List (Nat × Group)
  /-- Last-granted slot per quadrant and level, under key (4 core + quad) 16 + level. [4 each; 16 R353; DESIGN CHOICE 0] -/
  rrobin : List (Nat × Nat)
  /-- Deficits of the dispatcher per function. [-; 16 R349; 0] -/
  deficit : List (Nat × Nat)
  /-- Placements that units wait for. [-; 16 R352; none] -/
  claims : List Claim
  /-- The rounds of the engines and ring sequencers; unlisted is no deficit, function 63 visited last. [-; 16 R349; empty] -/
  turns : List (Server × Turn)
  /-- The function the dispatcher visited last. [6; 16 R349; DESIGN CHOICE 63, so that it visits the PF first] -/
  lastFn : Nat
  /-- Window accesses accepted and not performed. [-; 03 R64; empty] -/
  wins : List (Nat × WinAcc)
  /-- Atomic requests on their way. [-; 13 R283; empty] -/
  atoms : List (Nat × AtomReq)
  /-- Held ordered contributions. [-; 13 R287; empty] -/
  contribs : List Contrib
  /-- Releases and fences that wait for markers. [-; 12 R259; empty] -/
  syncs : List (Nat × SyncOp)
  /-- Array operations issued and not retired. [-; 09 R193; empty] -/
  arrops : List (Nat × ArrOp)
  /-- Engine commands, issued and not forgotten, in issue order. [-; 14 R312; empty] -/
  cmds : List (Nat × Cmd)
  /-- Device translation cache. [4,096 entries; 18 R408; empty] -/
  tlb : List Tlb
  /-- ATS requests in flight. [-; 18 R408; empty] -/
  ats : List AtsReq
  /-- The Dredge. [-; 17 R391; IDLE, 0, 0] -/
  dredge : Dredge
  /-- Key table by colour; unlisted is EMPTY. [4,096; 18 R405; EMPTY] -/
  keys : List (Nat × KeyEntry)
  /-- CO map. [256 entries; 18 R401; empty] -/
  comap : List CoEntry
  /-- Sessions by identity. [64; 18 R414; none] -/
  sessions : List (Nat × Session)
  /-- The device group. [-; 18 R415; none] -/
  devgroup : Option DevGroup
  /-- SHA-384 hashes of the certificates that Axdal peers have proved, by the member that each claims to be. [384 each; 18 R415;
  none] -/
  certs : List (Nat × List Byte)
  /-- Debug reads of windows that wait for the end of the target group's run, as (team, capability, address, size). [-; 17 R373;
  none] -/
  dbgReads : List (Nat × DbgCap × Nat × Nat)
  /-- Measurement registers 1 to 8; unlisted is 48 zero bytes. [384 each; 20 R444; as the boot extended them] -/
  measure : List (Nat × List Byte)
  /-- Firmware staged by the PF for the next cold reset. [-; 20 R445; none] -/
  staged : List (List Byte)
  /-- Answers sent, oldest first. [-; 18 R413; empty] -/
  replies : List Reply
  /-- Receipts issued, the last 64. [-; 20 R443; empty] -/
  receipts : List Receipt
  /-- Receipts due. [-; 20 R443; empty] -/
  receiptsDue : List ReceiptDue
  /-- Next receipt number. [64; 20 R443; 1] -/
  nextReceipt : Nat
  /-- Error instances that have recorded an event. [-; 20 R438; none] -/
  errs : List ErrRec
  /-- W of 20 R438. [6; 20 R438; 32] -/
  errW : Nat
  /-- Retired pairs by pair index. [-; 20 R437; none] -/
  retiredPairs : List Nat
  /-- Quadrants, as (core, quadrant), whose spare lane is in use. [1 each; 01 R15; none, DESIGN CHOICE] -/
  spares : List (Nat × Nat)
  /-- Retired 4 KiB pages. [-; 20 R439; none] -/
  retiredPages : List Nat
  /-- Disabled cache lines and removed Axdal lanes. [-; 20 R437; none] -/
  disabled : List ErrSite
  /-- Correctable and uncorrectable errors that each die's memory controller counted. [-; 20 R442; DESIGN CHOICE 0] -/
  eccCounts : List (Nat × (Nat × Nat))
  /-- The links of the Axdal ports. [-; 20 R442; DESIGN CHOICE none listed] -/
  ports : List (Nat × PortState)
  /-- Sector that each die's patrol scrub visited last. [-; 20 R442; DESIGN CHOICE 0] -/
  patrol : List (Nat × Nat)
  /-- Power limit in watts. [13; 20 R446; DESIGN CHOICE 5,200, the module's limit] -/
  powerLimit : Nat
  deriving DecidableEq, Repr

/-- The machine right after a cold reset (20 R447): every context, key and session has ended, CLK is 0, the side band
is zero, and boot has run (log entry 1 names the values the spec does not give). -/
def State.reset : State where
  part := ⟨false, false, 0x40000000, 4, 9, true⟩
  clk := 0
  now := 1
  inputs := []
  free := 0
  nextId := 1
  cur := none
  mem := []
  side := []
  unc := []
  hostMem := []
  copies := []
  hostBad := []
  sent := []
  revoked := []
  pins := []
  granted := []
  ungranted := []
  gblock := ⟨0, 0, 0, 0, 0, 0⟩
  snapb := ⟨0, 0, 0, 0, 0, 0, 0, 0, 0, 0⟩
  fns := []
  ctxs := []
  grids := []
  teams := []
  groups := []
  rrobin := []
  deficit := []
  claims := []
  turns := []
  lastFn := 63
  wins := []
  atoms := []
  contribs := []
  syncs := []
  arrops := []
  cmds := []
  tlb := []
  ats := []
  dredge := ⟨.idle, 0, 0, [], [], []⟩
  keys := []
  comap := []
  sessions := []
  devgroup := none
  certs := []
  dbgReads := []
  measure := (List.range 6).map (fun i => (i + 1, Config.bootMeasure (i + 1))) ++ [(8, Config.bootMeasure 8)]
  staged := []
  replies := []
  receipts := []
  receiptsDue := []
  nextReceipt := 1
  errs := []
  errW := 32
  retiredPairs := []
  spares := []
  retiredPages := []
  disabled := []
  eccCounts := []
  ports := []
  patrol := []
  powerLimit := 5200

end Sys2Proof.Machine
end

