-- ==== Sys2Proof/Machine/Maps.lean ====
section
/-! DEFINITION. Machine/Maps.lean: the finite maps of the state. A map is a list of (key, value) pairs with strictly
rising keys; the maps with a default hold no pair whose value is the default. -/

namespace Sys2Proof.Machine

open Sys2Proof

/-- The value under a key. -/
def mfind {α : Type} : List (Nat × α) → Nat → Option α
  | [], _ => none
  | (k', a) :: m, k => if k' = k then some a else mfind m k

/-- The value under a key, or the default. -/
def mget {α : Type} (d : α) (m : List (Nat × α)) (k : Nat) : α := (mfind m k).getD d

/-- Put a value under a key, keeping the keys rising. -/
def mput {α : Type} : List (Nat × α) → Nat → α → List (Nat × α)
  | [], k, a => [(k, a)]
  | (k', a') :: m, k, a =>
    if k < k' then (k, a) :: (k', a') :: m
    else if k = k' then (k, a) :: m
    else (k', a') :: mput m k a

/-- Remove a key. -/
def mdel {α : Type} : List (Nat × α) → Nat → List (Nat × α)
  | [], _ => []
  | (k', a') :: m, k => if k' = k then mdel m k else (k', a') :: mdel m k

/-- Put a value under a key of a map with a default: the default is not listed. -/
def mset {α : Type} [DecidableEq α] (d : α) (m : List (Nat × α)) (k : Nat) (a : α) : List (Nat × α) :=
  if a = d then mdel m k else mput m k a

/-- Change the value under a key of a map with a default. -/
def mmod {α : Type} [DecidableEq α] (d : α) (m : List (Nat × α)) (k : Nat) (f : α → α) : List (Nat × α) :=
  mset d m k (f (mget d m k))

/-- Change every value, keeping the keys. -/
def mmap {α : Type} (f : α → α) : List (Nat × α) → List (Nat × α)
  | [] => []
  | (k, a) :: m => (k, f a) :: mmap f m

/-- Keys strictly rise, from above `lo`. -/
def risingFrom {α : Type} (lo : Nat) : List (Nat × α) → Bool
  | [] => true
  | (k, _) :: m => decide (lo ≤ k) && risingFrom (k + 1) m

/-- Keys strictly rise. -/
def rising {α : Type} (m : List (Nat × α)) : Bool := risingFrom 0 m

/-- No entry holds the default. -/
def lean0 {α : Type} [DecidableEq α] (d : α) : List (Nat × α) → Bool
  | [] => true
  | (_, a) :: m => decide (a ≠ d) && lean0 d m

/-- The canonical form of a memory whose unlisted bytes read as 0. -/
def Memory.wf (m : List Host.Cell) : Bool := rising m && lean0 (0 : Byte) m

/-- One byte of a memory. -/
def byteAt (m : List Host.Cell) (a : Nat) : Byte := mget 0 m a

/-- Write one byte. -/
def setByte (m : List Host.Cell) (a : Nat) (b : Byte) : List Host.Cell := mset 0 m a b

/-- `n` bytes from an address, in address order. -/
def bytesAt (m : List Host.Cell) (a : Nat) : Nat → List Byte
  | 0 => []
  | n + 1 => byteAt m a :: bytesAt m (a + 1) n

/-- Write bytes in address order. -/
def setBytes (m : List Host.Cell) (a : Nat) : List Byte → List Host.Cell
  | [] => m
  | b :: bs => setBytes (setByte m a b) (a + 1) bs

/-- Little-endian number of bytes (00 R9). -/
def natOfBytes : List Byte → Nat
  | [] => 0
  | b :: bs => b.toNat + 256 * natOfBytes bs

/-- The `n` little-endian bytes of a number (00 R9). -/
def bytesOfNat : Nat → Nat → List Byte
  | 0, _ => []
  | n + 1, x => BitVec.ofNat 8 x :: bytesOfNat n (x / 256)

/-- Replace the element at an index of a list. -/
def lset {α : Type} : List α → Nat → α → List α
  | [], _, _ => []
  | _ :: xs, 0, a => a :: xs
  | x :: xs, n + 1, a => x :: lset xs n a

/-- The bits of a list as a mask, the first element in bit 0. -/
def maskOf : List Bool → Mask
  | [] => 0
  | b :: bs => (maskOf bs <<< 1) ||| (if b then 1 else 0)

/-- The indices of a mask below `n`, in rising order. -/
def maskList (m : Mask) (n : Nat) : List Nat := (List.range n).filter (fun i => m.getLsbD i)

/-- The mask of the first `n` indices. -/
def firstMask (n : Nat) : Mask := if n ≥ 64 then BitVec.allOnes 64 else (1#64 <<< n) - 1

end Sys2Proof.Machine
end

