-- ==== Sys2Proof/Machine/Caps.lean ====
section
/-! DEFINITION. Machine/Caps.lean: the fields of a capability (17 R365), its bounds (R366, R367), the checks of 13
R271 steps 3 to 8 that read only the capability, and the fault codes of 19 R419. -/

namespace Sys2Proof.Machine

open Sys2Proof

/-! ### Fault codes (19 R419) -/

/-- ILLEGAL_LEN. -/
def cILLEN : Byte := 0x01
/-- ILLEGAL_FORM. -/
def cILFORM : Byte := 0x02
/-- ILLEGAL_RUN. -/
def cILRUN : Byte := 0x03
/-- ILLEGAL_LATCH. -/
def cILLATCH : Byte := 0x04
/-- ILLEGAL_OPERAND. -/
def cILOPER : Byte := 0x05
/-- FETCH_BOUND. -/
def cFETCH : Byte := 0x06
/-- UNIMPL. -/
def cUNIMPL : Byte := 0x07
/-- PRIV. -/
def cPRIV : Byte := 0x08
/-- CAP_TAG. -/
def cTAG : Byte := 0x10
/-- CAP_BOUND. -/
def cBOUND : Byte := 0x11
/-- CAP_PERM. -/
def cPERM : Byte := 0x12
/-- CAP_SEAL. -/
def cSEAL : Byte := 0x13
/-- CAP_COLOUR. -/
def cCOLOUR : Byte := 0x14
/-- CAP_KIND. -/
def cKIND : Byte := 0x15
/-- LABEL_STORE. -/
def cLABEL : Byte := 0x18
/-- CO_READ. -/
def cCOREAD : Byte := 0x1C
/-- CO_COPY. -/
def cCOCOPY : Byte := 0x1D
/-- CO_STORE. -/
def cCOSTORE : Byte := 0x1F
/-- EARLY_READ. -/
def cEARLY : Byte := 0x20
/-- EARLY_ACC. -/
def cEARLYACC : Byte := 0x21
/-- HANDLE_STALE. -/
def cSTALE : Byte := 0x22
/-- ORDER_OVERFLOW. -/
def cORDOVF : Byte := 0x23
/-- HOST_PAGE. -/
def cHPAGE : Byte := 0x28
/-- HOST_DENIED. -/
def cHDENIED : Byte := 0x29
/-- ALIGN. -/
def cALIGN : Byte := 0x30
/-- HEAP_SPILL. -/
def cHEAP : Byte := 0x38
/-- SAT_TRAP. -/
def cSATTRAP : Byte := 0x39
/-- FP_TRAP. -/
def cFPTRAP : Byte := 0x3A
/-- UNCORRECTABLE. -/
def cUNCORR : Byte := 0x40
/-- LINK_LOST. -/
def cLINK : Byte := 0x41
/-- SESSION_LOST. -/
def cSESSION : Byte := 0x48
/-- SOFTWARE. -/
def cSOFTWARE : Byte := 0x50
/-- BREAKPOINT. -/
def cBREAK : Byte := 0x51
/-- ENGINE_REVISION. -/
def cENGREV : Byte := 0x58

/-- The codes that may be delivered to an in-group handler (19 R419, column Handler). -/
def handlerCode (c : Byte) : Bool :=
  !(c == cHPAGE) && !(c == cUNCORR) && !(c == cSESSION) && !(c == cBREAK)

/-! ### Fields (17 R365) -/

/-- KIND. -/
def TCap.kind (k : TCap) : Nat := (k.bits.extractLsb' 124 4).toNat
/-- OTYPE. -/
def TCap.otype (k : TCap) : Nat := (k.bits.extractLsb' 118 6).toNat
/-- LBL. -/
def TCap.lbl (k : TCap) : Label := k.bits.extractLsb' 116 2
/-- COL. -/
def TCap.col (k : TCap) : Nat := (k.bits.extractLsb' 104 12).toNat
/-- PERM. -/
def TCap.perm (k : TCap) : BitVec 12 := k.bits.extractLsb' 92 12
/-- BTOP. -/
def TCap.btop (k : TCap) : Nat := (k.bits.extractLsb' 78 14).toNat
/-- BBASE. -/
def TCap.bbase (k : TCap) : Nat := (k.bits.extractLsb' 64 14).toNat
/-- EXP. -/
def TCap.exp (k : TCap) : Nat := (k.bits.extractLsb' 56 6).toNat
/-- ADDR. -/
def TCap.addr (k : TCap) : Nat := (k.bits.extractLsb' 0 56).toNat

/-- The 128 bits of a capability from its fields (17 R365). -/
def capBits (kind otype : Nat) (lbl : Label) (col : Nat) (perm : BitVec 12) (btop bbase exp addr : Nat) : BitVec 128 :=
  (BitVec.ofNat 4 kind ++ BitVec.ofNat 6 otype ++ lbl ++ BitVec.ofNat 12 col ++ perm ++ BitVec.ofNat 14 btop ++
    BitVec.ofNat 14 bbase ++ 0#2 ++ BitVec.ofNat 6 exp ++ BitVec.ofNat 56 addr : BitVec 128)

/-- Replace OTYPE. -/
def TCap.withOtype (k : TCap) (t : Nat) : TCap :=
  ⟨(k.bits.extractLsb' 124 4 ++ BitVec.ofNat 6 t ++ k.bits.extractLsb' 0 118 : BitVec 128), k.tag⟩

/-- Replace ADDR. -/
def TCap.withAddr (k : TCap) (a : Nat) : TCap :=
  ⟨(k.bits.extractLsb' 56 72 ++ BitVec.ofNat 56 a : BitVec 128), k.tag⟩

/-- Replace PERM. -/
def TCap.withPerm (k : TCap) (p : BitVec 12) : TCap :=
  ⟨(k.bits.extractLsb' 104 24 ++ p ++ k.bits.extractLsb' 0 92 : BitVec 128), k.tag⟩

/-- Replace LBL. -/
def TCap.withLbl (k : TCap) (l : Label) : TCap :=
  ⟨(k.bits.extractLsb' 118 10 ++ l ++ k.bits.extractLsb' 0 116 : BitVec 128), k.tag⟩

/-- Replace EXP, BTOP and BBASE. -/
def TCap.withBounds (k : TCap) (ex bb bt : Nat) : TCap :=
  ⟨(k.bits.extractLsb' 92 36 ++ BitVec.ofNat 14 bt ++ BitVec.ofNat 14 bb ++ k.bits.extractLsb' 62 2 ++
    BitVec.ofNat 6 ex ++ k.bits.extractLsb' 0 56 : BitVec 128), k.tag⟩

/-- Replace the tag. -/
def TCap.withTag (k : TCap) (t : Bool) : TCap := ⟨k.bits, t⟩

/-- LD. -/
def pLD : Nat := 0
/-- ST. -/
def pST : Nat := 1
/-- LDCAP. -/
def pLDCAP : Nat := 2
/-- STCAP. -/
def pSTCAP : Nat := 3
/-- EXEC. -/
def pEXEC : Nat := 4
/-- SEAL. -/
def pSEAL : Nat := 5
/-- UNSEAL. -/
def pUNSEAL : Nat := 6
/-- TILE. -/
def pTILE : Nat := 7
/-- DELEG. -/
def pDELEG : Nat := 8
/-- ENG. -/
def pENG : Nat := 9
/-- DECLASS. -/
def pDECLASS : Nat := 10
/-- GLOBAL. -/
def pGLOBAL : Nat := 11

/-- Whether a permission is held (17 R368). -/
def TCap.has (k : TCap) (p : Nat) : Bool := k.perm.getLsbD p

/-! ### Bounds -/

/-- Base and top (17 R366). -/
def TCap.bounds (k : TCap) : Int × Int :=
  if k.exp > 42 then (0, 0)
  else
    let hi : Int := (k.addr + 2 ^ (k.exp + 13) : Nat)
    let base : Int := hi - ((hi - ((k.bbase * 2 ^ k.exp : Nat) : Int)) % ((2 ^ (k.exp + 14) : Nat) : Int))
    let len : Nat := ((k.btop + 16384 - k.bbase) % 16384) * 2 ^ k.exp
    (base, base + len)

/-- The bytes [ea, ea + n) lie within the bounds (17 R366). -/
def TCap.inBounds (k : TCap) (ea n : Nat) : Bool :=
  let (b, t) := k.bounds
  decide (0 ≤ b) && decide (b ≤ ea) && decide (((ea + n : Nat) : Int) ≤ t) && decide (t ≤ ((2 ^ 56 : Nat) : Int))

/-- n lies in the representable region (17 R366). -/
def TCap.representable (k : TCap) (n : Int) : Bool :=
  let (b, _) := k.bounds
  let h : Int := ((2 ^ (k.exp + 13) : Nat) : Int)
  decide (b - h ≤ n) && decide (n < b + h)

/-- The smallest exponent from e on, within fuel, at which [b, t) spans at most 8,192 steps (17 R367). -/
def roundExp (b t : Nat) : Nat → Nat → Option Nat
  | 0, _ => none
  | fuel + 1, e => if (t + 2 ^ e - 1) / 2 ^ e - b / 2 ^ e ≤ 8192 then some e else roundExp b t fuel (e + 1)

/-- Round (17 R367): E, BBASE, BTOP, nb, nt. -/
def roundBounds (b t : Nat) : Option (Nat × Nat × Nat × Nat × Nat) :=
  if t > 2 ^ 56 then none
  else
    match roundExp b t 43 0 with
    | none => none
    | some e =>
      some (e, b / 2 ^ e % 16384, (t + 2 ^ e - 1) / 2 ^ e % 16384, b / 2 ^ e * 2 ^ e,
        (t + 2 ^ e - 1) / 2 ^ e * 2 ^ e)

/-! ### Regions of the address space (01 R20) -/

/-- Device memory: 512 GiB from 0. -/
def isDev (a : Nat) : Bool := decide (a < 0x8000000000)

/-- The register and tarn windows. -/
def isWin (a : Nat) : Bool := decide (0x10000000000000 ≤ a) && decide (a < 0x20000000000000)

/-- The host window. -/
def isHost (a : Nat) : Bool := decide (0x80000000000000 ≤ a) && decide (a < 0x100000000000000)

/-- The tarn window among the windows (03 R61, WIN). -/
def isTarnWin (a : Nat) : Bool := isWin a && a / 2 ^ 51 % 2 == 1

/-! ### Colours -/

/-- A permitted colour of a context (17 R372). -/
def Ctx.permits (c : Ctx) (col : Nat) : Bool := c.colour == col || c.shared.contains col

/-- Steps 3 to 7 of 13 R271 on one capability: allowed kinds, required permissions. -/
def capCheck (c : Ctx) (kinds : List Nat) (perms : List Nat) (k : TCap) : Option Byte :=
  if !k.tag then some cTAG
  else if k.otype ≠ 0 then some cSEAL
  else if !kinds.contains k.kind then some cKIND
  else if !c.permits k.col then some cCOLOUR
  else if perms.any (fun p => !k.has p) then some cPERM
  else none

end Sys2Proof.Machine
end

