-- ==== Sys2Proof/Machine/Opcodes.lean ====
section
/-! DEFINITION. Machine/Opcodes.lean: the opcode map (06 R112 to R127) as rows: the value, the forms, the fields an
opcode reads, whether it must end its run, and the instruction that a word with that value stands for. -/

namespace Sys2Proof

/-- The form codes of 06 R113. -/
inductive FormCode where
  | s
  | g
  | w
  | l
  | q
  deriving DecidableEq, Repr

/-- The immediate codes of 06 R114; `none` for an opcode that reads no immediate. -/
inductive ImmCode where
  | none
  | i17
  | i32
  | i32h
  deriving DecidableEq, Repr

/-- A row of the opcode map: the Fields column as one Bool for each of DST, A, B, C and SD. -/
structure OpRow where
  opc : Nat
  forms : FormCode
  dst : Bool
  a : Bool
  b : Bool
  c : Bool
  d : Bool
  imm : ImmCode
  /-- The RE column of 06 R117. -/
  re : Bool
  /-- The instruction that the fields stand for. A mnemonic with a modifier that the table of operations lists as a
  row of its own is chosen here, by the bits of MOD that its chapter gives. -/
  instr : Fields → Instr

namespace Row

/-- `nop` (06). -/
def nop : OpRow := ⟨0x000, .s, false, false, false, false, false, .none, false, .nop⟩
/-- `br` (06). -/
def br : OpRow := ⟨0x001, .w, false, false, false, false, false, .i32, true, .br⟩
/-- `bra` (06). -/
def bra : OpRow := ⟨0x002, .w, false, false, false, false, false, .i32, true, .bra⟩
/-- `call` (06). -/
def call : OpRow := ⟨0x003, .w, true, false, false, false, false, .i32, true, .call⟩
/-- `ret` (06). -/
def ret : OpRow := ⟨0x004, .g, false, true, false, false, false, .none, true, fun f => if f.mod.getLsbD 0 then .retK f else .ret f⟩
/-- `callk` (06). -/
def callk : OpRow := ⟨0x005, .g, true, true, false, false, false, .none, true, .callk⟩
/-- `fork` (06). -/
def fork : OpRow := ⟨0x006, .l, false, true, false, false, false, .i32, true, .fork⟩
/-- `meet.set` (06). -/
def meetSet : OpRow := ⟨0x007, .g, false, true, false, false, false, .none, false, .meetSet⟩
/-- `meet.get` (06). -/
def meetGet : OpRow := ⟨0x008, .g, true, false, false, false, false, .none, false, .meetGet⟩
/-- `exit` (06). -/
def exitt : OpRow := ⟨0x009, .g, false, false, false, false, false, .none, true, .exitt⟩
/-- `end` (06). -/
def endGroup : OpRow := ⟨0x00A, .g, false, false, false, false, false, .none, true, .endGroup⟩
/-- `bar` (06). -/
def bar : OpRow := ⟨0x00B, .g, false, false, false, false, false, .none, true, .bar⟩
/-- `bar.arrive` (06). -/
def barArrive : OpRow := ⟨0x00C, .g, false, false, false, false, false, .none, true, .barArrive⟩
/-- `bar.wait` (06). -/
def barWait : OpRow := ⟨0x00D, .g, false, false, false, false, false, .none, true, .barWait⟩
/-- `gset` (06). -/
def gset : OpRow := ⟨0x00E, .g, false, true, false, false, false, .none, false, .gset⟩
/-- `gclr` (06). -/
def gclr : OpRow := ⟨0x00F, .g, false, false, false, false, false, .none, false, .gclr⟩
/-- `cset` (06). -/
def cset : OpRow := ⟨0x010, .g, true, true, false, false, false, .none, false, .cset⟩
/-- `cop` (06). -/
def cop : OpRow := ⟨0x011, .g, true, true, true, false, false, .none, false, .cop⟩
/-- `elect` (06). -/
def elect : OpRow := ⟨0x012, .g, true, false, false, false, false, .none, false, .elect⟩
/-- `yield` (06). -/
def yield : OpRow := ⟨0x013, .g, false, false, false, false, false, .none, true, .yield⟩
/-- `sleep` (06). -/
def sleep : OpRow := ⟨0x014, .g, false, true, false, false, false, .i17, true, .sleep⟩
/-- `qwait` (06). -/
def qwait : OpRow := ⟨0x015, .g, false, false, false, false, false, .none, true, .qwait⟩
/-- `mwait` (06). -/
def mwait : OpRow := ⟨0x016, .g, false, false, false, false, false, .none, true, .mwait⟩
/-- `ewait` (06). -/
def ewait : OpRow := ⟨0x017, .g, false, true, false, false, false, .none, true, .ewait⟩
/-- `rdclk` (06). -/
def rdclk : OpRow := ⟨0x018, .g, true, false, false, false, false, .none, false, .rdclk⟩
/-- `snap` (06). -/
def snap : OpRow := ⟨0x019, .g, false, false, false, false, false, .i17, false, .snap⟩
/-- `srd` (06). -/
def srd : OpRow := ⟨0x01A, .q, true, false, false, false, false, .none, false, .srd⟩
/-- `swr` (06). -/
def swr : OpRow := ⟨0x01B, .q, false, true, false, false, false, .none, false, .swr⟩
/-- `brk` (06). -/
def brk : OpRow := ⟨0x01C, .g, false, false, false, false, false, .none, true, .brk⟩
/-- `trap` (06). -/
def trap : OpRow := ⟨0x01D, .g, false, false, false, false, false, .i17, true, .trap⟩
/-- `rfe` (06). -/
def rfe : OpRow := ⟨0x01E, .g, false, false, false, false, false, .none, true, .rfe⟩
/-- `add` (06). -/
def add : OpRow := ⟨0x040, .g, true, true, true, false, false, .i32, false, .add⟩
/-- `sub` (06). -/
def subb : OpRow := ⟨0x041, .g, true, true, true, false, false, .i32, false, .subb⟩
/-- `addc` (06). -/
def addc : OpRow := ⟨0x042, .w, true, true, true, true, false, .none, false, .addc⟩
/-- `subc` (06). -/
def subc : OpRow := ⟨0x043, .w, true, true, true, true, false, .none, false, .subc⟩
/-- `mul` (06). -/
def mul : OpRow := ⟨0x044, .g, true, true, true, false, false, .i32, false, .mul⟩
/-- `mulh` (06). -/
def mulh : OpRow := ⟨0x045, .g, true, true, true, false, false, .none, false, .mulh⟩
/-- `mad` (06). -/
def mad : OpRow := ⟨0x046, .w, true, true, true, true, false, .none, false, .mad⟩
/-- `madh` (06). -/
def madh : OpRow := ⟨0x047, .w, true, true, true, true, false, .none, false, .madh⟩
/-- `idiv` (06). -/
def idiv : OpRow := ⟨0x048, .g, true, true, true, false, false, .none, false, .idiv⟩
/-- `irem` (06). -/
def irem : OpRow := ⟨0x049, .g, true, true, true, false, false, .none, false, .irem⟩
/-- `min` (06). -/
def minn : OpRow := ⟨0x04A, .g, true, true, true, false, false, .i32, false, .minn⟩
/-- `max` (06). -/
def maxx : OpRow := ⟨0x04B, .g, true, true, true, false, false, .i32, false, .maxx⟩
/-- `abs` (06). -/
def abss : OpRow := ⟨0x04C, .g, true, true, false, false, false, .none, false, .abss⟩
/-- `neg` (06). -/
def negg : OpRow := ⟨0x04D, .g, true, true, false, false, false, .none, false, .negg⟩
/-- `and` (06). -/
def andd : OpRow := ⟨0x050, .g, true, true, true, false, false, .i32, false, .andd⟩
/-- `or` (06). -/
def orr : OpRow := ⟨0x051, .g, true, true, true, false, false, .i32, false, .orr⟩
/-- `xor` (06). -/
def xor : OpRow := ⟨0x052, .g, true, true, true, false, false, .i32, false, .xor⟩
/-- `andn` (06). -/
def andn : OpRow := ⟨0x053, .g, true, true, true, false, false, .i32, false, .andn⟩
/-- `orn` (06). -/
def orn : OpRow := ⟨0x054, .g, true, true, true, false, false, .i32, false, .orn⟩
/-- `not` (06). -/
def nott : OpRow := ⟨0x055, .g, true, true, false, false, false, .none, false, .nott⟩
/-- `shl` (06). -/
def shl : OpRow := ⟨0x058, .g, true, true, true, false, false, .none, false, .shl⟩
/-- `shr` (06). -/
def shr : OpRow := ⟨0x059, .g, true, true, true, false, false, .none, false, .shr⟩
/-- `sar` (06). -/
def sar : OpRow := ⟨0x05A, .g, true, true, true, false, false, .none, false, .sar⟩
/-- `rol` (06). -/
def rol : OpRow := ⟨0x05B, .g, true, true, true, false, false, .none, false, .rol⟩
/-- `ror` (06). -/
def ror : OpRow := ⟨0x05C, .g, true, true, true, false, false, .none, false, .ror⟩
/-- `popc` (06). -/
def popc : OpRow := ⟨0x060, .g, true, true, false, false, false, .none, false, .popc⟩
/-- `clz` (06). -/
def clz : OpRow := ⟨0x061, .g, true, true, false, false, false, .none, false, .clz⟩
/-- `ctz` (06). -/
def ctz : OpRow := ⟨0x062, .g, true, true, false, false, false, .none, false, .ctz⟩
/-- `brev` (06). -/
def brev : OpRow := ⟨0x063, .g, true, true, false, false, false, .none, false, .brev⟩
/-- `bfe` (06). -/
def bfe : OpRow := ⟨0x064, .w, true, true, true, true, false, .none, false, .bfe⟩
/-- `bfi` (06). -/
def bfi : OpRow := ⟨0x065, .l, true, true, true, true, true, .none, false, .bfi⟩
/-- `bperm` (06). -/
def bperm : OpRow := ⟨0x066, .w, true, true, true, true, false, .none, false, .bperm⟩
/-- `sel` (06). -/
def sel : OpRow := ⟨0x068, .w, true, true, true, true, false, .none, false, .sel⟩
/-- `cmp` (06). -/
def cmp : OpRow := ⟨0x069, .g, true, true, true, false, false, .i32, false, .cmp⟩
/-- `mov` (06). -/
def mov : OpRow := ⟨0x06A, .g, true, true, false, false, false, .none, false, .mov⟩
/-- `li` (06). -/
def li : OpRow := ⟨0x06B, .w, true, false, false, false, false, .i32, false, .li⟩
/-- `sext` (06). -/
def sext : OpRow := ⟨0x06C, .g, true, true, true, false, false, .none, false, .sext⟩
/-- `zext` (06). -/
def zext : OpRow := ⟨0x06D, .g, true, true, true, false, false, .none, false, .zext⟩
/-- `mul24` (06). -/
def mul24 : OpRow := ⟨0x0B0, .g, true, true, true, false, false, .none, false, .mul24⟩
/-- `mad24` (06). -/
def mad24 : OpRow := ⟨0x0B1, .w, true, true, true, true, false, .none, false, .mad24⟩
/-- `fadd` (06). -/
def fadd : OpRow := ⟨0x100, .g, true, true, true, false, false, .i32h, false, .fadd⟩
/-- `fsub` (06). -/
def fsub : OpRow := ⟨0x101, .g, true, true, true, false, false, .i32h, false, .fsub⟩
/-- `fmul` (06). -/
def fmul : OpRow := ⟨0x102, .g, true, true, true, false, false, .i32h, false, .fmul⟩
/-- `ffma` (06). -/
def ffma : OpRow := ⟨0x103, .w, true, true, true, true, false, .none, false, .ffma⟩
/-- `fmin` (06). -/
def fmin : OpRow := ⟨0x104, .g, true, true, true, false, false, .i32h, false, .fmin⟩
/-- `fmax` (06). -/
def fmax : OpRow := ⟨0x105, .g, true, true, true, false, false, .i32h, false, .fmax⟩
/-- `fminn` (06). -/
def fminn : OpRow := ⟨0x106, .g, true, true, true, false, false, .none, false, .fminn⟩
/-- `fmaxn` (06). -/
def fmaxn : OpRow := ⟨0x107, .g, true, true, true, false, false, .none, false, .fmaxn⟩
/-- `fabs` (06). -/
def fabs : OpRow := ⟨0x108, .g, true, true, false, false, false, .none, false, .fabs⟩
/-- `fneg` (06). -/
def fneg : OpRow := ⟨0x109, .g, true, true, false, false, false, .none, false, .fneg⟩
/-- `fcmp` (06). -/
def fcmp : OpRow := ⟨0x10A, .g, true, true, true, false, false, .i32h, false, .fcmp⟩
/-- `fclass` (06). -/
def fclass : OpRow := ⟨0x10B, .g, true, true, false, false, false, .none, false, .fclass⟩
/-- `frint` (06). -/
def frint : OpRow := ⟨0x10C, .g, true, true, false, false, false, .none, false, .frint⟩
/-- `fcpsgn` (06). -/
def fcpsgn : OpRow := ⟨0x10D, .g, true, true, true, false, false, .none, false, .fcpsgn⟩
/-- `fldexp` (06). -/
def fldexp : OpRow := ⟨0x10E, .g, true, true, true, false, false, .none, false, .fldexp⟩
/-- `cvt` (06). -/
def cvt : OpRow := ⟨0x180, .g, true, true, false, false, false, .none, false, .cvt⟩
/-- `cvtf` (06). -/
def cvtf : OpRow := ⟨0x181, .g, true, true, true, false, false, .none, false, .cvtf⟩
/-- `pack` (06). -/
def pack : OpRow := ⟨0x182, .w, true, true, true, true, false, .none, false, .pack⟩
/-- `unpack` (06). -/
def unpack : OpRow := ⟨0x183, .g, true, true, true, false, false, .none, false, .unpack⟩
/-- `qscale` (06). -/
def qscale : OpRow := ⟨0x184, .g, true, true, true, false, false, .none, false, .qscale⟩
/-- `bpsplit` (06). -/
def bpsplit : OpRow := ⟨0x185, .g, true, true, true, false, false, .none, false, .bpsplit⟩
/-- `bpjoin` (06). -/
def bpjoin : OpRow := ⟨0x186, .w, true, true, true, true, false, .none, false, .bpjoin⟩
/-- `satrd` (06). -/
def satrd : OpRow := ⟨0x187, .g, true, false, false, false, false, .none, false, .satrd⟩
/-- `satclr` (06). -/
def satclr : OpRow := ⟨0x188, .g, false, true, false, false, false, .none, false, .satclr⟩
/-- `rcp` (06). -/
def rcp : OpRow := ⟨0x1C0, .g, true, true, false, false, false, .none, false, .rcp⟩
/-- `rsqrt` (06). -/
def rsqrt : OpRow := ⟨0x1C1, .g, true, true, false, false, false, .none, false, .rsqrt⟩
/-- `sqrt` (06). -/
def sqrt : OpRow := ⟨0x1C2, .g, true, true, false, false, false, .none, false, .sqrt⟩
/-- `exp2` (06). -/
def exp2 : OpRow := ⟨0x1C3, .g, true, true, false, false, false, .none, false, .exp2⟩
/-- `log2` (06). -/
def log2 : OpRow := ⟨0x1C4, .g, true, true, false, false, false, .none, false, .log2⟩
/-- `sinpi` (06). -/
def sinpi : OpRow := ⟨0x1C5, .g, true, true, false, false, false, .none, false, .sinpi⟩
/-- `cospi` (06). -/
def cospi : OpRow := ⟨0x1C6, .g, true, true, false, false, false, .none, false, .cospi⟩
/-- `tanh` (06). -/
def tanh : OpRow := ⟨0x1C7, .g, true, true, false, false, false, .none, false, .tanh⟩
/-- `rng` (06). -/
def rng : OpRow := ⟨0x1C8, .g, true, true, true, false, false, .none, false, .rng⟩
/-- `csamp` (06). -/
def csamp : OpRow := ⟨0x1C9, .g, true, true, true, false, false, .none, false, .csamp⟩
/-- `vote` (06). -/
def vote : OpRow := ⟨0x200, .g, true, true, false, false, false, .none, false, .vote⟩
/-- `shfl` (06). -/
def shfl : OpRow := ⟨0x201, .w, true, true, true, true, false, .none, false, .shfl⟩
/-- `red` (06). -/
def red : OpRow := ⟨0x202, .g, true, true, false, false, false, .none, false, .red⟩
/-- `scan` (06). -/
def scan : OpRow := ⟨0x203, .g, true, true, false, false, false, .none, false, .scan⟩
/-- `part` (06). -/
def part : OpRow := ⟨0x204, .g, false, true, false, false, false, .none, false, .part⟩
/-- `match` (06). -/
def matchv : OpRow := ⟨0x205, .g, true, true, false, false, false, .none, false, .matchv⟩
/-- `ld` (06). -/
def ld : OpRow := ⟨0x240, .g, true, true, true, false, false, .i32, false, .ld⟩
/-- `st` (06). -/
def st : OpRow := ⟨0x241, .w, false, true, true, true, false, .i32, false, .st⟩
/-- `ldt` (06). -/
def ldt : OpRow := ⟨0x242, .g, true, true, true, false, false, .i32, false, .ldt⟩
/-- `stt` (06). -/
def stt : OpRow := ⟨0x243, .w, false, true, true, true, false, .i32, false, .stt⟩
/-- `ldk` (06). -/
def ldk : OpRow := ⟨0x244, .g, true, true, true, false, false, .i32, false, .ldk⟩
/-- `stk` (06). -/
def stk : OpRow := ⟨0x245, .w, false, true, true, true, false, .i32, false, .stk⟩
/-- `atom` (06). -/
def atom : OpRow := ⟨0x248, .w, true, true, true, true, false, .i32, false, .atom⟩
/-- `atomf` (06). -/
def atomf : OpRow := ⟨0x249, .w, true, true, true, true, false, .i32, false, fun f => if f.mod.extractLsb' 4 2 == 1#2 then .atomfAddOrd f else .atomf f⟩
/-- `cas` (06). -/
def cas : OpRow := ⟨0x24A, .l, true, true, true, true, true, .i32, false, .cas⟩
/-- `bind` (06). -/
def bind : OpRow := ⟨0x250, .g, false, true, true, false, false, .none, false, .bind⟩
/-- `unbind` (06). -/
def unbind : OpRow := ⟨0x251, .g, false, false, false, false, false, .none, false, .unbind⟩
/-- `acq` (06). -/
def acq : OpRow := ⟨0x252, .g, false, true, true, false, false, .none, false, fun f => if f.mod.getLsbD 3 then .acqGe f else .acq f⟩
/-- `rel` (06). -/
def rel : OpRow := ⟨0x253, .g, false, true, true, false, false, .none, false, .rel⟩
/-- `fence` (06). -/
def fence : OpRow := ⟨0x254, .g, false, false, false, false, false, .none, false, .fence⟩
/-- `ordflush` (06). -/
def ordflush : OpRow := ⟨0x255, .g, false, true, false, false, false, .none, false, .ordflush⟩
/-- `l2pin` (06). -/
def l2pin : OpRow := ⟨0x258, .g, false, true, false, false, false, .none, false, .l2pin⟩
/-- `l2unpin` (06). -/
def l2unpin : OpRow := ⟨0x259, .g, false, true, false, false, false, .none, false, .l2unpin⟩
/-- `prefetch` (06). -/
def prefetch : OpRow := ⟨0x25A, .g, false, true, true, false, false, .i32, false, .prefetch⟩
/-- `tclr` (06). -/
def tclr : OpRow := ⟨0x25C, .g, true, false, false, false, false, .none, false, .tclr⟩
/-- `kmov` (06). -/
def kmov : OpRow := ⟨0x2C0, .g, true, true, false, false, false, .none, false, .kmov⟩
/-- `kbound` (06). -/
def kbound : OpRow := ⟨0x2C1, .g, true, true, true, false, false, .none, false, .kbound⟩
/-- `kaddr` (06). -/
def kaddr : OpRow := ⟨0x2C2, .g, true, true, true, false, false, .none, false, .kaddr⟩
/-- `kadd` (06). -/
def kadd : OpRow := ⟨0x2C3, .g, true, true, true, false, false, .none, false, .kadd⟩
/-- `kperm` (06). -/
def kperm : OpRow := ⟨0x2C4, .g, true, true, true, false, false, .none, false, .kperm⟩
/-- `kseal` (06). -/
def kseal : OpRow := ⟨0x2C5, .g, true, true, true, false, false, .none, false, .kseal⟩
/-- `kunseal` (06). -/
def kunseal : OpRow := ⟨0x2C6, .g, true, true, true, false, false, .none, false, fun f => if f.mod.getLsbD 0 then .kunsealGrant f else .kunseal f⟩
/-- `kdeleg` (06). -/
def kdeleg : OpRow := ⟨0x2C7, .l, true, true, true, true, true, .none, false, .kdeleg⟩
/-- `kget` (06). -/
def kget : OpRow := ⟨0x2C8, .g, true, true, false, false, false, .none, false, .kget⟩
/-- `ktest` (06). -/
def ktest : OpRow := ⟨0x2C9, .g, true, true, true, false, false, .none, false, .ktest⟩
/-- `krevoke` (06). -/
def krevoke : OpRow := ⟨0x2CA, .g, false, true, false, false, false, .none, false, .krevoke⟩
/-- `lblup` (06). -/
def lblup : OpRow := ⟨0x2D0, .g, true, true, true, false, false, .none, false, .lblup⟩
/-- `lbldn` (06). -/
def lbldn : OpRow := ⟨0x2D1, .w, true, true, true, true, false, .none, false, .lbldn⟩
/-- `lblget` (06). -/
def lblget : OpRow := ⟨0x2D2, .g, true, true, false, false, false, .none, false, .lblget⟩
/-- `mma` (06). -/
def mma : OpRow := ⟨0x300, .g, false, true, true, false, false, .none, false, .mma⟩
/-- `mzero` (06). -/
def mzero : OpRow := ⟨0x301, .g, false, false, false, false, false, .none, false, .mzero⟩
/-- `mrd` (06). -/
def mrd : OpRow := ⟨0x302, .g, true, true, false, false, false, .none, false, .mrd⟩
/-- `mwr` (06). -/
def mwr : OpRow := ⟨0x303, .g, false, true, true, false, false, .none, false, .mwr⟩
/-- `mscale` (06). -/
def mscale : OpRow := ⟨0x304, .g, false, true, true, false, false, .none, false, .mscale⟩
/-- `mdrain` (06). -/
def mdrain : OpRow := ⟨0x305, .g, false, true, false, false, false, .none, false, .mdrain⟩
/-- `mrecv` (06). -/
def mrecv : OpRow := ⟨0x306, .g, false, true, false, false, false, .none, false, .mrecv⟩
/-- `vinit` (06). -/
def vinit : OpRow := ⟨0x310, .w, false, true, true, true, false, .none, false, .vinit⟩
/-- `vfold` (06). -/
def vfold : OpRow := ⟨0x311, .g, false, true, false, false, false, .none, false, fun f => if f.mod.getLsbD 3 then .vfoldBwd f else .vfold f⟩
/-- `vmerge` (06). -/
def vmerge : OpRow := ⟨0x312, .g, false, true, true, false, false, .none, false, .vmerge⟩
/-- `vread` (06). -/
def vread : OpRow := ⟨0x313, .g, true, true, false, false, false, .none, false, .vread⟩
/-- `tx` (06). -/
def tx : OpRow := ⟨0x380, .g, false, true, true, false, false, .none, false, .tx⟩
/-- `gx` (06). -/
def gx : OpRow := ⟨0x381, .g, false, true, true, false, false, .none, false, .gx⟩
/-- `shp` (06). -/
def shp : OpRow := ⟨0x382, .w, true, true, true, true, false, .none, false, .shp⟩
/-- `shpfree` (06). -/
def shpfree : OpRow := ⟨0x383, .g, false, true, false, false, false, .none, false, .shpfree⟩
/-- `eqry` (06). -/
def eqry : OpRow := ⟨0x384, .g, true, true, false, false, false, .none, false, .eqry⟩
/-- `dredge` (06). -/
def dredge : OpRow := ⟨0x385, .g, true, true, false, false, false, .none, false, fun f => if f.mod.extractLsb' 0 2 == 0#2 then .dredgeStart f else if f.mod.extractLsb' 0 2 == 1#2 then .dredgeWait f else .dredgeQuery f⟩
/-- `swslot` (06). -/
def swslot : OpRow := ⟨0x386, .g, true, true, false, false, false, .none, false, .swslot⟩
/-- `med3` (06). -/
def med3 : OpRow := ⟨0x3E0, .w, true, true, true, true, false, .none, false, .med3⟩
/-- `fdiv` (06). -/
def fdiv : OpRow := ⟨0x3E1, .g, true, true, true, false, false, .none, false, .fdiv⟩

end Row

/-- Rows 0 to 19 of the map. -/
def opTable0 : List OpRow :=
  [Row.nop, Row.br, Row.bra, Row.call, Row.ret, Row.callk, Row.fork, Row.meetSet, Row.meetGet, Row.exitt, Row.endGroup, Row.bar, Row.barArrive, Row.barWait, Row.gset, Row.gclr, Row.cset, Row.cop, Row.elect, Row.yield]

/-- Rows 20 to 39 of the map. -/
def opTable1 : List OpRow :=
  [Row.sleep, Row.qwait, Row.mwait, Row.ewait, Row.rdclk, Row.snap, Row.srd, Row.swr, Row.brk, Row.trap, Row.rfe, Row.add, Row.subb, Row.addc, Row.subc, Row.mul, Row.mulh, Row.mad, Row.madh, Row.idiv]

/-- Rows 40 to 59 of the map. -/
def opTable2 : List OpRow :=
  [Row.irem, Row.minn, Row.maxx, Row.abss, Row.negg, Row.andd, Row.orr, Row.xor, Row.andn, Row.orn, Row.nott, Row.shl, Row.shr, Row.sar, Row.rol, Row.ror, Row.popc, Row.clz, Row.ctz, Row.brev]

/-- Rows 60 to 79 of the map. -/
def opTable3 : List OpRow :=
  [Row.bfe, Row.bfi, Row.bperm, Row.sel, Row.cmp, Row.mov, Row.li, Row.sext, Row.zext, Row.mul24, Row.mad24, Row.fadd, Row.fsub, Row.fmul, Row.ffma, Row.fmin, Row.fmax, Row.fminn, Row.fmaxn, Row.fabs]

/-- Rows 80 to 99 of the map. -/
def opTable4 : List OpRow :=
  [Row.fneg, Row.fcmp, Row.fclass, Row.frint, Row.fcpsgn, Row.fldexp, Row.cvt, Row.cvtf, Row.pack, Row.unpack, Row.qscale, Row.bpsplit, Row.bpjoin, Row.satrd, Row.satclr, Row.rcp, Row.rsqrt, Row.sqrt, Row.exp2, Row.log2]

/-- Rows 100 to 119 of the map. -/
def opTable5 : List OpRow :=
  [Row.sinpi, Row.cospi, Row.tanh, Row.rng, Row.csamp, Row.vote, Row.shfl, Row.red, Row.scan, Row.part, Row.matchv, Row.ld, Row.st, Row.ldt, Row.stt, Row.ldk, Row.stk, Row.atom, Row.atomf, Row.cas]

/-- Rows 120 to 139 of the map. -/
def opTable6 : List OpRow :=
  [Row.bind, Row.unbind, Row.acq, Row.rel, Row.fence, Row.ordflush, Row.l2pin, Row.l2unpin, Row.prefetch, Row.tclr, Row.kmov, Row.kbound, Row.kaddr, Row.kadd, Row.kperm, Row.kseal, Row.kunseal, Row.kdeleg, Row.kget, Row.ktest]

/-- Rows 140 to 159 of the map. -/
def opTable7 : List OpRow :=
  [Row.krevoke, Row.lblup, Row.lbldn, Row.lblget, Row.mma, Row.mzero, Row.mrd, Row.mwr, Row.mscale, Row.mdrain, Row.mrecv, Row.vinit, Row.vfold, Row.vmerge, Row.vread, Row.tx, Row.gx, Row.shp, Row.shpfree, Row.eqry]

/-- Rows 160 to 163 of the map. -/
def opTable8 : List OpRow :=
  [Row.dredge, Row.swslot, Row.med3, Row.fdiv]

/-- Every assigned opcode of Torub 3 (06 R112). -/
def opTable : List OpRow :=
  opTable0 ++
  opTable1 ++
  opTable2 ++
  opTable3 ++
  opTable4 ++
  opTable5 ++
  opTable6 ++
  opTable7 ++
  opTable8

/-- The row of an opcode value (06 R112); `none` for a value that no table lists. -/
def opRow (opc : Nat) : Option OpRow := opTable.find? (fun r => r.opc == opc)

/-- The row and the fields of an instruction; `none` for an event. -/
def Instr.parts : Instr → Option (OpRow × Fields)
  | .nop f => some (Row.nop, f)
  | .br f => some (Row.br, f)
  | .bra f => some (Row.bra, f)
  | .call f => some (Row.call, f)
  | .ret f => some (Row.ret, f)
  | .retK f => some (Row.ret, f)
  | .callk f => some (Row.callk, f)
  | .fork f => some (Row.fork, f)
  | .meetSet f => some (Row.meetSet, f)
  | .meetGet f => some (Row.meetGet, f)
  | .exitt f => some (Row.exitt, f)
  | .endGroup f => some (Row.endGroup, f)
  | .bar f => some (Row.bar, f)
  | .barArrive f => some (Row.barArrive, f)
  | .barWait f => some (Row.barWait, f)
  | .gset f => some (Row.gset, f)
  | .gclr f => some (Row.gclr, f)
  | .cset f => some (Row.cset, f)
  | .cop f => some (Row.cop, f)
  | .elect f => some (Row.elect, f)
  | .yield f => some (Row.yield, f)
  | .sleep f => some (Row.sleep, f)
  | .qwait f => some (Row.qwait, f)
  | .mwait f => some (Row.mwait, f)
  | .ewait f => some (Row.ewait, f)
  | .rdclk f => some (Row.rdclk, f)
  | .snap f => some (Row.snap, f)
  | .srd f => some (Row.srd, f)
  | .swr f => some (Row.swr, f)
  | .brk f => some (Row.brk, f)
  | .trap f => some (Row.trap, f)
  | .rfe f => some (Row.rfe, f)
  | .add f => some (Row.add, f)
  | .subb f => some (Row.subb, f)
  | .addc f => some (Row.addc, f)
  | .subc f => some (Row.subc, f)
  | .mul f => some (Row.mul, f)
  | .mulh f => some (Row.mulh, f)
  | .mad f => some (Row.mad, f)
  | .madh f => some (Row.madh, f)
  | .idiv f => some (Row.idiv, f)
  | .irem f => some (Row.irem, f)
  | .minn f => some (Row.minn, f)
  | .maxx f => some (Row.maxx, f)
  | .abss f => some (Row.abss, f)
  | .negg f => some (Row.negg, f)
  | .andd f => some (Row.andd, f)
  | .orr f => some (Row.orr, f)
  | .xor f => some (Row.xor, f)
  | .andn f => some (Row.andn, f)
  | .orn f => some (Row.orn, f)
  | .nott f => some (Row.nott, f)
  | .shl f => some (Row.shl, f)
  | .shr f => some (Row.shr, f)
  | .sar f => some (Row.sar, f)
  | .rol f => some (Row.rol, f)
  | .ror f => some (Row.ror, f)
  | .popc f => some (Row.popc, f)
  | .clz f => some (Row.clz, f)
  | .ctz f => some (Row.ctz, f)
  | .brev f => some (Row.brev, f)
  | .bfe f => some (Row.bfe, f)
  | .bfi f => some (Row.bfi, f)
  | .bperm f => some (Row.bperm, f)
  | .sel f => some (Row.sel, f)
  | .cmp f => some (Row.cmp, f)
  | .mov f => some (Row.mov, f)
  | .li f => some (Row.li, f)
  | .sext f => some (Row.sext, f)
  | .zext f => some (Row.zext, f)
  | .mul24 f => some (Row.mul24, f)
  | .mad24 f => some (Row.mad24, f)
  | .med3 f => some (Row.med3, f)
  | .fadd f => some (Row.fadd, f)
  | .fsub f => some (Row.fsub, f)
  | .fmul f => some (Row.fmul, f)
  | .ffma f => some (Row.ffma, f)
  | .fmin f => some (Row.fmin, f)
  | .fmax f => some (Row.fmax, f)
  | .fminn f => some (Row.fminn, f)
  | .fmaxn f => some (Row.fmaxn, f)
  | .fabs f => some (Row.fabs, f)
  | .fneg f => some (Row.fneg, f)
  | .fcpsgn f => some (Row.fcpsgn, f)
  | .fcmp f => some (Row.fcmp, f)
  | .fclass f => some (Row.fclass, f)
  | .frint f => some (Row.frint, f)
  | .fldexp f => some (Row.fldexp, f)
  | .fdiv f => some (Row.fdiv, f)
  | .cvt f => some (Row.cvt, f)
  | .cvtf f => some (Row.cvtf, f)
  | .pack f => some (Row.pack, f)
  | .unpack f => some (Row.unpack, f)
  | .qscale f => some (Row.qscale, f)
  | .bpsplit f => some (Row.bpsplit, f)
  | .bpjoin f => some (Row.bpjoin, f)
  | .satrd f => some (Row.satrd, f)
  | .satclr f => some (Row.satclr, f)
  | .rcp f => some (Row.rcp, f)
  | .rsqrt f => some (Row.rsqrt, f)
  | .sqrt f => some (Row.sqrt, f)
  | .exp2 f => some (Row.exp2, f)
  | .log2 f => some (Row.log2, f)
  | .sinpi f => some (Row.sinpi, f)
  | .cospi f => some (Row.cospi, f)
  | .tanh f => some (Row.tanh, f)
  | .rng f => some (Row.rng, f)
  | .csamp f => some (Row.csamp, f)
  | .vote f => some (Row.vote, f)
  | .shfl f => some (Row.shfl, f)
  | .red f => some (Row.red, f)
  | .scan f => some (Row.scan, f)
  | .part f => some (Row.part, f)
  | .matchv f => some (Row.matchv, f)
  | .ld f => some (Row.ld, f)
  | .st f => some (Row.st, f)
  | .ldt f => some (Row.ldt, f)
  | .stt f => some (Row.stt, f)
  | .ldk f => some (Row.ldk, f)
  | .stk f => some (Row.stk, f)
  | .atom f => some (Row.atom, f)
  | .atomf f => some (Row.atomf, f)
  | .atomfAddOrd f => some (Row.atomf, f)
  | .cas f => some (Row.cas, f)
  | .bind f => some (Row.bind, f)
  | .unbind f => some (Row.unbind, f)
  | .acq f => some (Row.acq, f)
  | .acqGe f => some (Row.acq, f)
  | .rel f => some (Row.rel, f)
  | .fence f => some (Row.fence, f)
  | .ordflush f => some (Row.ordflush, f)
  | .l2pin f => some (Row.l2pin, f)
  | .l2unpin f => some (Row.l2unpin, f)
  | .prefetch f => some (Row.prefetch, f)
  | .tclr f => some (Row.tclr, f)
  | .kmov f => some (Row.kmov, f)
  | .kbound f => some (Row.kbound, f)
  | .kaddr f => some (Row.kaddr, f)
  | .kadd f => some (Row.kadd, f)
  | .kperm f => some (Row.kperm, f)
  | .kseal f => some (Row.kseal, f)
  | .kunseal f => some (Row.kunseal, f)
  | .kunsealGrant f => some (Row.kunseal, f)
  | .kdeleg f => some (Row.kdeleg, f)
  | .kget f => some (Row.kget, f)
  | .ktest f => some (Row.ktest, f)
  | .krevoke f => some (Row.krevoke, f)
  | .lblup f => some (Row.lblup, f)
  | .lbldn f => some (Row.lbldn, f)
  | .lblget f => some (Row.lblget, f)
  | .mma f => some (Row.mma, f)
  | .mzero f => some (Row.mzero, f)
  | .mrd f => some (Row.mrd, f)
  | .mwr f => some (Row.mwr, f)
  | .mscale f => some (Row.mscale, f)
  | .mdrain f => some (Row.mdrain, f)
  | .mrecv f => some (Row.mrecv, f)
  | .vinit f => some (Row.vinit, f)
  | .vfold f => some (Row.vfold, f)
  | .vfoldBwd f => some (Row.vfold, f)
  | .vmerge f => some (Row.vmerge, f)
  | .vread f => some (Row.vread, f)
  | .tx f => some (Row.tx, f)
  | .gx f => some (Row.gx, f)
  | .shp f => some (Row.shp, f)
  | .shpfree f => some (Row.shpfree, f)
  | .eqry f => some (Row.eqry, f)
  | .swslot f => some (Row.swslot, f)
  | .dredgeStart f => some (Row.dredge, f)
  | .dredgeWait f => some (Row.dredge, f)
  | .dredgeQuery f => some (Row.dredge, f)
  | _ => none

/-- The modifier bits of a mnemonic that shares its opcode with another row of the table of operations agree
with the constructor. -/
def Instr.selected : Instr → Bool
  | .ret f => !(f.mod.getLsbD 0)
  | .retK f => f.mod.getLsbD 0
  | .acq f => !(f.mod.getLsbD 3)
  | .acqGe f => f.mod.getLsbD 3
  | .atomf f => !(f.mod.extractLsb' 4 2 == 1#2)
  | .atomfAddOrd f => f.mod.extractLsb' 4 2 == 1#2
  | .kunseal f => !(f.mod.getLsbD 0)
  | .kunsealGrant f => f.mod.getLsbD 0
  | .vfold f => !(f.mod.getLsbD 3)
  | .vfoldBwd f => f.mod.getLsbD 3
  | .dredgeStart f => f.mod.extractLsb' 0 2 == 0#2
  | .dredgeWait f => f.mod.extractLsb' 0 2 == 1#2
  | .dredgeQuery f => !(f.mod.extractLsb' 0 2 == 0#2) && !(f.mod.extractLsb' 0 2 == 1#2)
  | _ => true

/-- Whether a form is one of those a form code stands for (06 R113), extension units apart. -/
def FormCode.allows : FormCode → Form → Bool
  | .s, .d32 | .s, .d64 _ _ | .s, .n64 => true
  | .g, _ => true
  | .w, .d64 _ _ | .w, .n96 | .w, .n128 => true
  | .l, .d64 _ _ | .l, .n128 => true
  | .q, .d64 false false | .q, .n64 => true
  | _, _ => false

/-- Decode step 6 (04 R70, R85; 06 R113): the form is allowed, and an immediate unit is carried only for an
opcode that reads an immediate. A field unit holds GP2 and GN2, which every opcode uses. -/
def OpRow.formOk (r : OpRow) (f : Form) : Bool :=
  r.forms.allows f &&
  match f with
  | .d64 _ true => r.imm != .none
  | _ => true

/-- The value of the immediate (06 R114). -/
def OpRow.immValue (r : OpRow) (f : Fields) : BitVec 32 :=
  match r.imm, f.form with
  | .i32, .n96 => (f.imm.extractLsb' 0 17).signExtend 32
  | .i32h, .n96 => f.imm <<< 15
  | _, _ => f.imm

end Sys2Proof
end

