-- ==== Sys2Proof/WellFormed.lean ====
section
/-! DEFINITION. WellFormed.lean: which values of `Instr` are instructions that an encoding gives (04 R69 to R83,
R97): every field fits its form, every unused field holds its default, no reserved code stands in an operand. The
rules of one opcode's own MOD and QUAL values are its meaning's, which raises ILLEGAL_OPERAND. -/

namespace Sys2Proof

/-- A field that the form does not carry holds its default, and a field fits its width (04 R69, R72, R75, R76). -/
def Fields.fits (r : OpRow) (f : Fields) : Bool :=
  match f.form with
  | .n64 => f.c == .zero && f.d == .zero && f.g2 == Guard.always && f.qual2 == 0#7 && f.imm == 0#32
  | .n96 => f.d == .zero && f.qual2 == 0#7 && decide (f.imm.toNat < 131072)
  | .n128 => true
  | .d32 => !r.c && !f.re && f.lat == 0 && f.b == .zero && f.c == .zero && f.d == .zero && f.g1 == Guard.always &&
      f.g2 == Guard.always && decide (f.mod.toNat < 4) && f.qual == 0#8 && f.qual2 == 0#7 && f.imm == 0#32
  | .d64 fu iu => !f.re && f.lat == 0 && (if r.c then fu || f.qual == 0#8 else f.c == .zero) &&
      (fu || (f.d == .zero && f.g2 == Guard.always && f.qual2 == 0#7)) && (iu || f.imm == 0#32)

/-- A source code is one that 04 R78 gives a value, and no latch in Torub-D (04 R77). -/
def Src.legal (dense : Bool) : Src → Bool
  | .reserved _ => false
  | .lat _ => !dense
  | _ => true

/-- A destination code is one of 04 R79, and no latch in Torub-D (04 R77). -/
def Dst.legal (dense : Bool) : Dst → Bool
  | .reserved _ => false
  | .lat _ => !dense
  | _ => true

/-- Unused operands hold 475, reserved codes are absent, unused immediate bits are zero (04 R71, R77 to R79; 06
R114, R115). -/
def Fields.clean (r : OpRow) (f : Fields) : Bool :=
  f.dst.legal f.form.isDense && f.a.legal f.form.isDense && f.b.legal f.form.isDense &&
  f.c.legal f.form.isDense && f.d.legal f.form.isDense &&
  (r.dst || f.dst == .none) && (r.a || f.a == .zero) && (r.b || f.b == .zero) &&
  (r.c || f.c == .zero) && (r.d || f.d == .zero) && f.qual2 == 0#7 &&
  (match r.imm with
   | .none => f.imm == 0#32
   | .i17 => decide (f.imm.toNat < 131072)
   | _ => true)

/-- The combinations of LAT and DST that 04 R83 allows. -/
def latOk (lat : Fin 8) (dst : Dst) : Bool :=
  match lat.val, dst with
  | 0, _ => true
  | 1, .v _ | 2, .v _ | 3, .v _ | 1, .s _ | 2, .s _ | 3, .s _ => true
  | 5, .none | 6, .none | 7, .none => true
  | _, _ => false

/-- The run-end duty of an opcode (04 R81, 06 R118): fixed by OPC and MOD. -/
def runEndDuty (r : OpRow) (m : BitVec 6) : Bool :=
  r.re || (r.opc == 0x252 && m.getLsbD 3) || (r.opc == 0x385 && m.extractLsb' 0 2 == 1#2)

/-- Well-formed: an allowed form, fields that fit it, defaults where a field is unused, a legal LAT, and RE where the
opcode must end its run. An event is well-formed. -/
def Instr.wf (i : Instr) : Bool :=
  match i.parts with
  | none => true
  | some (r, f) =>
    i.selected && r.formOk f.form && f.fits r && f.clean r && latOk f.lat f.dst &&
    (f.form.isDense || f.re || !runEndDuty r f.mod)

end Sys2Proof
end

