-- ==== Sys2Proof/Decode.lean ====
section
/-! DEFINITION. Decode.lean: from the units of an instruction to its fields and back (04 R72, R75, R76). A word is
the number whose 32-bit digits are the units, the first unit lowest. Both directions go through one table of field
widths per layout, lowest bits first. -/

namespace Sys2Proof

/-- Why units are not an instruction (04 R85 steps 1 to 6, R97). -/
inductive DecodeError where
  /-- A further unit is needed than was given (step 3). -/
  | truncated
  /-- LEN is 0b11 (step 2). -/
  | illegalLen
  /-- A reserved bit of Torub-D is set (step 4). -/
  | reservedBit
  /-- The opcode is not assigned (step 5). -/
  | unimplemented
  /-- A Torub-D word whose extension units its opcode does not allow (step 6), with stray QUAL bits. -/
  | illegalForm
  /-- QUAL bits of Torub-D that 04 R76 says are zero (step 9, R71). -/
  | illegalOperand
  deriving DecidableEq, Repr

/-- Split a word into fields of the given widths, lowest first. -/
def unpack : List Nat → Nat → List Nat
  | [], _ => []
  | w :: ws, n => n % 2 ^ w :: unpack ws (n / 2 ^ w)

/-- Put fields together, each under its width, lowest first. -/
def pack : List Nat → List Nat → Nat
  | w :: ws, x :: xs => x % 2 ^ w + 2 ^ w * pack ws xs
  | _, _ => 0

/-- LEN, OPC, RE, LAT, DST, SRCA, SRCB, GP, GN, MOD, QUAL (04 R72). -/
def layoutN64 : List Nat := [2, 10, 1, 3, 9, 10, 10, 4, 1, 6, 8]
/-- Then SRCC, GP2, GN2, IMM (04 R72, 96-bit form). -/
def layoutN96 : List Nat := [2, 10, 1, 3, 9, 10, 10, 4, 1, 6, 8, 10, 4, 1, 17]
/-- Then SRCC, SRCD, GP2, GN2, QUAL2, IMM (04 R72, 128-bit form). -/
def layoutN128 : List Nat := [2, 10, 1, 3, 9, 10, 10, 4, 1, 6, 8, 10, 10, 4, 1, 7, 32]
/-- W, OPC, DST, SRCA, MODS (04 R75, first unit). -/
def layoutD1 : List Nat := [1, 10, 9, 10, 2]
/-- SRCB, SRCC or QUAL, GP, GN, MOD, the reserved MOD7[6] (04 R75, second unit). -/
def layoutD2 : List Nat := [10, 10, 4, 1, 6, 1]
/-- SRCD, GP2, GN2, QUAL2, QUAL, reserved (04 R75, field unit). -/
def layoutDF : List Nat := [10, 4, 1, 7, 8, 2]

/-- A source code (04 R78). -/
def Src.ofCode (n : Nat) : Src :=
  if h : n < 384 then .v ⟨n, h⟩
  else if h : n - 384 < 64 then .s ⟨n - 384, h⟩
  else if h : n - 448 < 16 then .p ⟨n - 448, h⟩
  else if h : n - 464 < 8 then .c ⟨n - 464, h⟩
  else if h : n - 472 < 3 then .lat ⟨n - 472, h⟩
  else if n = 475 then .zero
  else if n = 476 then .tid
  else if n = 477 then .gid
  else if n = 478 then .kid
  else if n = 479 then .width
  else if h : n - 480 < 32 then .reserved ⟨n - 480, h⟩
  else .imm ⟨(n - 512) % 512, Nat.mod_lt _ (by decide)⟩

/-- The code of a source (04 R78). -/
def Src.code : Src → Nat
  | .v n => n.val
  | .s n => 384 + n.val
  | .p n => 448 + n.val
  | .c n => 464 + n.val
  | .lat n => 472 + n.val
  | .zero => 475
  | .tid => 476
  | .gid => 477
  | .kid => 478
  | .width => 479
  | .reserved n => 480 + n.val
  | .imm n => 512 + n.val

/-- A destination code (04 R79). -/
def Dst.ofCode (n : Nat) : Dst :=
  if h : n < 384 then .v ⟨n, h⟩
  else if h : n - 384 < 64 then .s ⟨n - 384, h⟩
  else if h : n - 448 < 16 then .p ⟨n - 448, h⟩
  else if h : n - 464 < 8 then .c ⟨n - 464, h⟩
  else if h : n - 472 < 3 then .lat ⟨n - 472, h⟩
  else if n = 475 then .none
  else .reserved ⟨(n - 476) % 36, Nat.mod_lt _ (by decide)⟩

/-- The code of a destination (04 R79). -/
def Dst.code : Dst → Nat
  | .v n => n.val
  | .s n => 384 + n.val
  | .p n => 448 + n.val
  | .c n => 464 + n.val
  | .lat n => 472 + n.val
  | .none => 475
  | .reserved n => 476 + n.val

/-- A guard from GP and GN (04 R80). -/
def Guard.ofCode (gp gn : Nat) : Guard := ⟨⟨gp % 16, Nat.mod_lt _ (by decide)⟩, gn % 2 == 1⟩

/-- GN as a number. -/
def Guard.gn (g : Guard) : Nat := if g.neg then 1 else 0

/-- LAT from its field. -/
def latOfCode (n : Nat) : Fin 8 := ⟨n % 8, Nat.mod_lt _ (by decide)⟩

/-- An instruction with an assigned opcode (04 R85 step 5). -/
def ofOpc (opc : Nat) (f : Fields) : Except DecodeError Instr :=
  match opRow opc with
  | none => .error .unimplemented
  | some r => .ok (r.instr f)

/-- The Torub-N decoder (04 R72) of a word of `avail` units. -/
def decodeNative (avail w : Nat) : Except DecodeError Instr :=
  if avail < 1 then .error .truncated
  else if w % 4 = 3 then .error .illegalLen
  else if avail < 2 + w % 4 then .error .truncated
  else if w % 4 = 0 then
    match unpack layoutN64 w with
    | [_, opc, re, lat, dst, a, b, gp, gn, mod, qual] =>
      ofOpc opc ⟨.n64, re == 1, latOfCode lat, .ofCode dst, .ofCode a, .ofCode b, .zero, .zero, .ofCode gp gn,
        Guard.always, .ofNat 6 mod, .ofNat 8 qual, 0, 0⟩
    | _ => .error .truncated
  else if w % 4 = 1 then
    match unpack layoutN96 w with
    | [_, opc, re, lat, dst, a, b, gp, gn, mod, qual, c, gp2, gn2, imm] =>
      ofOpc opc ⟨.n96, re == 1, latOfCode lat, .ofCode dst, .ofCode a, .ofCode b, .ofCode c, .zero, .ofCode gp gn,
        .ofCode gp2 gn2, .ofNat 6 mod, .ofNat 8 qual, 0, .ofNat 32 imm⟩
    | _ => .error .truncated
  else
    match unpack layoutN128 w with
    | [_, opc, re, lat, dst, a, b, gp, gn, mod, qual, c, d, gp2, gn2, qual2, imm] =>
      ofOpc opc ⟨.n128, re == 1, latOfCode lat, .ofCode dst, .ofCode a, .ofCode b, .ofCode c, .ofCode d,
        .ofCode gp gn, .ofCode gp2 gn2, .ofNat 6 mod, .ofNat 8 qual, .ofNat 7 qual2, .ofNat 32 imm⟩
    | _ => .error .truncated

/-- Units of a Torub-D instruction, from its first unit (04 R75). -/
def denseUnits (u : Nat) : Nat :=
  if u % 2 = 0 then 1 else 2 + u / 2 ^ 30 % 4 % 2 + u / 2 ^ 30 % 4 / 2

/-- The two-unit forms of Torub-D, the fields of the four units in hand (04 R75, R76; steps 4 to 6 and 9 of R85). -/
def decodeTwoUnit (fu iu : Bool) (opc dst a b cq gp gn mod resv d gp2 gn2 qual2 fqual fresv imm : Nat) :
    Except DecodeError Instr :=
  if resv ≠ 0 ∨ fresv ≠ 0 then .error .reservedBit
  else
    match opRow opc with
    | none => .error .unimplemented
    | some r =>
      let qual := if r.c then fqual else cq % 256
      let f : Fields := ⟨.d64 fu iu, false, 0, .ofCode dst, .ofCode a, .ofCode b,
        if r.c then .ofCode cq else .zero, if fu then .ofCode d else .zero, .ofCode gp gn,
        if fu then .ofCode gp2 gn2 else Guard.always, .ofNat 6 mod, .ofNat 8 qual,
        if fu then .ofNat 7 qual2 else 0, if iu then .ofNat 32 imm else 0⟩
      if r.c = false ∧ (cq / 256 ≠ 0 ∨ fqual ≠ 0) then
        (if r.opc = 0x3E1 then .error .unimplemented
         else if r.formOk f.form then .error .illegalOperand else .error .illegalForm)
      else .ok (r.instr f)

/-- The Torub-D decoder (04 R75, R76) of a word of `avail` units. -/
def decodeDense (avail w : Nat) : Except DecodeError Instr :=
  if avail < 1 then .error .truncated
  else if avail < denseUnits (w % 2 ^ 32) then .error .truncated
  else
    match unpack layoutD1 (w % 2 ^ 32) with
    | [wbit, opc, dst, a, mods] =>
      if wbit = 0 then
        ofOpc opc ⟨.d32, false, 0, .ofCode dst, .ofCode a, .zero, .zero, .zero, Guard.always, Guard.always,
          .ofNat 6 mods, 0, 0, 0⟩
      else
        let fu := mods / 2 == 1
        let iu := mods % 2 == 1
        let ext := w / 2 ^ 64
        let fieldUnit := if fu then ext % 2 ^ 32 else 0
        let imm := if iu then (if fu then ext / 2 ^ 32 % 2 ^ 32 else ext % 2 ^ 32) else 0
        match unpack layoutD2 (w / 2 ^ 32), unpack layoutDF fieldUnit with
        | [b, cq, gp, gn, mod, resv], [d, gp2, gn2, qual2, fqual, fresv] =>
          decodeTwoUnit fu iu opc dst a b cq gp gn mod resv d gp2 gn2 qual2 fqual fresv imm
        | _, _ => .error .truncated
    | _ => .error .truncated

/-- Both forms of code (04 R69). -/
def decodeWord (dense : Bool) (avail w : Nat) : Except DecodeError Instr :=
  if dense then decodeDense avail w else decodeNative avail w

/-- The units of a word, first unit first. -/
def splitUnits : Nat → Nat → List Word
  | 0, _ => []
  | n + 1, w => BitVec.ofNat 32 w :: splitUnits n (w / 2 ^ 32)

/-- The word of a list of units. -/
def joinUnits : List Word → Nat
  | [] => 0
  | u :: us => u.toNat + 2 ^ 32 * joinUnits us

/-- The decoder over units. -/
def decode (dense : Bool) (units : List Word) : Except DecodeError Instr :=
  decodeWord dense units.length (joinUnits units)

/-- The word of an instruction's fields (04 R72, R75, R76). -/
def encodeFields (r : OpRow) (f : Fields) : Nat :=
  let re := if f.re then 1 else 0
  match f.form with
  | .n64 => pack layoutN64 [0, r.opc, re, f.lat.val, f.dst.code, f.a.code, f.b.code, f.g1.p.val, f.g1.gn,
      f.mod.toNat, f.qual.toNat]
  | .n96 => pack layoutN96 [1, r.opc, re, f.lat.val, f.dst.code, f.a.code, f.b.code, f.g1.p.val, f.g1.gn,
      f.mod.toNat, f.qual.toNat, f.c.code, f.g2.p.val, f.g2.gn, f.imm.toNat]
  | .n128 => pack layoutN128 [2, r.opc, re, f.lat.val, f.dst.code, f.a.code, f.b.code, f.g1.p.val, f.g1.gn,
      f.mod.toNat, f.qual.toNat, f.c.code, f.d.code, f.g2.p.val, f.g2.gn, f.qual2.toNat, f.imm.toNat]
  | .d32 => pack layoutD1 [0, r.opc, f.dst.code, f.a.code, f.mod.toNat]
  | .d64 fu iu =>
    pack layoutD1 [1, r.opc, f.dst.code, f.a.code, (if fu then 2 else 0) + (if iu then 1 else 0)] +
    2 ^ 32 * pack layoutD2 [f.b.code, if r.c then f.c.code else f.qual.toNat, f.g1.p.val, f.g1.gn, f.mod.toNat, 0] +
    2 ^ 64 * (
      (if fu then pack layoutDF [f.d.code, f.g2.p.val, f.g2.gn, f.qual2.toNat, if r.c then f.qual.toNat else 0, 0]
       else 0) +
      (if iu then (if fu then 2 ^ 32 * f.imm.toNat else f.imm.toNat) else 0))

/-- The encoder: the units of an instruction; none for an event. -/
def encode (i : Instr) : List Word :=
  match i.parts with
  | none => []
  | some (r, f) => splitUnits (f.form.bytes / 4) (encodeFields r f)

/-- The Torub-D instruction whose bits are `w`, numbered as spec/opcode_table.json numbers them: the first unit is
bits 31..0. Bits from `nbits` up are zero. -/
def decodeTableWord (nbits w : Nat) : Option Instr :=
  match decode true (splitUnits 4 (w % 2 ^ nbits)) with
  | .ok i => some i
  | .error _ => none

/-- Byte `k` of a unit: units are stored lowest byte first (00 R9). -/
def unitByte (u : Word) (k : Nat) : Byte := u.extractLsb' (8 * k) 8

/-- The bytes of units, in address order. -/
def unitBytes : List Word → List Byte
  | [] => []
  | u :: us => unitByte u 0 :: unitByte u 1 :: unitByte u 2 :: unitByte u 3 :: unitBytes us

/-- The units of bytes in address order; a rest of fewer than four bytes is no unit. -/
def bytesUnits : List Byte → List Word
  | a :: b :: c :: d :: rest => (d ++ c ++ b ++ a : BitVec 32) :: bytesUnits rest
  | _ => []

end Sys2Proof
end

