-- ==== Sys2Proof/Machine/Num.lean ====
section
/-! DEFINITION. Machine/Num.lean: number formats, exact values and rounding (07 R128 to R138), and the exact
arithmetic that the instructions round. -/

namespace Sys2Proof.Machine

open Sys2Proof

/-- Sticky flags in the order of `sr.sat` (07 R146). -/
abbrev Flags := BitVec 7

/-- Inexact. -/
def fNX : Flags := 1
/-- Tiny and inexact. -/
def fUF : Flags := 2
/-- Overflow under overflow mode 1. -/
def fOF : Flags := 4
/-- Division by zero. -/
def fDZ : Flags := 8
/-- Invalid operation. -/
def fIV : Flags := 16
/-- Saturation of a conversion or an integer operation. -/
def fSAT : Flags := 32
/-- Saturation of an inner accumulator. -/
def fACCSAT : Flags := 64

/-- A value read from a pattern: NaN, infinity, or (−1)^neg × m × 2^e. A zero is `m = 0` and keeps its sign. -/
inductive Fp where
  | nan
  | inf (neg : Bool)
  | fin (neg : Bool) (m : Nat) (e : Int)
  deriving DecidableEq, Repr

/-- The special encodings of a format (07 R129). -/
inductive FmtKind where
  | ieee
  | e4m3
  | plain
  deriving DecidableEq, Repr

/-- A floating-point element format (07 R128). -/
structure Fmt where
  eb : Nat
  mb : Nat
  bias : Nat
  kind : FmtKind
  deriving DecidableEq, Repr

/-- FP32 (07 R128). -/
def FP32 : Fmt := ⟨8, 23, 127, .ieee⟩
/-- BF16 (07 R128). -/
def BF16 : Fmt := ⟨8, 7, 127, .ieee⟩
/-- FP16 (07 R128). -/
def FP16 : Fmt := ⟨5, 10, 15, .ieee⟩
/-- E4M3 (07 R128). -/
def E4M3 : Fmt := ⟨4, 3, 7, .e4m3⟩
/-- E5M2 (07 R128). -/
def E5M2 : Fmt := ⟨5, 2, 15, .ieee⟩
/-- E3M2 (07 R128). -/
def E3M2 : Fmt := ⟨3, 2, 3, .plain⟩
/-- E2M3 (07 R128). -/
def E2M3 : Fmt := ⟨2, 3, 1, .plain⟩
/-- E2M1 (07 R128). -/
def E2M1 : Fmt := ⟨2, 1, 1, .plain⟩

/-- N, the width of a pattern. -/
def Fmt.bits (F : Fmt) : Nat := 1 + F.eb + F.mb

/-- emin. -/
def Fmt.emin (F : Fmt) : Int := 1 - (F.bias : Int)

/-- The sign bit's weight. -/
def Fmt.signBit (F : Fmt) : Nat := 2 ^ (F.eb + F.mb)

/-- The magnitude pattern of the largest finite value (07 R129). -/
def Fmt.maxMag (F : Fmt) : Nat :=
  match F.kind with
  | .ieee => (2 ^ F.eb - 1) * 2 ^ F.mb - 1
  | .e4m3 => 2 ^ (F.eb + F.mb) - 2
  | .plain => 2 ^ (F.eb + F.mb) - 1

/-- The magnitude pattern of infinity, for a format that has one. -/
def Fmt.infMag (F : Fmt) : Nat := (2 ^ F.eb - 1) * 2 ^ F.mb

/-- The "NaN written" pattern (07 R129); for a format without NaN, +0. -/
def Fmt.nanPat (F : Fmt) : Nat :=
  match F.kind with
  | .ieee => F.infMag + 2 ^ (F.mb - 1)
  | .e4m3 => 2 ^ (F.eb + F.mb) - 1
  | .plain => 0

/-- Whether the format has an infinity. -/
def Fmt.hasInf (F : Fmt) : Bool := F.kind == .ieee

/-- Whether the format has a NaN. -/
def Fmt.hasNan (F : Fmt) : Bool := !(F.kind == .plain)

/-- A pattern with a sign. -/
def Fmt.signed (F : Fmt) (neg : Bool) (mag : Nat) : Nat := if neg then F.signBit + mag else mag

/-- The value of a pattern (07 R128, R129). -/
def Fmt.value (F : Fmt) (b : Nat) : Fp :=
  let neg := b / F.signBit % 2 == 1
  let x := b / 2 ^ F.mb % 2 ^ F.eb
  let t := b % 2 ^ F.mb
  let mag := b % F.signBit
  let finite : Fp :=
    if x = 0 then .fin neg t (1 - (F.bias : Int) - F.mb)
    else .fin neg (2 ^ F.mb + t) ((x : Int) - F.bias - F.mb)
  match F.kind with
  | .ieee => if x = 2 ^ F.eb - 1 then (if t = 0 then .inf neg else .nan) else finite
  | .e4m3 => if mag = 2 ^ (F.eb + F.mb) - 1 then .nan else finite
  | .plain => finite

/-- Rounding modes (07 R137). -/
inductive RM where
  | rne
  | rz
  | rd
  | ru
  | stoch
  deriving DecidableEq, Repr

/-- The integer m of 07 R137 for n = m / 2^k. -/
def roundMag (rm : RM) (neg : Bool) (m k rb : Nat) : Nat :=
  let fl := m / 2 ^ k
  let r := m % 2 ^ k
  match rm with
  | .rne => if 2 * r > 2 ^ k ∨ (2 * r = 2 ^ k ∧ fl % 2 = 1) then fl + 1 else fl
  | .rz => fl
  | .rd => if neg && r != 0 then fl + 1 else fl
  | .ru => if !neg && r != 0 then fl + 1 else fl
  | .stoch => (m * 2 ^ 32 + rb * 2 ^ k) / 2 ^ (k + 32)

/-- Floor(Log2(m × 2^e)) of a non-zero m. -/
def lg2 (m : Nat) (e : Int) : Int := (Nat.log2 m : Int) + e

/-- A magnitude whose exponent is so far from the format's range that only its side of every rounding boundary
matters is replaced by one near the range: the result of the rounding is the same. -/
def clampFar (lo hi : Int) (m : Nat) (e : Int) : Nat × Int :=
  if lg2 m e > hi then (1, hi + 1) else if lg2 m e < lo then (1, lo - 1) else (m, e)

/-- RoundToFormat (07 R137): the pattern and the flags. `ieee` is overflow mode 1. -/
def roundToFormat (x : Fp) (F : Fmt) (rm : RM) (ieee : Bool) (rb : Nat) : Nat × Flags :=
  match x with
  | .nan => if F.hasNan then (F.nanPat, 0) else (0, fIV)
  | .inf s =>
    if F.hasInf then (F.signed s F.infMag, 0)
    else if ieee && F.hasNan then (F.nanPat, fIV)
    else (F.signed s F.maxMag, fSAT)
  | .fin s m0 e0 =>
    if m0 = 0 then (F.signed s 0, 0)
    else
      let emax : Int := (2 ^ F.eb : Nat) - (F.bias : Int)
      let (m, e) := clampFar (F.emin - F.mb - 40) (emax + 2) m0 e0
      let ex := max (lg2 m e) F.emin
      let q := ex - F.mb
      let r := if e ≥ q then m * 2 ^ (e - q).toNat else roundMag rm s m (q - e).toNat rb
      let exact := if e ≥ q then true else m % 2 ^ (q - e).toNat == 0
      let tiny := decide (lg2 m e < F.emin)
      let flags := if exact then 0 else if tiny then fNX ||| fUF else fNX
      -- r × 2^q; the exponent field of r's pattern grows with a carry
      let mag := if r < 2 ^ F.mb then r
        else if r = 2 ^ (F.mb + 1) then (ex + 1 + F.bias).toNat * 2 ^ F.mb
        else (ex + F.bias).toNat * 2 ^ F.mb + (r - 2 ^ F.mb)
      if mag > F.maxMag then
        if !ieee || F.kind == .plain then (F.signed s F.maxMag, fSAT ||| fNX)
        else if rm == .rz || (rm == .rd && !s) || (rm == .ru && s) then (F.signed s F.maxMag, fOF ||| fNX)
        else if F.hasInf then (F.signed s F.infMag, fOF ||| fNX)
        else (F.nanPat, fOF ||| fNX)
      else (F.signed s mag, flags)

/-- RoundToInt (07 R138). -/
def roundToInt (x : Fp) (lo hi : Int) (rm : RM) (rb : Nat) : Int × Flags :=
  match x with
  | .nan => (0, fIV)
  | .inf false => (hi, fSAT)
  | .inf true => (lo, fSAT)
  | .fin s m0 e0 =>
    if m0 = 0 then (0, 0)
    else
      let (m, e) := clampFar (-40) 80 m0 e0
      let n : Nat := if e ≥ 0 then m * 2 ^ e.toNat else roundMag rm s m (-e).toNat rb
      let exact := if e ≥ 0 then true else m % 2 ^ (-e).toNat == 0
      let v : Int := if s then -(n : Int) else n
      if v > hi then (hi, fSAT) else if v < lo then (lo, fSAT) else (v, if exact then 0 else fNX)

/-- A signed mantissa over 2^e as a value; zero takes the given sign. -/
def Fp.ofInt (zneg : Bool) (m : Int) (e : Int) : Fp :=
  if m = 0 then .fin zneg 0 0 else .fin (decide (m < 0)) m.natAbs e

/-- The signed mantissa of a finite value. -/
def signedMant (s : Bool) (m : Nat) : Int := if s then -(m : Int) else m

/-- The exact sum of two finite magnitudes: mantissa and exponent. -/
def addMant (s1 : Bool) (m1 : Nat) (e1 : Int) (s2 : Bool) (m2 : Nat) (e2 : Int) : Int × Int :=
  let e := min e1 e2
  (signedMant s1 (m1 * 2 ^ (e1 - e).toNat) + signedMant s2 (m2 * 2 ^ (e2 - e).toNat), e)

/-- x + y with the special cases of 08 R167; `zneg` is the sign of an exact zero sum of other than like zeros. -/
def addFp (zneg : Bool) (x y : Fp) : Fp × Flags :=
  match x, y with
  | .nan, _ => (.nan, 0)
  | _, .nan => (.nan, 0)
  | .inf a, .inf b => if a == b then (.inf a, 0) else (.nan, fIV)
  | .inf a, _ => (.inf a, 0)
  | _, .inf b => (.inf b, 0)
  | .fin s1 m1 e1, .fin s2 m2 e2 =>
    if m1 = 0 ∧ m2 = 0 then (.fin (if s1 == s2 then s1 else zneg) 0 0, 0)
    else if m1 = 0 then (.fin s2 m2 e2, 0)
    else if m2 = 0 then (.fin s1 m1 e1, 0)
    else (Fp.ofInt zneg (addMant s1 m1 e1 s2 m2 e2).1 (addMant s1 m1 e1 s2 m2 e2).2, 0)

/-- x × y, exact, with the special cases of 08 R167. -/
def mulFp (x y : Fp) : Fp × Flags :=
  match x, y with
  | .inf a, .fin s m _ => if m = 0 then (.nan, fIV) else (.inf (a != s), 0)
  | .fin s m _, .inf a => if m = 0 then (.nan, fIV) else (.inf (a != s), 0)
  | .nan, _ => (.nan, 0)
  | _, .nan => (.nan, 0)
  | .inf a, .inf b => (.inf (a != b), 0)
  | .fin s1 m1 e1, .fin s2 m2 e2 => (.fin (s1 != s2) (m1 * m2) (e1 + e2), 0)

/-- x × y + z (08 R167): a product of zero and infinity sets IV whatever z is. -/
def fmaFp (zneg : Bool) (x y z : Fp) : Fp × Flags :=
  let (p, f) := mulFp x y
  if f ≠ 0 then (.nan, f) else addFp zneg p z

/-- −x. -/
def negFp : Fp → Fp
  | .nan => .nan
  | .inf s => .inf (!s)
  | .fin s m e => .fin (!s) m e

/-- A quotient of positive mantissas with at least 64 bits and a sticky last bit. -/
def divMant (ma : Nat) (ea : Int) (mb : Nat) (eb : Int) : Nat × Int :=
  let k := 64 + Nat.log2 mb
  let q := ma * 2 ^ k / mb
  let st := if ma * 2 ^ k % mb = 0 then 0 else 1
  (2 * q + st, ea - eb - k - 1)

/-- The integer square root below 2^bits. -/
def isqrt : Nat → Nat → Nat → Nat
  | 0, _, r => r
  | b + 1, n, r => if (r + 2 ^ b) * (r + 2 ^ b) ≤ n then isqrt b n (r + 2 ^ b) else isqrt b n r

/-- The square root of m × 2^e with at least 32 bits and a sticky last bit. -/
def sqrtMant (m : Nat) (e : Int) : Nat × Int :=
  let odd := e % 2 ≠ 0
  let m' := (if odd then 2 * m else m) * 2 ^ 64
  let e' := (if odd then e - 1 else e) - 64
  let r := isqrt (Nat.log2 m' / 2 + 1) m' 0
  (2 * r + (if r * r = m' then 0 else 1), e' / 2 - 1)

/-- 1 / sqrt(m × 2^e) with at least 32 bits and a sticky last bit. -/
def rsqrtMant (m : Nat) (e : Int) : Nat × Int :=
  let k0 := 66 + Nat.log2 m
  let k := if (-e - (k0 : Int)) % 2 = 0 then k0 else k0 + 1
  let t := 2 ^ k / m
  let r := isqrt (Nat.log2 t / 2 + 1) t 0
  (2 * r + (if m * r * r = 2 ^ k then 0 else 1), (-e - (k : Int)) / 2 - 1)

/-- Whether x < y, for values neither of which is NaN; zeros are equal. -/
def ltFp (x y : Fp) : Bool :=
  match x, y with
  | .inf a, .inf b => a && !b
  | .inf a, _ => a
  | _, .inf b => !b
  | .fin s1 m1 e1, .fin s2 m2 e2 => decide ((addMant s1 m1 e1 (!s2) m2 e2).1 < 0)
  | _, _ => false

/-- NaN. -/
def Fp.isNan : Fp → Bool
  | .nan => true
  | _ => false

/-- Whether x = y as values; false when either is NaN. -/
def eqFp (x y : Fp) : Bool := !x.isNan && !y.isNan && !ltFp x y && !ltFp y x

/-- The value of an FP32 pattern. -/
def val32 (b : Word) : Fp := FP32.value b.toNat

/-- Rn of 08 R185. -/
def rn (x : Fp) : Word := BitVec.ofNat 32 (roundToFormat x FP32 .rne true 0).1

/-- Rn(x + y) (08 R167, R185). -/
def add32 (x y : Word) : Word := rn (addFp false (val32 x) (val32 y)).1
/-- Rn(x × y). -/
def mul32 (x y : Word) : Word := rn (mulFp (val32 x) (val32 y)).1
/-- Fma of 08 R185. -/
def fma32 (x y z : Word) : Word := rn (fmaFp false (val32 x) (val32 y) (val32 z)).1
/-- Rn(x / y) of finite values, y not zero. -/
def div32 (x y : Word) : Word :=
  match val32 x, val32 y with
  | .fin s1 m1 e1, .fin s2 m2 e2 =>
    if m1 = 0 then rn (.fin (s1 != s2) 0 0)
    else rn (.fin (s1 != s2) (divMant m1 e1 m2 e2).1 (divMant m1 e1 m2 e2).2)
  | .inf s1, .fin s2 _ _ => rn (.inf (s1 != s2))
  | .fin s1 _ _, .inf s2 => rn (.fin (s1 != s2) 0 0)
  | _, _ => rn .nan

/-- `fadd` of FP32 with RNE and the flags of 08 R167, R137. -/
def faddRne (x y : Word) : Word × Flags :=
  let (v, f) := addFp false (val32 x) (val32 y)
  let (b, g) := roundToFormat v FP32 .rne true 0
  (BitVec.ofNat 32 b, f ||| g)

/-- IEEE minimum or maximum of two values (08 R168): NaN when either is, −0 below +0. -/
def minmaxFp (wantMax : Bool) (x y : Fp) : Fp :=
  if x.isNan || y.isNan then .nan
  else if ltFp x y then (if wantMax then y else x)
  else if ltFp y x then (if wantMax then x else y)
  else match x with
    | .fin true _ _ => if wantMax then y else x
    | .fin false _ _ => if wantMax then x else y
    | _ => x

/-- `fmin` and `fmax` of FP32 patterns with LEGNAN = 0 (08 R168, 13 R285). -/
def fminmax32 (wantMax : Bool) (x y : Word) : Word := rn (minmaxFp wantMax (val32 x) (val32 y))

/-- The element format of a format code (07 R128, R139); none for an integer code. -/
def fmtOfCode : Nat → Option Fmt
  | 0 => some BF16
  | 1 => some FP16
  | 2 => some E4M3
  | 3 => some E5M2
  | 4 => some E3M2
  | 5 => some E2M3
  | 6 => some E2M1
  | 7 => some E4M3
  | 8 => some E5M2
  | 9 => some E3M2
  | 10 => some E2M3
  | 11 => some E2M1
  | _ => none

/-- A two's-complement or unsigned number of the low `w` bits. -/
def intOf (signed : Bool) (w x : Nat) : Int :=
  let y := x % 2 ^ w
  if signed && w != 0 && decide (y ≥ 2 ^ (w - 1)) then (y : Int) - 2 ^ w else y

/-- The low `w` bits of an integer. -/
def bitsOf (w : Nat) (v : Int) : Nat := (v % (2 ^ w : Nat)).toNat

/-- q of 07 R136 for a BPI pattern under PLANES p. -/
def bpiQ (signed : Bool) (p b : Nat) : Int :=
  let h := intOf signed p (b % 256 / 2 ^ (8 - p))
  if p ≥ 8 then h else h * 2 ^ (8 - p) + 2 ^ (7 - p)

end Sys2Proof.Machine
end

