-- ==== Sys2Proof/Machine/Operands.lean ====
section
/-! DEFINITION. Machine/Operands.lean: registers and their side state (03), every operand form (04 R78, R79), guards
and taking part (02 R31, 04 R80), and the one write of a result (03 R51 to R57, 04 R83, R84). -/

namespace Sys2Proof.Machine

open Sys2Proof

/-- What an instruction sees while it executes: its group, team, grid and context, its row and its fields. -/
structure Env where
  g : Group
  t : Team
  gr : Grid
  ctx : Ctx
  row : OpRow
  f : Fields

/-! ### Registers -/

/-- vn of thread i (03 R49). -/
def Group.vget (g : Group) (n i : Nat) : Word := mget 0 g.v (64 * n + i)

/-- Write vn of thread i; no side state. A word written whole holds no error any more (20 R437; DEDUCED, log entry 107). -/
def Group.vset (g : Group) (n i : Nat) (w : Word) : Group :=
  { g with v := mset 0 g.v (64 * n + i) w, vbad := g.vbad.filter (fun k => k != 64 * n + i) }

/-- sn (03 R49). -/
def Group.sget (g : Group) (n : Nat) : DWord := mget 0 g.s n

/-- Write sn; no side state. -/
def Group.sset (g : Group) (n : Nat) (w : DWord) : Group := { g with s := mset 0 g.s n w }

/-- pn as a mask of `width` bits; p0 is constant true (03 R52). -/
def Group.pget (g : Group) (width n : Nat) : Mask := if n = 0 then firstMask width else mget 0 g.p n

/-- Write pn; p0 discards the write (03 R52). -/
def Group.pset (g : Group) (n : Nat) (m : Mask) : Group := if n = 0 then g else { g with p := mset 0 g.p n m }

/-- cn (03 R53). -/
def Group.cget (g : Group) (n : Nat) : Bool := g.c.getLsbD n

/-- Write cn. -/
def Group.cset (g : Group) (n : Nat) (b : Bool) : Group :=
  { g with c := if b then g.c ||| (1#8 <<< n) else g.c &&& ~~~(1#8 <<< n) }

/-- Side state of vn (03 R55). -/
def Group.vsd (g : Group) (n : Nat) : Side := mget Side.clear g.vside n

/-- Side state of sn (03 R55). -/
def Group.ssd (g : Group) (n : Nat) : Side := mget Side.clear g.sside n

/-- Set the side state of vn. -/
def Group.setVsd (g : Group) (n : Nat) (d : Side) : Group := { g with vside := mset Side.clear g.vside n d }

/-- Set the side state of sn. -/
def Group.setSsd (g : Group) (n : Nat) (d : Side) : Group := { g with sside := mset Side.clear g.sside n d }

/-- Set the tag of a quad of thread i (03 R56). -/
def Group.setVtag (g : Group) (quad i : Nat) (b : Bool) : Group :=
  { g with vtag := mset false g.vtag (64 * quad + i) b }

/-- Set the tag of a pair (03 R56). -/
def Group.setStag (g : Group) (pair : Nat) (b : Bool) : Group := { g with stag := mset false g.stag pair b }

/-- Non-exited threads. -/
def Group.live (g : Group) : Mask := maskOf (g.threads.map (fun t => !t.exited))

/-- A thread by index. -/
def Group.thread (g : Group) (i : Nat) : Option Thread := g.threads[i]?

/-- Change the threads of a mask. -/
def Group.mapThreads (g : Group) (m : Mask) (h : Thread → Thread) : Group :=
  { g with threads := (g.threads.zipIdx).map (fun (t, i) => if m.getLsbD i then h t else t) }

/-- The PC of the running subset: that of its lowest thread (15 R322). -/
def Group.pc (g : Group) : Nat :=
  match ((g.threads.zipIdx).filter (fun (_, i) => g.run.subset.getLsbD i)).head? with
  | some (t, _) => t.pc.toNat
  | none => 0

/-- The latch n. -/
def Group.latch (g : Group) (n : Nat) : Latch := g.lats.getD n Latch.empty

/-! ### Taking part -/

/-- The threads whose guard holds (04 R80). -/
def Group.guardMask (g : Group) (width : Nat) (gd : Guard) : Mask :=
  let m := g.pget width gd.p.val
  (if gd.neg then ~~~m else m) &&& firstMask width

/-- The threads that take part (02 R31). -/
def Env.part (e : Env) : Mask :=
  e.g.run.subset &&& e.g.live &&& e.g.guardMask e.gr.width e.f.g1 &&& e.g.guardMask e.gr.width e.f.g2

/-- The taking-part threads, in rising order. -/
def Env.parts (e : Env) : List Nat := maskList e.part e.gr.width

/-- Some thread takes part (04 R80). -/
def Env.any (e : Env) : Bool := e.part != 0

/-- The lowest-indexed taking-part thread. -/
def Env.first (e : Env) : Nat := e.parts.headD 0

/-- The group is converged (15 R322). -/
def Env.converged (e : Env) : Bool := (e.g.live &&& ~~~e.g.run.subset) == 0

/-- The address of the instruction. -/
def Env.pc (e : Env) : Nat := e.g.pc

/-- The address of the sequential successor. -/
def Env.nextPc (e : Env) : Nat := e.g.pc + e.f.form.bytes

/-! ### Source operands (04 R78) -/

/-- The value of a source in thread i, extended to 64 bits. -/
def Env.read (e : Env) (x : Src) (i : Nat) : DWord :=
  match x with
  | .v n => (e.g.vget n.val i).setWidth 64
  | .s n => e.g.sget n.val
  | .p n => if (e.g.pget e.gr.width n.val).getLsbD i then 1 else 0
  | .c n => if e.g.cget n.val then 1 else 0
  | .lat n => (mget (0 : Word) (e.g.latch n.val).vals i).setWidth 64
  | .zero => 0
  | .tid => BitVec.ofNat 64 i
  | .gid => BitVec.ofNat 64 e.g.gid
  | .kid => BitVec.ofNat 64 e.t.kid
  | .width => BitVec.ofNat 64 e.gr.width
  | .reserved _ => 0
  | .imm n => BitVec.ofInt 64 ((n.val : Int) - 256)

/-- Bits [31:0] of a source (03 R51). -/
def Env.read32 (e : Env) (x : Src) (i : Nat) : Word := (e.read x i).setWidth 32

/-- The label of a source (04 R78). -/
def Env.lblOf (e : Env) : Src → Label
  | .v n => (e.g.vsd n.val).lbl
  | .s n => (e.g.ssd n.val).lbl
  | .p n => mget 0 e.g.plbl n.val
  | .c n => mget 0 e.g.clbl n.val
  | .lat n => (e.g.latch n.val).lbl
  | _ => 0

/-- The taint of a source (04 R78). -/
def Env.taintOf (e : Env) : Src → Taint
  | .v n => (e.g.vsd n.val).taint
  | .s n => (e.g.ssd n.val).taint
  | .lat n => (e.g.latch n.val).taint
  | _ => 0

/-- A source register is pending (13 R273). -/
def Env.pendSrc (e : Env) : Src → Bool
  | .v n => (e.g.vsd n.val).pend
  | .s n => (e.g.ssd n.val).pend
  | _ => false

/-- Whether a source is uniform (04 R78). -/
def Env.uniform (e : Env) : Src → Bool
  | .v _ => false
  | .p _ => false
  | .tid => false
  | .lat n => (e.g.latch n.val).uniform
  | _ => true

/-- The union of the taints of sources. -/
def Env.taints (e : Env) (xs : List Src) : Taint := xs.foldl (fun a x => a ||| e.taintOf x) 0

/-- The maximum of the labels of sources. -/
def Env.lbls (e : Env) (xs : List Src) : Label := xs.foldl (fun a x => Label.max a (e.lblOf x)) 0

/-- Some v register from n on, `k` of them, is pending. -/
def Group.vPend (g : Group) (n k : Nat) : Bool := (List.range k).any (fun j => (g.vsd (n + j)).pend)

/-- Some s register from n on, `k` of them, is pending. -/
def Group.sPend (g : Group) (n k : Nat) : Bool := (List.range k).any (fun j => (g.ssd (n + j)).pend)

/-- A destination register is pending. -/
def Env.pendDst (e : Env) : Dst → Bool
  | .v n => (e.g.vsd n.val).pend
  | .s n => (e.g.ssd n.val).pend
  | _ => false

/-! ### Register shapes -/

/-- A shape of `k` registers that starts at a multiple of `k` within the allocation (02 R34, 13 R269). -/
def vShape (vregs k n : Nat) : Bool := n % k == 0 && decide (n + k ≤ vregs)

/-- A single v register named by a source is within the allocation (02 R34). -/
def srcWithin (vregs : Nat) : Src → Bool
  | .v n => decide (n.val < vregs)
  | _ => true

/-- A single v register named by a destination is within the allocation (02 R34). -/
def dstWithin (vregs : Nat) : Dst → Bool
  | .v n => decide (n.val < vregs)
  | _ => true

/-- A capability source: the first register of a quad or of a pair (03 R56). -/
def Env.capSrcOk (e : Env) : Src → Bool
  | .v n => vShape e.gr.vregs 4 n.val
  | .s n => n.val % 2 == 0
  | _ => false

/-- A capability destination (03 R56). -/
def Env.capDstOk (e : Env) : Dst → Bool
  | .v n => vShape e.gr.vregs 4 n.val
  | .s n => n.val % 2 == 0
  | _ => false

/-- The capability in a quad of thread i (03 R56). -/
def Group.capQuad (g : Group) (n i : Nat) : TCap :=
  ⟨(g.vget (n + 3) i ++ g.vget (n + 2) i ++ g.vget (n + 1) i ++ g.vget n i : BitVec 128),
   mget false g.vtag (64 * (n / 4) + i)⟩

/-- The capability in a pair (03 R56). -/
def Group.capPair (g : Group) (n : Nat) : TCap := ⟨(g.sget (n + 1) ++ g.sget n : BitVec 128), mget false g.stag (n / 2)⟩

/-- The capability of a source in thread i. -/
def Env.cap (e : Env) (x : Src) (i : Nat) : TCap :=
  match x with
  | .v n => e.g.capQuad n.val i
  | .s n => e.g.capPair n.val
  | _ => TCap.null

/-- A register of a capability source is pending. -/
def Env.capPend (e : Env) : Src → Bool
  | .v n => e.g.vPend n.val 4
  | .s n => e.g.sPend n.val 2
  | _ => false

/-- Taint of a capability source. -/
def Env.capTaint (e : Env) : Src → Taint
  | .v n => (List.range 4).foldl (fun a j => a ||| (e.g.vsd (n.val + j)).taint) 0
  | .s n => (List.range 2).foldl (fun a j => a ||| (e.g.ssd (n.val + j)).taint) 0
  | _ => 0

/-- Label of a capability source. -/
def Env.capLbl (e : Env) : Src → Label
  | .v n => (List.range 4).foldl (fun a j => Label.max a (e.g.vsd (n.val + j)).lbl) 0
  | .s n => (List.range 2).foldl (fun a j => Label.max a (e.g.ssd (n.val + j)).lbl) 0
  | _ => 0

/-- A register of a source of `k` v registers or `ks` s registers is pending. -/
def Env.shapePend (e : Env) (x : Src) (k ks : Nat) : Bool :=
  match x with
  | .v n => e.g.vPend n.val k
  | .s n => e.g.sPend n.val ks
  | _ => false

/-- Taint of a source of `k` v registers or `ks` s registers. -/
def Env.shapeTaint (e : Env) (x : Src) (k ks : Nat) : Taint :=
  match x with
  | .v n => (List.range k).foldl (fun a j => a ||| (e.g.vsd (n.val + j)).taint) 0
  | .s n => (List.range ks).foldl (fun a j => a ||| (e.g.ssd (n.val + j)).taint) 0
  | y => e.taintOf y

/-- Label of a source of `k` v registers or `ks` s registers. -/
def Env.shapeLbl (e : Env) (x : Src) (k ks : Nat) : Label :=
  match x with
  | .v n => (List.range k).foldl (fun a j => Label.max a (e.g.vsd (n.val + j)).lbl) 0
  | .s n => (List.range ks).foldl (fun a j => Label.max a (e.g.ssd (n.val + j)).lbl) 0
  | y => e.lblOf y

/-- Registers of a destination of `k` v registers or `ks` s registers are pending. -/
def Env.shapePendDst (e : Env) (x : Dst) (k ks : Nat) : Bool :=
  match x with
  | .v n => e.g.vPend n.val k
  | .s n => e.g.sPend n.val ks
  | _ => false

/-! ### The B operand (08 R149) -/

/-- The opcode takes its B operand from IMM in this form. -/
def Env.immB (e : Env) : Bool := e.f.form.hasImm && (e.row.imm == .i32 || e.row.imm == .i32h)

/-- The immediate as a 32-bit value (06 R114). -/
def Env.imm (e : Env) : Word := e.row.immValue e.f

/-- The B operand in thread i: an I32 immediate is sign-extended, an I32H one is a pattern. -/
def Env.readB (e : Env) (i : Nat) : DWord :=
  if e.immB then (if e.row.imm == .i32 then e.imm.signExtend 64 else e.imm.setWidth 64) else e.read e.f.b i

/-- The B operand, bits [31:0]. -/
def Env.readB32 (e : Env) (i : Nat) : Word := (e.readB i).setWidth 32

/-! ### Writing results -/

/-- A write of the threads of `m` is complete: every non-exited thread takes part (03 R57). -/
def Group.full (g : Group) (m : Mask) : Bool := (g.live &&& ~~~m) == 0

/-- Taint and label after a write (03 R57). -/
def Side.write (d : Side) (full : Bool) (tn : Taint) (l : Label) : Side :=
  if full then { d with taint := tn, lbl := l } else { d with taint := d.taint ||| tn, lbl := Label.max d.lbl l }

/-- Write vn in the listed threads: values, the quad's tag cleared, side state by R57 (03 R56, R57). -/
def Group.writeV (g : Group) (n : Nat) (vals : List (Nat × Word)) (tn : Taint) (l : Label) : Group :=
  if vals.isEmpty then g
  else
    let m := vals.foldl (fun (a : Mask) (p : Nat × Word) => a ||| (1#64 <<< p.1)) 0
    let g1 := vals.foldl (fun g p => (g.vset n p.1 p.2).setVtag (n / 4) p.1 false) g
    g1.setVsd n ((g1.vsd n).write (g.full m) tn l)

/-- Write sn whole, the pair's tag cleared (03 R56, R57). -/
def Group.writeS (g : Group) (n : Nat) (w : DWord) (tn : Taint) (l : Label) : Group :=
  let g1 := (g.sset n w).setStag (n / 2) false
  g1.setSsd n { g1.ssd n with taint := tn, lbl := l }

/-- Write pn in the listed threads, 1 where the value is not zero (03 R52, R57). -/
def Group.writeP (g : Group) (width n : Nat) (vals : List (Nat × Bool)) (l : Label) : Group :=
  if vals.isEmpty || n == 0 then g
  else
    let m := vals.foldl (fun (a : Mask) (p : Nat × Bool) => a ||| (1#64 <<< p.1)) 0
    let on := vals.foldl (fun (a : Mask) (p : Nat × Bool) => if p.2 then a ||| (1#64 <<< p.1) else a) 0
    let g1 := g.pset n ((g.pget width n &&& ~~~m) ||| on)
    { g1 with plbl := mmod 0 g1.plbl n (fun o => if g.full m then l else Label.max o l) }

/-- Write cn (03 R53, R57). -/
def Group.writeC (g : Group) (n : Nat) (b : Bool) (l : Label) : Group :=
  let g1 := g.cset n b
  { g1 with clbl := mset 0 g1.clbl n l }

/-- Capture into latch n (04 R83, R84). -/
def Group.capture (g : Group) (n : Nat) (vals : List (Nat × Word)) (tn : Taint) (l : Label) (unif : Bool) : Group :=
  let old := if (g.latch n).valid then g.latch n else Latch.empty
  let m := vals.foldl (fun (a : Mask) (p : Nat × Word) => a ||| (1#64 <<< p.1)) 0
  let new : Latch :=
    if vals.isEmpty then { old with valid := true, uniform := unif }
    else ⟨true, vals.foldl (fun (a : List (Nat × Word)) (p : Nat × Word) => mset 0 a p.1 p.2) old.vals,
      if g.full m then tn else old.taint ||| tn, if g.full m then l else Label.max old.lbl l, unif⟩
  { g with
    lats := lset (g.lats ++ List.replicate (3 - g.lats.length) Latch.empty) n new
    vbad := vals.foldl (fun b p => b.filter (fun k => k != 65536 + 64 * n + p.1)) g.vbad }

/-- The latch that an instruction captures into (04 R83). -/
def latchOf (f : Fields) : Option Nat :=
  match f.lat.val, f.dst with
  | 0, .lat n => some n.val
  | 1, _ => some 0
  | 2, _ => some 1
  | 3, _ => some 2
  | 5, _ => some 0
  | 6, _ => some 1
  | 7, _ => some 2
  | _, _ => none

/-- Write the results of the listed threads to DST and to the latch (03 R51 to R57, 04 R79, R83, R84). `wide` is a
64-bit result to an s register; `unif` says that the instruction is uniform. An s or c destination takes the result of the lowest
thread listed: a uniform scan, shuffle or `match.rank` has other results for the other threads, and 11 R236 does not say which is
written (DESIGN CHOICE, log entry 27). -/
def Env.writeResult (e : Env) (vals : List (Nat × DWord)) (tn : Taint) (l : Label) (wide unif : Bool) : Group :=
  let lows : List (Nat × Word) := vals.map (fun p => (p.1, p.2.setWidth 32))
  let g1 :=
    match e.f.dst with
    | .v n => e.g.writeV n.val lows tn l
    | .s n =>
      match vals with
      | [] => e.g
      | (_, w) :: _ => e.g.writeS n.val (if wide then w else (w.setWidth 32).setWidth 64) tn l
    | .p n => e.g.writeP e.gr.width n.val (lows.map (fun p => (p.1, p.2 != 0))) l
    | .c n =>
      match vals with
      | [] => e.g
      | (_, w) :: _ => e.g.writeC n.val (w.setWidth 32 != (0 : Word)) l
    | _ => e.g
  match latchOf e.f with
  | some k => g1.capture k lows tn l unif
  | none => g1

/-- Write a capability with its tag in the listed threads of a quad, or in a pair (03 R56, 17 R378). -/
def Env.writeCap (e : Env) (vals : List (Nat × TCap)) (tn : Taint) (l : Label) : Group :=
  match e.f.dst, vals with
  | _, [] => e.g
  | .v n, vs =>
    let wr (g : Group) (j : Nat) : Group :=
      g.writeV (n.val + j) (vs.map (fun p => (p.1, p.2.bits.extractLsb' (32 * j) 32))) tn l
    let g1 := (List.range 4).foldl wr e.g
    vs.foldl (fun g p => g.setVtag (n.val / 4) p.1 p.2.tag) g1
  | .s n, (_, k) :: _ =>
    ((e.g.writeS n.val (k.bits.extractLsb' 0 64) tn l).writeS (n.val + 1) (k.bits.extractLsb' 64 64) tn l).setStag
      (n.val / 2) k.tag
  | _, _ => e.g

/-! ### Format slots (07 R139) -/

/-- Format slot n of the grid. -/
def Grid.slot (g : Grid) (n : Nat) : Word := g.fmt.getD n 0
/-- FMT. -/
def slotFmt (w : Word) : Nat := (w.extractLsb' 0 4).toNat
/-- SPARSE. -/
def slotSparse (w : Word) : Nat := (w.extractLsb' 4 2).toNat
/-- PLANES. -/
def slotPlanes (w : Word) : Nat := (w.extractLsb' 6 4).toNat
/-- RND as a rounding mode. -/
def slotRm (w : Word) : RM :=
  match (w.extractLsb' 10 2).toNat with
  | 0 => .rne
  | 1 => .rz
  | 2 => .stoch
  | _ => .rd
/-- OVF. -/
def slotOvf (w : Word) : Bool := w.getLsbD 12
/-- PROMO. -/
def slotPromo (w : Word) : Nat := (w.extractLsb' 13 5).toNat

/-! ### Slabs of the matrix array (09 R196, R197) -/

/-- Kc. -/
def geoKc (c : Nat) : Nat := if c < 2 then 32 else if c = 6 ∨ c = 11 ∨ c = 13 then 128 else 64

/-- Bits of an element of A, and of B but for the BPI codes. -/
def geoW (c : Nat) : Nat :=
  if c < 2 then 16
  else if c = 4 ∨ c = 5 ∨ c = 9 ∨ c = 10 then 6
  else if c = 6 ∨ c = 11 ∨ c = 13 then 4
  else 8

/-- The code has MX scales. -/
def geoMx (c : Nat) : Bool := decide (7 ≤ c) && decide (c ≤ 11)

/-- Words of A data. -/
def geoData (c : Nat) : Nat := 5 * geoKc c * geoW c

/-- Words of the A slab with its scales (09 R197). -/
def geoWords (c : Nat) : Nat := geoData c + (if geoMx c then 160 else 0)

/-- NA, the registers of the A slab. -/
def geoNA (c width : Nat) : Nat := (geoWords c + width - 1) / width

end Sys2Proof.Machine
end

