-- ==== Sys2Proof/Machine/Flags.lean ====
section
/-! DEFINITION. Machine/Flags.lean: `sr.mode` and `sr.sat` (07 R142 to R148). -/

namespace Sys2Proof.Machine

open Sys2Proof

/-- RZAM (07 R142). -/
def Group.rzam (g : Group) : Bool := g.mode.getLsbD 0
/-- FTZ32 (07 R142). -/
def Group.ftz32 (g : Group) : Bool := g.mode.getLsbD 1
/-- DAZ32 (07 R142). -/
def Group.daz32 (g : Group) : Bool := g.mode.getLsbD 2
/-- FTZ16 (07 R142). -/
def Group.ftz16 (g : Group) : Bool := g.mode.getLsbD 3
/-- DAZ16 (07 R142). -/
def Group.daz16 (g : Group) : Bool := g.mode.getLsbD 4
/-- LEGNAN (07 R142). -/
def Group.legnan (g : Group) : Bool := g.mode.getLsbD 5
/-- SATARM (07 R142). -/
def Group.satarm (g : Group) : Bool := g.mode.getLsbD 6
/-- FPTEN as flags: bits 7 to 11 in the order of `sr.sat` [4:0] (07 R142). -/
def Group.fpten (g : Group) : Flags := (g.mode.extractLsb' 7 5).setWidth 7

/-- OR flags into `sr.sat`; its label rises to the result's when a flag is set (03 R59, 07 R147). -/
def Group.orFlags (g : Group) (fl : Flags) (l : Label) : Group :=
  if fl = 0 then g
  else { g with sat := g.sat ||| fl.setWidth 32, srlbl := mmod 0 g.srlbl 1 (fun o => Label.max o l) }

/-- The bar instructions raise SAT_TRAP (07 R148): SATARM and SAT. -/
def Group.satTrap (g : Group) : Bool := g.satarm && g.sat.getLsbD 5

/-- A value read under DAZ: a subnormal is the zero of its sign (07 R144). -/
def dazFp (on : Bool) (F : Fmt) (x : Fp) : Fp :=
  match x with
  | .fin s m e => if on && m != 0 && decide (lg2 m e < F.emin) then .fin s 0 0 else .fin s m e
  | y => y

/-- A pattern under DAZ, every bit kept otherwise (07 R144). -/
def dazPat (on : Bool) (F : Fmt) (b : Nat) : Nat :=
  if on && b / 2 ^ F.mb % 2 ^ F.eb == 0 then b / F.signBit % 2 * F.signBit else b

/-- Round under FTZ: a non-zero exact value below 2^emin is flushed, with {UF, NX} in place of R137's flags (07
R144). -/
def roundFtz (ftz : Bool) (x : Fp) (F : Fmt) (rm : RM) (rb : Nat) : Nat × Flags :=
  match x with
  | .fin s m e =>
    if ftz && m != 0 && decide (lg2 m e < F.emin) then (F.signed s 0, fUF ||| fNX)
    else roundToFormat (.fin s m e) F rm true rb
  | y => roundToFormat y F rm true rb

/-- A result pattern that only moves bits, under FTZ (08 R166). -/
def ftzPat (on : Bool) (F : Fmt) (b : Nat) : Nat × Flags :=
  if on && b / 2 ^ F.mb % 2 ^ F.eb == 0 && b % 2 ^ F.mb != 0 then (b / F.signBit % 2 * F.signBit, fUF ||| fNX)
  else (b, 0)

end Sys2Proof.Machine
end

