-- ==== Sys2Proof/Machine/Ops.lean ====
section
/-! DEFINITION. Machine/Ops.lean: the named operations of the machine on its groups and teams: finding and writing
them, time, taking a fault (19 R420 to R425) and returning from a handler (R430), the end of a run (15 R333, R336),
and the issue of an instruction with the decode checks of 04 R85. -/

namespace Sys2Proof.Machine

open Sys2Proof

/-! ### Finding and writing the parts of the state -/

/-- Key of a group: 32 team + gid. -/
def gkey (team gid : Nat) : Nat := 32 * team + gid

/-- A group. -/
def State.group? (s : State) (team gid : Nat) : Option Group := mfind s.groups (gkey team gid)
/-- Write a group back. -/
def State.setGroup (s : State) (g : Group) : State := { s with groups := mput s.groups (gkey g.team g.gid) g }
/-- A team. -/
def State.team? (s : State) (id : Nat) : Option Team := mfind s.teams id
/-- Write a team back. -/
def State.setTeam (s : State) (t : Team) : State := { s with teams := mput s.teams t.id t }
/-- A grid. -/
def State.grid? (s : State) (id : Nat) : Option Grid := mfind s.grids id
/-- Write a grid back. -/
def State.setGrid (s : State) (g : Grid) : State := { s with grids := mput s.grids g.id g }
/-- A context by colour. -/
def State.ctx? (s : State) (colour : Nat) : Option Ctx := mfind s.ctxs colour
/-- Write a context back. -/
def State.setCtx (s : State) (c : Ctx) : State := { s with ctxs := mput s.ctxs c.colour c }
/-- A function; one that nothing has written is as after reset. -/
def State.fn (s : State) (n : Nat) : Fn := mget Fn.reset s.fns n
/-- Write a function back. -/
def State.setFn (s : State) (n : Nat) (f : Fn) : State := { s with fns := mset Fn.reset s.fns n f }
/-- Change a group, if it exists. -/
def State.modGroup (s : State) (team gid : Nat) (h : Group → Group) : State :=
  match s.group? team gid with
  | some g => s.setGroup (h g)
  | none => s
/-- Change a team, if it exists. -/
def State.modTeam (s : State) (id : Nat) (h : Team → Team) : State :=
  match s.team? id with
  | some t => s.setTeam (h t)
  | none => s
/-- Change every group of a team. -/
def State.modGroups (s : State) (team : Nat) (h : Group → Group) : State :=
  { s with groups := mmap (fun g => if g.team = team then h g else g) s.groups }
/-- The groups of a team, in rising gid. -/
def State.teamGroups (s : State) (team : Nat) : List Group :=
  (s.groups.map (·.2)).filter (fun g => g.team = team)
/-- The resources of a team on a core. -/
def Team.core? (t : Team) (core : Nat) : Option CoreRes := t.cores.find? (fun c => c.core == core)
/-- Write the resources of one core back. -/
def Team.setCore (t : Team) (r : CoreRes) : Team :=
  { t with cores := t.cores.map (fun c => if c.core = r.core then r else c) }
/-- Take a new identity. -/
def State.fresh (s : State) : Nat × State := (s.nextId, { s with nextId := s.nextId + 1 })
/-- Clusters per compute die (01 R13). -/
def State.cl (s : State) : Nat := if s.part.grade576 then 6 else 7
/-- The compute die of a core (01 R14). -/
def State.dieOfCore (s : State) (core : Nat) : Nat := core / (s.cl * 12)
/-- The home die of a device address (01 R23). -/
def State.homeDie (s : State) (a : Nat) : Nat := if s.part.numa then a / 2 ^ 36 % 8 else a / 2 ^ 12 % 8
/-- The offset of a device address in the stack of its home die (01 R23). -/
def State.stackOffset (s : State) (a : Nat) : Nat := if s.part.numa then a % 2 ^ 36 else a / 2 ^ 15 % 2 ^ 24 * 4096 + a % 4096
/-- The home cluster of a device address (13 R282). -/
def State.homeCluster (s : State) (a : Nat) : Nat := s.homeDie a * s.cl + a / 128 % s.cl

/-- A group, its team, grid and context are stored under their own identities. -/
def named (team gid : Nat) (g : Group) (t : Team) (gr : Grid) (c : Ctx) : Bool :=
  g.team == team && g.gid == gid && t.id == team && gr.id == t.grid && c.colour == gr.colour

/-- The environment of the current group, when it is running. -/
def State.env? (s : State) (row : OpRow) (f : Fields) : Option Env :=
  match s.cur with
  | none => none
  | some (team, gid) =>
    match s.group? team gid, s.team? team with
    | some g, some t =>
      match s.grid? t.grid with
      | some gr =>
        match s.ctx? gr.colour with
        | some c =>
          if g.status == .running && named team gid g t gr c then some ⟨g, t, gr, c, row, f⟩ else none
        | none => none
      | none => none
    | _, _ => none

/-! ### Time -/

/-- n cycles pass for a thread (16 R358): DLEFT falls, and demotion ends at 0. -/
def Thread.tick (n : Nat) (t : Thread) : Thread :=
  if t.dleft = 0 then t else { t with dleft := t.dleft - n, demoted := t.demoted && decide (n < t.dleft) }

/-- n cycles pass (16 R358, R362). Threads of teams that are not ADMITTED keep their DLEFT; a team that is being saved is
ADMITTED until it is SAVED (02 R47). -/
def State.tick (s : State) (n : Nat) : State :=
  { s with
    clk := s.clk + n
    groups := mmap (fun g =>
      if g.threads.any (fun t => t.dleft != 0) &&
          ((mfind s.teams g.team).map (fun t => t.status == .admitted || t.status == .saving)).getD false then
        { g with threads := g.threads.map (Thread.tick n) }
      else g) s.groups }

/-! ### Snapshot trigger (20 R440, R441) -/

/-- Send an answer or a message. -/
def State.reply (s : State) (r : Reply) : State := { s with replies := s.replies ++ [r] }

/-- The port of a member carries group traffic: its peer's certificate hash is the member's table entry (18 R415). -/
def State.portOk (s : State) (dg : DevGroup) (member : Nat) : Bool :=
  match dg.hashes[member]? with
  | some h => mfind s.certs member == some h
  | none => false

/-- The nonce of a message from member `src` to member `dst` with a counter (18 R415). -/
def groupNonce (src dst ctr : Nat) : List Byte :=
  [BitVec.ofNat 8 src, BitVec.ofNat 8 dst, 0, 0] ++ bytesOfNat 8 ctr

/-- The key of a direction (18 R415): HKDF-SHA-384 over the group key with the text "Borzil group dir" and the two members. -/
def DevGroup.dirKey (dg : DevGroup) (src dst : Nat) : List Byte :=
  Config.hkdf dg.key ([0x42, 0x6F, 0x72, 0x7A, 0x69, 0x6C, 0x20, 0x67, 0x72, 0x6F, 0x75, 0x70, 0x20, 0x64, 0x69, 0x72] ++
    [BitVec.ofNat 8 src, BitVec.ofNat 8 dst]) 32

/-- FWD of 20 R441: a trigger message goes to every member of the device group whose port carries traffic, sealed under the key and
the next counter of its direction (18 R415); one whose counter is exhausted gets none. -/
def State.forwardSnap (s : State) : State :=
  match s.devgroup with
  | none => s
  | some dg =>
    let to_ := (List.range dg.hashes.length).filter (fun r =>
      r != dg.own && s.portOk dg r && decide (mget 1 dg.sendCtr r < 2 ^ 64))
    { s with
      devgroup := some { dg with sendCtr := to_.foldl (fun m r => mput m r (mget 1 m r + 1)) dg.sendCtr }
      replies := s.replies ++ to_.map (fun r =>
        let n := groupNonce dg.own r (mget 1 dg.sendCtr r)
        Reply.trigger r n (Config.gcmTag (dg.dirKey dg.own r) n [])) }

/-- A source of the snapshot trigger occurs. `bit` is its SARM bit; the header takes CODE, FN and TAG from the first. The blocks
latch 64 cycles after the source; a member whose source is a trigger message latches at its arrival, and does not forward it. -/
def State.snapSource (s : State) (bit : Nat) (code : Byte) (fn : Nat) (tag : Word) : State :=
  let b := s.snapb
  if !b.sarm.getLsbD bit then s
  else if b.sstat = 1 then
    let s1 := if b.sarm.getLsbD 4 && bit != 3 then s.forwardSnap else s
    { s1 with snapb := { b with
        sstat := 2, tclk := if bit = 3 then s.clk else s.clk + 64, srcmask := (1#8 <<< bit), code := code, fn := fn
        tag := tag } }
  else if b.sstat = 2 ∧ s.clk < b.tclk then { s with snapb := { b with srcmask := b.srcmask ||| (1#8 <<< bit) } }
  else { s with snapb := { b with smiss := if b.smiss = BitVec.allOnes 32 then b.smiss else b.smiss + 1 } }

/-- A fault is raised: the FAULT source, when its code is the one selected (20 R440). -/
def State.snapFault (s : State) (code : Byte) (fn : Nat) : State :=
  if s.snapb.scode = 0 ∨ s.snapb.scode = code then s.snapSource 1 code fn (code.setWidth 32) else s

/-! ### The end of a run -/

/-- Meeting test for one value (15 R333): when every non-exited thread that holds it is HELD, all are released. -/
def meetTest (m : BitVec 56) (ts : List Thread) : List Thread :=
  if ts.all (fun t => t.exited || !(t.meet == m) || t.held) then
    ts.map (fun t => if !t.exited && t.meet == m && t.held then { t with held := false, since := 0 } else t)
  else ts

/-- Meeting tests for several values. -/
def meetTests (ms : List (BitVec 56)) (ts : List Thread) : List Thread := ms.foldl (fun ts m => meetTest m ts) ts

/-- When every non-exited thread is HELD, the test is made for every value (15 R333). -/
def meetAll (ts : List Thread) : List Thread :=
  if ts.all (fun t => t.exited || t.held) then meetTests (ts.map (·.meet)) ts else ts

/-- Arrival at the end of a run at its run-end flag (15 R333). -/
def arrive (subset : Mask) (ts : List Thread) : List Thread :=
  let at_ (p : Thread × Nat) : Bool := subset.getLsbD p.2 && !p.1.exited && p.1.pc == p.1.meet
  let ts' := ts.zipIdx.map (fun p => if at_ p then { p.1 with held := true, since := 0 } else p.1)
  let ms := (ts.zipIdx.filter at_).map (fun p => p.1.meet)
  meetAll (meetTests ms ts')

/-- SINCE after a run of a subset (15 R336). -/
def sinceUpdate (subset : Mask) (ts : List Thread) : List Thread :=
  ts.zipIdx.map (fun p =>
    if p.1.exited then p.1
    else if subset.getLsbD p.2 then { p.1 with since := 0 }
    else if p.1.held then p.1
    else { p.1 with since := min 255 (p.1.since + 1) })

/-- A debug stop (16 R363, R364; 19 R420 rule 3): STOPPED with code 0, the frame unchanged. -/
def Group.debugHalt (g : Group) : Group :=
  { g with status := .stopped, wait := .none, waitAt := none, stall := false, aged := false,
           stopCode := 0, debugStop := true, haltAtEnd := false }

/-- A group enters a state with its recorded condition; READY starts its wait (16 R353), or is a debug stop when one is
asked for (16 R363, R364). -/
def Group.enter (g : Group) (clk : Nat) (st : GStatus) (w : Wait) : Group :=
  if st = .ready ∧ g.haltAtEnd then g.debugHalt
  else
    { g with status := st, wait := w, waitAt := none, stall := false,
             readySince := if st = .ready then clk else g.readySince, aged := false }

/-- The end of a run at its run-end flag: SINCE (unless a handler runs), arrival and release, latches lost (15 R333,
R336; 03 R58; 19 R424), and a debug stop that waits for it (16 R363, R364). `keepSince` is the run that ends at
`rfe`; the run that continues the faulting one is kept (19 R430). -/
def Group.endRun (g : Group) (clk : Nat) (keepSince : Bool) (st : GStatus) (w : Wait) : Group :=
  let ts := if g.frame.active || keepSince then g.threads else sinceUpdate g.run.subset g.threads
  let g1 : Group := { g with threads := arrive g.run.subset ts, lats := [], cont := if keepSince then 0 else g.cont, run :=
    if keepSince && g.run.resumed then { Run.idle with subset := g.run.subset, count := g.cont, resumed := true }
    else Run.idle }
  if g1.live == 0 then { g1.enter clk .exited .none with loads := [] }
  else { g1 with haltAtEnd := g1.haltAtEnd || g.run.stepped }.enter clk st w

/-- A run stops before its end (04 R84): latches invalid, the subset and its position kept. -/
def Group.stopRun (g : Group) (clk : Nat) (st : GStatus) (w : Wait) : Group :=
  { g.enter clk st w with lats := [], run := { g.run with resumed := true } }

/-! ### Taking a fault -/

/-- What a fault reports (19 R419, R421). -/
structure Exc where
  code : Byte
  fthread : Option Nat := none
  faddr : Nat := 0
  aux : DWord := 0
  xflags : Flags := 0
  lpc : Nat := 0
  /-- RPC is FPC + length: SOFTWARE and `brk` (19 R421). -/
  rpcAfter : Bool := false
  deriving DecidableEq, Repr

/-- A guard as a frame byte. -/
def guardByte (g : Guard) : Byte := BitVec.ofNat 8 (g.p.val + 16 * g.gn)

/-- The frame fields of a decoded instruction (19 R421). For UNIMPL every field position is decoded as if the opcode
read SRCC, so a Torub-D SRCC holds the QUAL bits and QUAL those of the field unit. -/
def Env.frameWord (e : Env) (unimpl : Bool) : FrameWord :=
  let asC := unimpl && !e.row.c && (match e.f.form with | .d64 _ _ => true | _ => false)
  { form := BitVec.ofNat 8 (e.f.form.bytes + (if e.f.form.isDense then 128 else 0))
    opc := BitVec.ofNat 16 e.row.opc
    words := splitUnits (e.f.form.bytes / 4) (encodeFields e.row e.f)
    ops := [BitVec.ofNat 16 e.f.dst.code, BitVec.ofNat 16 e.f.a.code, BitVec.ofNat 16 e.f.b.code,
      if asC then BitVec.ofNat 16 e.f.qual.toNat else BitVec.ofNat 16 e.f.c.code, BitVec.ofNat 16 e.f.d.code]
    mods := [e.f.mod.setWidth 8, if asC then 0 else e.f.qual, e.f.qual2.setWidth 8]
    guards := [guardByte e.f.g1, guardByte e.f.g2]
    imm := e.f.imm
    amask := e.g.run.subset &&& e.g.guardMask e.gr.width e.f.g1 &&& e.g.guardMask e.gr.width e.f.g2
    length := e.f.form.bytes }

/-- The frame of a fault (19 R421). -/
def mkFrame (g : Group) (w : FrameWord) (x : Exc) : Frame :=
  { code := x.code
    active := false
    nested := false
    xflags := x.xflags
    fthread := match x.fthread with | some i => BitVec.ofNat 8 i | none => 0xFF
    form := w.form
    opc := w.opc
    fpc := BitVec.ofNat 64 g.pc
    rpc := BitVec.ofNat 64 (if x.rpcAfter then g.pc + w.length else g.pc)
    faddr := BitVec.ofNat 64 x.faddr
    lpc := BitVec.ofNat 64 x.lpc
    subset := g.run.subset
    amask := w.amask
    aux := x.aux
    words := w.words
    ops := w.ops
    mods := w.mods
    guards := w.guards
    imm := w.imm
    kcode := TCap.null }

/-- The target alignment of a code form (04 R73, R77). -/
def targetAlign (native : Bool) : Nat := if native then 8 else 4

/-- The trap vector can take a fault (19 R423). -/
def vectorOk (c : Ctx) (native : Bool) (k : TCap) : Bool :=
  k.tag && k.kind == 1 && (k.otype == 0 || k.otype == 63) && k.has pEXEC && c.permits k.col &&
  k.addr % targetAlign native == 0 && k.inBounds k.addr 1

/-- Place a record in a function's fault ring (19 R431); it is written when the ring has room. -/
def State.faultRecord (s : State) (fn : Nat) (r : FaultRec) : State :=
  s.setFn fn { s.fn fn with pendingRecs := (s.fn fn).pendingRecs ++ [r] }

/-- The group stops with a fault (19 R420 rule 5, R425): STOPPED, and a record in the fault ring. -/
def State.stopGroup (s : State) (g : Group) (gr : Grid) (t : Team) (fn : Nat) (fr : Frame) (nested : Bool) : State :=
  let g1 : Group := { g.stopRun s.clk .stopped .none with stopCode := fr.code, debugStop := false, haltAtEnd := false }
  (s.setGroup g1).faultRecord fn
    { tag := gr.tag, kid := t.kid, core := g.core, gid := g.gid, code := fr.code, fpc := fr.fpc, faddr := fr.faddr,
      aux := fr.aux, subset := fr.subset, colour := gr.colour, nested := nested, teamterm := false, team := t.id }

/-- A grid terminates, with a code and the lowest `kid` so far. -/
def Grid.terminated (gr : Grid) (code : Byte) (kid : Nat) : Grid :=
  { gr with term := match gr.term with
      | some (c, k) => some (c, min k kid)
      | none => some (code, kid) }

/-- A fault of a group that terminates its team (19 R420 rule 1): no frame, a record with TEAMTERM; the team retires when no group of
it is in a run. -/
def State.stopTeam (s : State) (g : Group) (gr : Grid) (t : Team) (fn : Nat) (fr : Frame) : State :=
  let s1 := (s.setGroup (g.stopRun s.clk .ready .none)).setTeam { t with term := some (t.term.getD fr.code) }
  (s1.setGrid (gr.terminated fr.code t.kid)).faultRecord fn
    { tag := gr.tag, kid := t.kid, core := g.core, gid := g.gid, code := fr.code, fpc := fr.fpc, faddr := fr.faddr,
      aux := fr.aux, subset := fr.subset, colour := gr.colour, nested := false, teamterm := true, team := t.id }

/-- Delivery to the in-group handler (19 R424). -/
def Group.deliver (g : Group) (clk : Nat) (fr : Frame) : Group :=
  let vec := g.capPair 62
  let g1 : Group := { g with
    frame := { fr with active := true, kcode := g.kcode }
    kcode := vec.withOtype 0
    cont := g.run.count
    lats := [] }
  let g2 := g1.mapThreads g.run.subset (fun t => { t with pc := BitVec.ofNat 56 vec.addr })
  { g2.enter clk .ready .none with run := Run.idle }

/-- A debug stop is asked of a group: at once when it is READY, else when its run or its wait has ended. -/
def Group.askHalt (g : Group) : Group :=
  match g.status with
  | .ready => g.debugHalt
  | .stopped => g
  | .exited => g
  | _ => { g with haltAtEnd := true }

/-- The other groups of a team stop with a breakpoint when TEAMSTOP is set (16 R363). -/
def State.teamstop (s : State) (c : Ctx) (team gid : Nat) : State :=
  if c.teamstop then s.modGroups team (fun g => if g.gid = gid then g else g.askHalt) else s

/-- TAKING A FAULT: the disposition of 19 R420, R423, R424 and R425 for the fault `x` of the group `g` at the
instruction whose frame fields are `w`. -/
def takeFault (s0 : State) (g : Group) (t : Team) (gr : Grid) (c : Ctx) (w : FrameWord) (x : Exc) : State :=
  let s := s0.snapFault x.code c.fn
  let fr := mkFrame g w x
  if x.code = cSESSION then s.stopTeam g gr t c.fn fr
  else if x.code = cHPAGE then
    s.setGroup { g.stopRun s.clk .replayable (.page x.faddr (w.opc == 0x241 || w.opc == 0x245 || w.opc == 0x313)) with stopCode := cHPAGE }
  else if x.code = cBREAK then
    let g1 := g.mapThreads g.run.subset (fun t => { t with pc := BitVec.setWidth 56 fr.rpc })
    (s.setGroup { g1.stopRun s.clk .stopped .none with
      stopCode := cBREAK, debugStop := true, haltAtEnd := false,
      skipAt := if x.rpcAfter then none else some (BitVec.ofNat 56 g.pc),
      frame := if g.frame.active then g.frame else fr }).teamstop c g.team g.gid
  else if g.frame.active then
    s.stopGroup { g with frame := { g.frame with nested := true } } gr t c.fn fr true
  else if handlerCode x.code && g.run.subset != 0 && vectorOk c gr.native (g.capPair 62) then
    let g1 := g.deliver s.clk fr
    s.setGroup (if g.run.stepped then { g1.debugHalt with stopCode := x.code } else g1)
  else s.stopGroup { g with frame := fr } gr t c.fn fr false

/-- Take a fault at the instruction of an environment. -/
def Env.take (e : Env) (s : State) (x : Exc) : State :=
  takeFault s e.g e.t e.gr e.ctx (e.frameWord (x.code == cUNIMPL)) x

/-! ### Barriers and exit -/

/-- Complete barrier N of a team (15 R340; 16 R358: demotion ends at a barrier's completion). -/
def State.barComplete (s : State) (team n : Nat) : State :=
  let s1 := s.modTeam team (fun t =>
    { t with bars := mmod Barrier.zero t.bars n (fun b => ⟨b.phase + 1, 0⟩) })
  s1.modGroups team (fun g =>
    let g1 : Group := { g with threads := g.threads.map (fun t => { t with demoted := false, dleft := 0 }) }
    match g1.status, g1.wait with
    | .barrier, .bar m _ => if m = n then g1.enter s.clk .ready .none else g1
    | _, _ => g1)

/-- Live of 15 R340: the gids of the team's groups that are not EXITED. -/
def State.liveGids (s : State) (team : Nat) : BitVec 32 :=
  (s.teamGroups team).foldl (fun a g => if g.status = .exited then a else a ||| (1#32 <<< g.gid)) 0

/-- After a group has exited, complete every barrier that has arrivals and contains Live (15 R340). -/
def State.barExit (s : State) (team : Nat) : State :=
  match s.team? team with
  | none => s
  | some t =>
    t.bars.foldl (fun s p =>
      if p.2.arrived != 0 && (s.liveGids team &&& ~~~p.2.arrived) == 0 then s.barComplete team p.1 else s) s

/-- A group has become EXITED (15 R337, R340; 02 R47): barriers, commands it will never wait for, and DRAINING when it
was the team's last, whose undecided commands are then DISCARDED (14 R321). -/
def State.groupExit (s : State) (team gid : Nat) : State :=
  let s1 := s.barExit team
  let gone (c : Cmd) : Bool := c.team == team && c.gid == gid
  let s2 := { s1 with
    cmds := mmap (fun c => if gone c then { c with waited := true } else c)
      (s1.cmds.filter (fun p => !(gone p.2 && (match p.2.state with | .done _ _ => true | _ => false)))) }
  if (s2.teamGroups team).all (fun g => g.status == .exited) then
    let s3 := s2.modTeam team (fun t => if t.status = .admitted then { t with status := .draining } else t)
    { s3 with cmds := mmap (fun c =>
        if c.team = team ∧ c.decided.isNone then { c with decided := some false } else c) s3.cmds }
  else s2

/-! ### Issue -/

/-- How an instruction ends. -/
inductive Out where
  /-- It has committed, and execution goes on at A + L. -/
  | next (s : State)
  /-- It has committed and has written the PCs of its subset; the target when a transfer was taken. -/
  | jump (s : State) (target : Option Nat)
  /-- Its run ends with the group in a state, past the instruction. -/
  | suspend (s : State) (st : GStatus) (w : Wait)
  /-- Its run ends with the group in a state, at the instruction. -/
  | suspendHere (s : State) (st : GStatus) (w : Wait)
  /-- Its run stops before it (04 R84). -/
  | stop (s : State) (st : GStatus) (w : Wait)
  /-- It waits at issue. -/
  | stall (s : State)
  /-- It raises a fault. -/
  | exc (x : Exc)
  /-- It raises a fault after a side that the spec says stays: a deferred fault is consumed (19 R420). -/
  | excIn (s : State) (x : Exc)
  /-- Its access reached an unpopulated address. -/
  | bad (r : Fault)

/-- A fault with a code alone. -/
def Out.fail (c : Byte) : Out := .exc { code := c }

/-- A capture is asked for (04 R83). -/
def asksCapture (f : Fields) : Bool := f.lat != 0 || (match f.dst with | .lat _ => true | _ => false)

/-- A source the opcode reads. -/
def usedSrcs (r : OpRow) (f : Fields) : List Src :=
  (if r.a then [f.a] else []) ++ (if r.b then [f.b] else []) ++ (if r.c then [f.c] else []) ++
  (if r.d then [f.d] else [])

/-- A used source names a latch that is not valid (04 R84). SRCB counts even where its operand is IMM and the field should be 475: 08
R149 does not say whether the field then names a source, for step 8 of 04 R85, or is only wrong, for step 9 (DESIGN CHOICE, log entry
125). -/
def Env.badLatch (e : Env) : Bool :=
  (usedSrcs e.row e.f).any (fun x => match x with | .lat n => !(e.g.latch n.val).valid | _ => false)

/-- A meeting address other than at the run's first instruction (04 R81). -/
def Env.meetInside (e : Env) : Bool :=
  e.g.run.count != 0 &&
  (maskList e.g.run.subset e.gr.width).any (fun i =>
    match e.g.thread i with | some t => t.meet.toNat == e.g.pc | none => false)

/-- Decode steps 6 to 9 (04 R85). `cap` says that the instruction's description permits a capture. -/
def Env.decodeCheck (e : Env) (cap : Bool) : Option Byte :=
  let dense := e.f.form.isDense
  if !e.row.formOk e.f.form then some cILFORM
  else if !dense && ((runEndDuty e.row e.f.mod && !e.f.re) || decide (e.g.run.count ≥ 24) || e.meetInside) then
    some cILRUN
  else if !dense && (!latOk e.f.lat e.f.dst || (asksCapture e.f && !cap) || e.badLatch) then some cILLATCH
  else if !e.f.clean e.row then some cILOPER
  else if !(srcWithin e.gr.vregs e.f.a && srcWithin e.gr.vregs e.f.b && srcWithin e.gr.vregs e.f.c &&
      srcWithin e.gr.vregs e.f.d && dstWithin e.gr.vregs e.f.dst) then some cILOPER
  else none

/-- Cost of 02 R31 for a set of threads: the most that one of the 16 lanes serves, at least 1. -/
def laneCost (m : Mask) : Nat :=
  max 1 ((List.range 16).foldl (fun a l =>
    max a ([l, l + 16, l + 32, l + 48].foldl (fun n i => if m.getLsbD i then n + 1 else n) 0)) 0)

/-- The v registers from the one a source names, `k` of them. -/
def vRegsOf (x : Src) (k : Nat) : List Nat :=
  match x with
  | .v n => (List.range k).map (fun j => n.val + j)
  | _ => []

/-- How many v registers a source operand of an opcode reads (03 R50, R56; 13 R269; 15 R324): the quad of a capability, the
registers of a store's SIZE, the even pair of a 64-bit control operand, else one. A, B, C, D in this order. -/
def srcWidths (o size : Nat) : List Nat :=
  let data := if size == 4 then 4 else if size == 3 then 2 else 1
  if o == 0x004 || o == 0x007 then [2, 1, 1, 1]
  else if [0x240, 0x242, 0x244, 0x248, 0x249, 0x24A, 0x25A, 0x2C0, 0x2C1, 0x2C2, 0x2C3, 0x2C4, 0x2C8].contains o then
    [4, 1, 1, 1]
  else if [0x241, 0x243].contains o then [4, 1, data, 1]
  else if o == 0x245 then [4, 1, 4, 1]
  else if [0x2C5, 0x2C6, 0x2C9].contains o then [4, 4, 1, 1]
  else if o == 0x2D2 && size % 4 == 1 then [4, 1, 1, 1]
  else [1, 1, 1, 1]

/-- The bank penalty of 03 R50 for the v registers that are read. -/
def bankPenalty (xs : List Nat) : Nat :=
  let vs := xs.eraseDups
  [0, 1, 2, 3].foldl (fun a b => max a ((vs.filter (fun n => n % 4 == b)).length - 1)) 0

/-- An instruction is uniform (02 R31): its destination and all its sources are. The test is made on the operands alone: an
`rng` of uniform operands whose only destination is a latch counts as uniform, although its value depends on `tid`, and so does
the latch that it captures (02 R31 and 04 R84 against 03 R51: DEDUCED, log entry 102). -/
def Env.isUniform (e : Env) : Bool :=
  (usedSrcs e.row e.f).all e.uniform &&
  (match e.f.dst with | .v _ => false | .p _ => false | _ => true)

/-- Issue multiplier and extra cycles (08 R152, 11 R237). -/
def Env.costMul (e : Env) : Nat × Nat :=
  let o := e.row.opc
  if o == 0x048 || o == 0x049 then (8, 0)
  else if o == 0x1C0 || o == 0x1C1 || o == 0x1C2 then (2, 0)
  else if o == 0x1C3 || o == 0x1C4 || o == 0x1C5 || o == 0x1C6 || o == 0x1C7 || o == 0x1C8 then (4, 0)
  else if o == 0x1C9 then (1, 8)
  else if o == 0x201 || o == 0x205 then (1, 2)
  else if o == 0x202 || o == 0x203 then (1, 2 * Nat.log2 e.g.psize.toNat)
  else (1, 0)

/-- The cycles of `mrd` and `mwr` (09 R212) and `vread` (10 R229), when a thread takes part. -/
def Env.bandCost (e : Env) : Option Nat :=
  if !e.any then none
  else if e.row.opc == 0x302 || e.row.opc == 0x303 then some 128
  else if e.row.opc == 0x313 then
    match (e.read32 e.f.a e.first).toNat / 256 % 16 with
    | 0 => some 16
    | 1 => some 64
    | _ => some ((10304 + 1280 * (mget SWord.none e.t.streams (e.f.qual.toNat % 16)).k + 127) / 128)
  else none

/-- The registers of the slab that an array operation reads at its issue: the A slab of `mma` (09 R197), the exponents of `mscale`
(R211), the labels of `vinit` (10 R225). -/
def Env.slabRegs (e : Env) : Option Nat :=
  let words (n : Nat) : Nat := (n + e.gr.width - 1) / e.gr.width
  if e.row.opc == 0x300 then some (geoNA (slotFmt (e.gr.slot (e.f.qual.extractLsb' 4 3).toNat)) e.gr.width)
  else if e.row.opc == 0x304 then some (words 160)
  else if e.row.opc == 0x310 then some (words 640)
  else none

/-- The v registers that the sources of an instruction read from the register file (03 R50). -/
def Env.vRead (e : Env) : List Nat :=
  let ws := srcWidths e.row.opc (e.f.mod.extractLsb' 0 3).toNat
  let ws := match e.slabRegs with | some k => k :: ws.drop 1 | none => ws
  let go (used : Bool) (x : Src) (j : Nat) : List Nat := if used then vRegsOf x (ws.getD j 1) else []
  go e.row.a e.f.a 0 ++ go (e.row.b && !e.immB) e.f.b 1 ++ go e.row.c e.f.c 2 ++ go e.row.d e.f.d 3

/-- The cycles an instruction occupies the issue path (02 R31, 03 R50 and R60, 04 R87, 08 R152, 09 R212, 10 R229, 11 R237, 15
R323, 16 R362). -/
def Env.cost (e : Env) : Nat :=
  let (m, x) := e.costMul
  let control := decide (e.row.opc < 0x40) &&
    !([0x004, 0x006, 0x007, 0x008, 0x010, 0x012, 0x018, 0x01A].contains e.row.opc)
  let base := if e.isUniform || control then 1 else m * laneCost e.part + bankPenalty e.vRead + x
  match e.bandCost with
  | some n => n
  | none => if e.f.form.isDense then max 4 base else base

/-- The bytes of an instruction from its first unit (04 R72, R75); none for LEN 0b11. -/
def unitLength (native : Bool) (u : Nat) : Option Nat :=
  if native then (if u % 4 = 3 then none else some (4 * (2 + u % 4))) else some (4 * denseUnits u)

/-- The 32-bit unit at a code address: device memory at the point of coherence. -/
def State.codeUnit (s : State) (a : Nat) : Nat := natOfBytes (bytesAt s.mem a 4)

/-- A fill of Torub-N: a zero unit at offset 28 of a fetch block (04 R73). -/
def State.isFill (s : State) (native : Bool) (a : Nat) : Bool := native && a % 32 == 28 && s.codeUnit a == 0

/-- The number of instructions from `t` up to and with the one at `a`, when it is at most the fuel (16 R357). -/
def State.countInstrs (s : State) (native : Bool) (a : Nat) : Nat → Nat → Option Nat
  | 0, _ => none
  | fuel + 1, t =>
    if t = a then some 1
    else if t > a then none
    else
      let step : Option Nat := if s.isFill native t then some 4 else unitLength native (s.codeUnit t)
      match step with
      | none => none
      | some l =>
        match s.countInstrs native a fuel (t + l) with
        | some n => some (if s.isFill native t then n else n + 1)
        | none => none

/-- An instruction that makes an iteration not silent (16 R357): a store, an atomic, `rel`, an engine command, `exit`
or `end`. -/
def spinExcluded (opc : Nat) : Bool :=
  [0x009, 0x00A, 0x241, 0x243, 0x245, 0x248, 0x249, 0x24A, 0x253, 0x380, 0x381].contains opc

/-- A register of the four classes changed (16 R357). -/
def regsChanged (g g' : Group) : Bool := g.v != g'.v || g.s != g'.s || g.p != g'.p || g.c != g'.c

/-- A fork split its subset (16 R357). -/
def splitBy (g' : Group) (subset : Mask) : Bool :=
  let pcs := (g'.threads.zipIdx.filter (fun p => subset.getLsbD p.2)).map (fun p => p.1.pc)
  match pcs with
  | [] => false
  | p :: ps => ps.any (fun q => q != p)

/-- The spin detector after a committed instruction (16 R357): `g` before, `g'` after, the target of a taken
transfer. -/
def spinStep (s : State) (native : Bool) (opc : Nat) (g g' : Group) (target : Option Nat) : Group :=
  if g.frame.active || g.run.stepped then g'
  else
    let sub := g.run.subset
    let sp := g.spin
    let silent := sp.silent && !regsChanged g g' && !spinExcluded opc && !(opc == 0x006 && splitBy g' sub)
    match target with
    | none => { g' with spin := { sp with silent := silent } }
    | some t =>
      let watched := [0x001, 0x002, 0x006].contains opc && decide (t ≤ g.pc) &&
        (s.countInstrs native g.pc 64 t).any (fun n => n ≤ 32)
      if !watched then { g' with spin := Spin.idle }
      else if sp.subset == sub && sub != 0 && sp.src.toNat == g.pc && sp.dst.toNat == t then
        let n := if silent then sp.count + 1 else 0
        if n ≥ 4 then
          { (g'.mapThreads sub (fun th => { th with demoted := true, dleft := 4096 })) with
            spin := { sp with silent := true, count := 0 } }
        else { g' with spin := { sp with silent := true, count := n } }
      else { g' with spin := ⟨BitVec.ofNat 56 g.pc, BitVec.ofNat 56 t, sub, true, 0⟩ }

/-- The run ends after this instruction (04 R81, R87). -/
def Env.runEnds (e : Env) : Bool := e.f.re || e.f.form.isDense

/-- Set the PC of every thread of the subset. -/
def Group.setPcs (g : Group) (a : Nat) : Group :=
  g.mapThreads g.run.subset (fun t => { t with pc := BitVec.ofNat 56 a })

/-- The group after an instruction that committed: the spin detector, one more instruction in the run, and the end of
the run where it ends one. The PCs are already written. -/
def Env.commitGroup (e : Env) (s : State) (g' : Group) (target : Option Nat) (keepSince : Bool) (st : GStatus)
    (w : Wait) : Group :=
  let g1 := spinStep s e.gr.native e.row.opc e.g g' target
  let g2 : Group := { g1 with stall := false, run := { g1.run with count := g1.run.count + 1, skipBreak := false } }
  if e.runEnds then g2.endRun (s.clk + e.cost) keepSince st w else g2

/-- The state after an instruction that committed (04 R82, R87): the group, its cycles, and what follows from a group
that exited. -/
def Env.commit (e : Env) (s : State) (g' : Group) (target : Option Nat) (keepSince : Bool) (st : GStatus) (w : Wait) :
    State :=
  let g2 := e.commitGroup s g' target keepSince st w
  let s1 := (s.setGroup g2).tick e.cost
  if g2.status = .exited then s1.groupExit g2.team g2.gid else s1

/-- The group of an environment as a state holds it. -/
def Env.groupIn (e : Env) (s : State) : Group := (s.group? e.g.team e.g.gid).getD e.g

/-! ### Operands with an uncorrectable error (00 R5, 20 R437) -/

/-- The window address of a core's team block, from bit 38 up (03 R61). -/
def State.blockPrefix (s : State) (core slot : Nat) : Nat :=
  2 ^ 14 + s.dieOfCore core * 2 ^ 10 + (core - s.dieOfCore core * (s.cl * 12)) * 2 ^ 3 + slot

/-- The address at which an error of vn of thread i, or with `none` of a latch, is reported: the register's sector in the window;
a latch has none and reports 0 (19 R419; DEDUCED, log entry 107). -/
def State.vSector (s : State) (t : Team) (g : Group) (at_ : Option (Nat × Nat)) : Nat :=
  match at_, t.core? g.core with
  | some (n, i), some r => (s.blockPrefix g.core r.slot * 2 ^ 38 + g.gid * 0x20000 + i * 0x600 + 4 * n) / 32 * 32
  | _, _ => 0

/-- The error in the first source register, in operand order and then thread order, that the instruction consumes: the thread and
the address. An array operation reads its slab itself (09 R218). -/
def Env.badSource (e : Env) (s : State) : Option (Nat × Nat) :=
  if e.g.vbad.isEmpty then none
  else
    let vs := if decide (0x300 ≤ e.row.opc) && decide (e.row.opc < 0x320) then [] else e.vRead
    let ls := (usedSrcs e.row e.f).filterMap (fun x => match x with | .lat n => some n.val | _ => none)
    match vs.findSome? (fun n => (e.parts.find? (fun i => e.g.vbad.contains (64 * n + i))).map (fun i => (n, i))) with
    | some (n, i) => some (i, s.vSector e.t e.g (some (n, i)))
    | none =>
      (ls.findSome? (fun n => e.parts.find? (fun i => e.g.vbad.contains (65536 + 64 * n + i)))).map (fun i => (i, 0))

/-- An instruction that would commit with such a source raises UNCORRECTABLE instead, after every check of its own (00 R5; the
place in the order of checks is DEDUCED, log entry 107). -/
def Env.consume (e : Env) (s0 : State) (o : Out) : Out :=
  match o with
  | .exc x => .exc x
  | .stall s => .stall s
  | .bad r => .bad r
  | .stop s st w => .stop s st w
  | .excIn s x => .excIn s x
  | o =>
    match e.badSource s0 with
    | some (i, a) => .exc { code := cUNCORR, fthread := some i, faddr := a }
    | none => o

/-- How an instruction's end becomes a state. -/
def Env.finish (e : Env) (s0 : State) (o : Out) : Host.Outcome State Fault Refusal :=
  match o with
  | .next s => .next (e.commit s ((e.groupIn s).setPcs e.nextPc) none false .ready .none)
  | .jump s t => .next (e.commit s (e.groupIn s) t (e.row.opc == 0x01E) .ready .none)
  | .suspend s st w =>
    .next ((e.commit s ((e.groupIn s).setPcs e.nextPc) none false st w).modGroup e.g.team e.g.gid (fun g =>
      if g.status = .waiting then { g with waitAt := some ⟨e.g.threads, e.g.run, e.frameWord false⟩ } else g))
  | .suspendHere s st w => .next (e.commit s (e.groupIn s) none false st w)
  | .stop s st w => .next (s.setGroup ((e.groupIn s).stopRun s.clk st w))
  | .stall s => .next (s.setGroup { e.groupIn s with stall := true })
  | .exc x => .next (e.take s0 x)
  | .excIn s x => .next (takeFault s (e.groupIn s) e.t e.gr e.ctx (e.frameWord false) x)
  | .bad r => .fault r

/-- The fault that a window store of the group met when it was performed (03 R64) is raised before the group's next instruction
(DEDUCED, log entry 45). -/
def Env.owedFault (e : Env) (s : State) : Option State :=
  e.g.owed.map (fun p =>
    takeFault s { e.g with owed := none } e.t e.gr e.ctx (e.frameWord false) { code := p.1, faddr := p.2 })

/-- Issue an instruction of the current group (04 R85): the decode checks from step 6 on, then its own effect. With no
group at an issue slot nothing executes. -/
def issue (row : OpRow) (f : Fields) (cap : Bool) (body : Env → State → Out) (s : State) :
    Host.Outcome State Fault Refusal :=
  match s.env? row f with
  | none => .next s
  | some e =>
    match e.owedFault s with
    | some t => .next t
    | none =>
      match e.decodeCheck cap with
      | some c => .next (e.take s { code := c })
      | none => e.finish s (e.consume s (body e s))

end Sys2Proof.Machine
end

