-- ==== Sys2Proof/Machine/Cache.lean ====
section
/-! DEFINITION. Machine/Cache.lean: the visibility machine (12 R249 to R252, R266): the point of coherence with its side
band (01 R18), copies in the L1s and remote-data caches, refills, stores, write-backs; and translation of host-window
addresses (18 R407, R408). -/

namespace Sys2Proof.Machine

open Sys2Proof

/-! ### The side band (01 R18) -/

/-- The sectors that [a, a + n) meets, n > 0. -/
def sectors (a n : Nat) : List Nat := (List.range ((a + n - 1) / 32 + 1 - a / 32)).map (fun j => a / 32 + j)

/-- Side-band byte of a sector. -/
def State.sideAt (s : State) (sec : Nat) : Byte := mget 0 s.side sec

/-- Set the side-band byte of a sector. -/
def State.setSide (s : State) (sec : Nat) (b : Byte) : State := { s with side := mset 0 s.side sec b }

/-- The label in a side-band byte. -/
def sideLbl (b : Byte) : Label := b.extractLsb' 2 2

/-- A side-band byte with its label replaced. -/
def sideWithLbl (b : Byte) (l : Label) : Byte := (b &&& 0xF3) ||| (l.setWidth 8 <<< 2)

/-- CO of some sector of [a, a + n). -/
def State.coAt (s : State) (a n : Nat) : Bool := isDev a && (sectors a n).any (fun x => (s.sideAt x).getLsbD 4)

/-- The largest label of the sectors of [a, a + n); host memory holds none (18 R394). -/
def State.lblAt (s : State) (a n : Nat) : Label :=
  if isDev a then (sectors a n).foldl (fun l x => Label.max l (sideLbl (s.sideAt x))) 0 else 0

/-- The tag of the granule that holds an address. -/
def State.tagAt (s : State) (a : Nat) : Bool := isDev a && (s.sideAt (a / 32)).getLsbD (a / 16 % 2)

/-- A sector is uncorrectable: marked, or with a reserved side-band bit set (01 R19, 13 R278). -/
def State.secBad (s : State) (sec : Nat) : Bool := mget false s.unc sec || (s.sideAt sec).toNat ≥ 32

/-- The lowest uncorrectable sector of [a, a + n). -/
def State.badSec? (s : State) (a n : Nat) : Option Nat := if isDev a then (sectors a n).find? s.secBad else none

/-! ### Writes at the point of coherence -/

/-- The enabled bits of a byte replaced (12 R266). -/
def blend (old new mask : Byte) : Byte := (old &&& ~~~mask) ||| (new &&& mask)

/-- Bytes with all their bits enabled. -/
def fullMask (bs : List Byte) : List (Byte × Byte) := bs.map (fun b => (b, 0xFF))

/-- Write the enabled bits of bytes from an address on. -/
def blendBytes (m : List Host.Cell) (a : Nat) : List (Byte × Byte) → List Host.Cell
  | [] => m
  | (b, k) :: bs => blendBytes (setByte m a (blend (byteAt m a) b k)) (a + 1) bs

/-- Change tag and label of a sector for a written byte at `a` (12 R252, 13 R278). -/
def State.sideWrite (s : State) (a : Nat) (l : Label) (tag : Bool) : State :=
  let o := s.sideAt (a / 32)
  let bit : Byte := 1#8 <<< (a / 16 % 2)
  let o1 := if tag then o ||| bit else o &&& ~~~bit
  s.setSide (a / 32) (sideWithLbl o1 (Label.max (sideLbl o1) l))

/-- Write enabled bits at a device address: granules lose their tags, or take `tag`; sector labels rise to `l`. -/
def State.pointWrite (s : State) (a : Nat) (bs : List (Byte × Byte)) (l : Label) (tag : Bool) : State :=
  let s1 := { s with mem := blendBytes s.mem a bs }
  bs.zipIdx.foldl (fun s p => if p.1.2 = 0 then s else s.sideWrite (a + p.2) l tag) s1

/-- The next free 64-bit value (log entry 3). -/
def State.drawD (s : State) : DWord × State := (Config.freeDWord s.free, { s with free := s.free + 1 })

/-- The next `n` free bytes (log entry 3). -/
def State.drawBytes (s : State) (n : Nat) : List Byte × State :=
  ((List.range n).map (fun j => Config.freeByte s.free j), { s with free := s.free + 1 })

/-- The words V of sync objects that a team's binding entries name (13 R291). -/
def State.boundV (s : State) : List Nat :=
  s.teams.flatMap (fun p => p.2.binds.filterMap (fun b => if b.2.sync.tag then some b.2.sync.addr else none))

/-- The ranges overlap. -/
def overlaps (a n b m : Nat) : Bool := decide (a < b + m) && decide (b < a + n)

/-- The overflow area of a grid that has not completed meets [a, a + n) (13 R288). -/
def Grid.ovflMeets (g : Grid) (a n : Nat) : Bool :=
  !g.complete && g.ovfl.tag &&
    (let (b, t) := g.ovfl.bounds; decide ((a : Int) < t) && decide (b < ((a + n : Nat) : Int)))

/-- What software leaves undefined by writing [a, a + n) (13 R288, R291): V of a sync object there, whose granule then holds no
capability (12 R252), and the values of contributions held there. -/
def State.softTouch (s : State) (a n : Nat) : State :=
  let s1 := s.boundV.foldl (fun s v =>
    if overlaps a n v 8 then
      let (w, s') := s.drawD
      s'.pointWrite v (fullMask (bytesOfNat 8 w.toNat)) 0 false
    else s) s
  if s1.grids.any (fun g => g.2.ovflMeets a n) then
    let hit (c : Contrib) : Bool :=
      match c.entry, s1.grid? c.grid with
      | some k, some g => overlaps a n (g.ovfl.bounds.1.toNat + 32 * k) 32
      | _, _ => false
    let (w, s2) := s1.drawD
    { s2 with contribs := s2.contribs.map (fun c => if hit c then { c with value := w.setWidth 32 } else c) }
  else s1

/-! ### Copies -/

/-- The cells of a byte list, from an offset on. -/
def cellsOf (o : Nat) : List Byte → List Host.Cell
  | [] => []
  | b :: bs => if b = 0 then cellsOf (o + 1) bs else (o, b) :: cellsOf (o + 1) bs

/-- The content of a line at the point of coherence, as a copy. -/
def State.pointLine (s : State) (c : CacheId) (line colour stamp : Nat) (hpa : Option Nat) : Copy :=
  match hpa with
  | some h => ⟨c, line, colour, stamp, stamp, cellsOf 0 (bytesAt s.hostMem h 128), [], 0, 0, [], 0, hpa⟩
  | none =>
    let sb (j : Nat) : Byte := s.sideAt (4 * line + j)
    ⟨c, line, colour, stamp, stamp, cellsOf 0 (bytesAt s.mem (128 * line) 128), [],
      [0, 1, 2, 3].foldl (fun t j => t ||| (((sb j) &&& 3) <<< (2 * j))) 0, 0,
      [0, 1, 2, 3].foldl (fun m j => mset 0 m j (sideLbl (sb j))) [],
      [0, 1, 2, 3].foldl (fun t j => if (sb j).getLsbD 4 then t ||| (1#4 <<< j) else t) 0, none⟩

/-- Write host memory at a translated address; a byte written is no longer one whose last write was lost (20 R437). -/
def State.putHost (s : State) (h : Nat) (bs : List Byte) : State :=
  { s with
    hostMem := setBytes s.hostMem h bs
    hostBad := s.hostBad.filter (fun b => !(decide (h ≤ b) && decide (b < h + bs.length))) }

/-- Host memory at [h, h + n) holds a byte whose last write was lost. -/
def State.hostLost (s : State) (h n : Nat) : Bool := s.hostBad.any (fun b => decide (h ≤ b) && decide (b < h + n))

/-- The offset of the first such byte. -/
def State.hostLostAt (s : State) (h n : Nat) : Nat := ((List.range n).find? (fun j => s.hostBad.contains (h + j))).getD 0

/-- The copy of a line in a cache under a colour (01 R17). -/
def State.copy? (s : State) (c : CacheId) (line colour : Nat) : Option Copy :=
  s.copies.find? (fun k => k.cache == c && k.line == line && k.colour == colour)

/-- Put a copy in place of that of its line, cache and colour. -/
def State.putCopy (s : State) (k : Copy) : State :=
  { s with copies := k :: s.copies.filter (fun x => !(x.cache == k.cache && x.line == k.line && x.colour == k.colour)) }

/-- Drop a copy. -/
def State.dropCopy (s : State) (c : CacheId) (line colour : Nat) : State :=
  { s with copies := s.copies.filter (fun x => !(x.cache == c && x.line == line && x.colour == colour)) }

/-- A copy holds dirty bits. -/
def Copy.isDirty (k : Copy) : Bool := !k.dirty.isEmpty || k.dirtyTags != 0

/-- A sector of a copy holds a dirty byte. -/
def Copy.dirtySector (k : Copy) (j : Nat) : Bool := k.dirty.any (fun p => p.1 / 32 == j)

/-- The dirty bits of `old` laid over `new` (12 R249, R250). -/
def Copy.over (new old : Copy) : Copy :=
  { new with
    data := old.dirty.foldl (fun d p => setByte d p.1 (blend (byteAt d p.1) (byteAt old.data p.1) p.2)) new.data
    dirty := old.dirty.foldl (fun d p => mmod 0 d p.1 (fun m => m ||| p.2)) new.dirty
    tags := (new.tags &&& ~~~old.dirtyTags) ||| (old.tags &&& old.dirtyTags)
    dirtyTags := new.dirtyTags ||| old.dirtyTags
    lbls := [0, 1, 2, 3].foldl (fun m j =>
      if old.dirtySector j then mmod 0 m j (fun l => Label.max l (mget 0 old.lbls j)) else m) new.lbls }

/-- A copy without dirty bits. -/
def Copy.clean (k : Copy) : Copy := { k with dirty := [], dirtyTags := 0 }

/-- The line of a core is copied in the remote-data cache of its die too (12 R249). -/
def State.remote (s : State) (core line : Nat) (hpa : Option Nat) : Bool :=
  hpa.isSome || s.homeDie (128 * line) != s.dieOfCore core

/-- The granules of a line that enabled bytes from offset `o` on touch. -/
def touchedGranules (o : Nat) (bs : List (Byte × Byte)) : BitVec 8 :=
  bs.zipIdx.foldl (fun g p => if p.1.2 = 0 then g else g ||| (1#8 <<< ((o + p.2) / 16))) 0

/-- Lay a store's bits on a copy (12 R250, R252; 13 R278). -/
def Copy.lay (k : Copy) (o : Nat) (bs : List (Byte × Byte)) (l : Label) (tag : Bool) : Copy :=
  let g := touchedGranules o bs
  { k with
    data := blendBytes k.data o bs
    dirty := bs.zipIdx.foldl (fun d p => mmod 0 d (o + p.2) (fun m => m ||| p.1.2)) k.dirty
    tags := if k.hpa.isSome then 0 else if tag then k.tags ||| g else k.tags &&& ~~~g
    dirtyTags := if k.hpa.isSome then 0 else k.dirtyTags ||| g
    lbls := if k.hpa.isSome then []
      else bs.zipIdx.foldl (fun m p =>
        if p.1.2 = 0 then m else mmod 0 m ((o + p.2) / 32) (fun x => Label.max x l)) k.lbls }

/-- The dirty bits of a copy reach the point of coherence (12 R249). -/
def State.applyDirty (s : State) (k : Copy) : State :=
  match k.hpa with
  | some h =>
    { s with
      hostMem := k.dirty.foldl (fun m p =>
        setByte m (h + p.1) (blend (byteAt m (h + p.1)) (byteAt k.data p.1) p.2)) s.hostMem
      hostBad := s.hostBad.filter (fun b => !k.dirty.any (fun p => h + p.1 == b && p.2 == 0xFF)) }
  | none =>
    let s1 := k.dirty.foldl (fun s p =>
      s.pointWrite (128 * k.line + p.1) [(byteAt k.data p.1, p.2)] (mget 0 k.lbls (p.1 / 32))
        (k.tags.getLsbD (p.1 / 16))) s
    k.dirty.foldl (fun s p => s.softTouch (128 * k.line + p.1) 1) s1

/-- A source has sent a write packet to another die, or to the device of a member as 64 + member (12 R259). -/
def State.noteSent (s : State) (x : Source) (dest : Nat) : State :=
  if s.sent.contains (x, dest) then s else { s with sent := s.sent ++ [(x, dest)] }

/-- The dirty bits of a remote-data-cache copy go to the point of coherence. -/
def State.rdcWriteBack (s : State) (die line colour : Nat) : State :=
  match s.copy? (.rdc die) line colour with
  | none => s
  | some k =>
    if !k.isDirty then s
    else
      let s1 := (s.applyDirty k).putCopy k.clean
      if k.hpa.isSome || s.homeDie (128 * line) == die then s1
      else s1.noteSent (.cache (.rdc die)) (s.homeDie (128 * line))

/-- The lines a cache holds at most: 320 KiB of an L1, 16 MiB of a remote-data cache (01 R16). -/
def cacheLines : CacheId → Nat
  | .l1 _ => 2560
  | .rdc _ => 131072

/-- The lines of a cache that are disabled (20 R437): they reduce its capacity. -/
def State.linesOff (s : State) (c : CacheId) : Nat :=
  (s.disabled.filter (fun x =>
    match x, c with
    | .l1Line core _, .l1 k => core == k
    | .rdcLine die _, .rdc k => die == k
    | _, _ => false)).length

/-- The copy that makes room for one more in a cache that is full: the one put there longest ago (01 R16; 12 R249 lets any copy
go; which one is DESIGN CHOICE, log entry 103). -/
def State.victim? (s : State) (c : CacheId) : Option Copy :=
  let ks := s.copies.filter (fun k => k.cache == c)
  if ks.length < cacheLines c - s.linesOff c then none else ks.getLast?

/-- Room for one more line in a remote-data cache: the victim's dirty bits are written back and it is dropped. -/
def State.roomRdc (s : State) (die : Nat) : State :=
  match s.victim? (.rdc die) with
  | some k => (s.rdcWriteBack die k.line k.colour).dropCopy (.rdc die) k.line k.colour
  | none => s

/-- A remote-data-cache copy later than a restriction; refilled from the point when there is none (12 R251). -/
def State.rdcLine (s : State) (die line colour : Nat) (hpa : Option Nat) (min : Nat) : State × Copy :=
  match s.copy? (.rdc die) line colour with
  | some k =>
    if k.stamp > min then (s, k)
    else let n := (s.pointLine (.rdc die) line colour s.now hpa).over k; (s.putCopy n, n)
  | none =>
    let s1 := s.roomRdc die
    let n := s1.pointLine (.rdc die) line colour s1.now hpa
    (s1.putCopy n, n)

/-- Write back the dirty bits of a copy to the level below (12 R249). -/
def State.writeBack (s : State) (c : CacheId) (line colour : Nat) : State :=
  match c with
  | .rdc die => s.rdcWriteBack die line colour
  | .l1 core =>
    match s.copy? (.l1 core) line colour with
    | none => s
    | some k =>
      if !k.isDirty then s
      else if s.remote core line k.hpa then
        let (s1, r) := s.rdcLine (s.dieOfCore core) line colour k.hpa 0
        (s1.putCopy (r.over k)).putCopy k.clean
      else (s.applyDirty k).putCopy k.clean

/-- Room for one more line in an L1. -/
def State.roomL1 (s : State) (core : Nat) : State :=
  match s.victim? (.l1 core) with
  | some k => (s.writeBack (.l1 core) k.line k.colour).dropCopy (.l1 core) k.line k.colour
  | none => s

/-- A copy is permitted under restrictions of its L1 and of the remote-data cache below it (12 R251): an L1 copy that was
filled from an older remote-data-cache copy holds what that copy held (DEDUCED, log entry 6). -/
def Copy.permitted (k : Copy) (l1Min rdcMin : Nat) : Bool := decide (k.stamp > l1Min) && decide (k.base > rdcMin)

/-- Refill an L1 line from the level below, under the test there (12 R251); the old copy's dirty bits stay over it (R249). -/
def State.l1Refill (s : State) (core line colour : Nat) (hpa : Option Nat) (rdcMin : Nat) (old : Option Copy) :
    State × Copy :=
  let (s1, below) :=
    if s.remote core line hpa then s.rdcLine (s.dieOfCore core) line colour hpa rdcMin
    else (s, s.pointLine (.l1 core) line colour s.now hpa)
  let n : Copy := { below with cache := .l1 core, stamp := s.now, base := below.stamp, dirty := [], dirtyTags := 0 }
  match old with
  | some k => (s1.putCopy (n.over k), n.over k)
  | none => ((s1.roomL1 core).putCopy n, n)

/-- An L1 copy that the restrictions permit; refilled when there is none (12 R251). -/
def State.l1Line (s : State) (core line colour : Nat) (hpa : Option Nat) (l1Min rdcMin : Nat) : State × Copy :=
  match s.copy? (.l1 core) line colour with
  | some k => if k.permitted l1Min rdcMin then (s, k) else s.l1Refill core line colour hpa rdcMin (some k)
  | none => s.l1Refill core line colour hpa rdcMin none

/-- A store of bytes within one line is performed in the core's L1 (12 R250). -/
def State.l1Store (s : State) (core colour a : Nat) (hpa : Option Nat) (bs : List (Byte × Byte)) (l : Label)
    (tag : Bool) : State :=
  let (s1, k) := match s.copy? (.l1 core) (a / 128) colour with
    | some k => (s, k)
    | none => s.l1Line core (a / 128) colour hpa 0 0
  s1.putCopy (k.lay (a % 128) bs l tag)

/-- Write back a line of a core as far as the point of coherence. -/
def State.writeBackAll (s : State) (core line colour : Nat) : State :=
  (s.writeBack (.l1 core) line colour).writeBack (.rdc (s.dieOfCore core)) line colour

/-- Write back and drop every copy of the lines that meet [a, a + n), at every level; `cols` limits the colours. -/
def State.purge (s : State) (a n : Nat) (host : Bool) (cols : Option (List Nat)) : State :=
  let hit (k : Copy) : Bool :=
    overlaps (128 * k.line) 128 a n && (k.hpa.isSome == host) &&
      (match cols with | some cs => cs.contains k.colour | none => true)
  let isL1 (k : Copy) : Bool := match k.cache with | .l1 _ => true | .rdc _ => false
  let s1 := (s.copies.filter (fun k => hit k && isL1 k)).foldl (fun s k => s.writeBack k.cache k.line k.colour) s
  let s2 := (s1.copies.filter (fun k => hit k && !isL1 k)).foldl (fun s k => s.writeBack k.cache k.line k.colour) s1
  { s2 with copies := s2.copies.filter (fun k => !hit k) }

/-- `n` bytes of a copy from an offset. -/
def Copy.read (k : Copy) (o n : Nat) : List Byte := bytesAt k.data o n

/-- The parts of [a, a + n) by line, as (address, length). -/
def lineParts (a n : Nat) : List (Nat × Nat) :=
  if n = 0 then []
  else if a / 128 = (a + n - 1) / 128 then [(a, n)]
  else [(a, 128 - a % 128), ((a / 128 + 1) * 128, n - (128 - a % 128))]

/-- What a read gives: its bytes, the largest label of its sectors, the tag of its first granule, CO of a sector. -/
structure Got where
  bytes : List Byte
  lbl : Label
  tag : Bool
  co : Bool

/-- Read bytes within one line through the core's caches (12 R251). -/
def State.readLine (s : State) (core colour a n : Nat) (hpa : Option Nat) (l1Min rdcMin : Nat) : State × Got :=
  let (s1, k) := s.l1Line core (a / 128) colour hpa l1Min rdcMin
  let secs := (sectors (a % 128) n)
  (s1, ⟨k.read (a % 128) n, secs.foldl (fun l j => Label.max l (mget 0 k.lbls j)) 0, k.tags.getLsbD (a % 128 / 16),
    secs.any (fun j => k.co.getLsbD j)⟩)

/-- Read device bytes at the point of coherence. -/
def State.readPoint (s : State) (a n : Nat) : Got :=
  ⟨bytesAt s.mem a n, s.lblAt a n, s.tagAt a, s.coAt a n⟩

/-! ### Translation (18 R407, R408) -/

/-- The I/O virtual address of a host-window address (01 R22). -/
def iovaOf (a : Nat) : Nat := a % 2 ^ 55

/-- The PASID by which a function's host-window access of a colour goes (18 R407). -/
def State.pasidOf (s : State) (fn colour : Nat) : Option Nat :=
  ((s.fn fn).pasids.find? (fun p => p.2.valid && p.2.colour == colour)).map (fun p => p.2.pasid)

/-- The translation cache entry that covers an address. -/
def State.tlbFind (s : State) (fn pasid iova : Nat) : Option Tlb :=
  s.tlb.find? (fun t => t.fn == fn && t.pasid == pasid && decide (t.iova ≤ iova) && decide (iova < t.iova + t.size))

/-- The outcome of a translation. -/
inductive Trans where
  /-- Translated. -/
  | ok (hpa : Nat)
  /-- HOST_DENIED. -/
  | denied
  /-- A translation request is needed or under way. -/
  | ask (pasid page : Nat)
  /-- A page request is outstanding. -/
  | page
  deriving DecidableEq, Repr

/-- A page request of a function is outstanding, or waits to be sent (18 R409). -/
def Fn.paging (f : Fn) (pasid page : Nat) : Bool := (f.pageReqs ++ f.pageQueue).any (fun r => r.pasid == pasid && r.page == page)

/-- Translate one address under a PASID. -/
def State.transPasid (s : State) (fn p a : Nat) (write : Bool) : Trans :=
  let page := iovaOf a / 4096
  match s.tlbFind fn p (iovaOf a) with
  | some t => if (if write then t.write else t.read) then .ok (t.frame + (iovaOf a - t.iova)) else .denied
  | none =>
    if (s.fn fn).paging p page then .page else .ask p page

/-- Translate one address for an access of a colour. -/
def State.translate (s : State) (fn colour a : Nat) (write : Bool) : Trans :=
  match s.pasidOf fn colour with
  | none => .denied
  | some p => s.transPasid fn p a write

/-- Send a translation request, when none for the page is under way (18 R408). -/
def State.askAts (s : State) (fn pasid page : Nat) (write quiet : Bool) : State :=
  if s.ats.any (fun r => r.fn == fn && r.pasid == pasid && r.page == page && r.inval.isEmpty && (!r.quiet || quiet)) then s
  else { s with ats := s.ats ++ [⟨fn, pasid, page, write, [], quiet⟩] }

/-- The outcome of the tests of a range before the device reaches it (16 R344). -/
inductive Reach where
  /-- It passes. -/
  | ok
  /-- It fails, with the code that it reports. -/
  | bad (code : Byte)
  /-- Translations are needed or under way: the pages to ask for. -/
  | wait (asks : List (Nat × Nat))
  deriving DecidableEq, Repr

/-- The pages of a host range. -/
def hostPages (a n : Nat) : List Nat :=
  if n = 0 then [] else (List.range ((a + n - 1) / 4096 + 1 - a / 4096)).map (fun i => (a / 4096 + i) * 4096)

/-- Translate for a control block or a packet of a function: a page whose request failed while the block waited for it is refused (18
R409). -/
def State.blockTrans (s : State) (fn p a : Nat) (write : Bool) : Trans :=
  match s.transPasid fn p a write with
  | .ask q pg => if (s.fn fn).denied.contains (q, pg) then .denied else .ask q pg
  | t => t

/-- What the translations of a range come to. -/
def reachOf (ts : List Trans) : Reach :=
  if ts.any (· == .denied) then .bad cHDENIED
  else
    let asks := ts.filterMap (fun t => match t with | .ask q x => some (q, x) | _ => none)
    if ts.all (fun t => match t with | .ok _ => true | _ => false) then .ok else .wait asks

/-- A host range in pieces, each within one page, as (offset, length, translation), for an access of a colour. -/
def State.hostPieces (s : State) (fn colour a n : Nat) (write : Bool) : List (Nat × Nat × Trans) :=
  (hostPages a n).map (fun x =>
    let lo := max a x
    (lo - a, min (a + n) (x + 4096) - lo,
      match s.pasidOf fn colour with
      | some p => s.blockTrans fn p lo write
      | none => .denied))

/-- Ask for the translations that a test needs. -/
def State.askAll (s : State) (fn : Nat) (asks : List (Nat × Nat)) (write : Bool) : State :=
  asks.foldl (fun s q => s.askAts fn q.1 q.2 write false) s

/-- A failed page request has been reported for a host range. -/
def State.takeRange (s : State) (fn : Nat) (p : Option Nat) (a n : Nat) : State :=
  match p with
  | none => s
  | some p =>
    let ps := (hostPages a n).map (fun x => (p, iovaOf x / 4096))
    s.setFn fn { s.fn fn with denied := (s.fn fn).denied.filter (fun d => !ps.contains d) }

/-- The parts of an access by line with their translations; device parts need none. -/
def State.transParts (s : State) (fn colour a n : Nat) (write : Bool) : List (Nat × Nat × Trans) :=
  (lineParts a n).map (fun p => (p.1, p.2, s.translate fn colour p.1 write))

/-- Read bytes through the core's caches, every part translated and under its own restrictions (12 R267). -/
def State.readParts (s : State) (core colour : Nat) :
    List (Nat × Nat × Option Nat) → List (Nat × Nat) → State × Got
  | [], _ => (s, ⟨[], 0, false, false⟩)
  | (a, n, h) :: ps, ms =>
    let (s1, g) := s.readLine core colour a n (h.map (fun x => x - a % 128)) (ms.headD (0, 0)).1 (ms.headD (0, 0)).2
    let (s2, g2) := s1.readParts core colour ps ms.tail
    (s2, ⟨g.bytes ++ g2.bytes, Label.max g.lbl g2.lbl, g.tag, g.co || g2.co⟩)

/-- Store bytes through the core's L1, every part translated. -/
def State.storeParts (s : State) (core colour : Nat) (l : Label) (tag : Bool) :
    List (Nat × Nat × Option Nat) → List (Byte × Byte) → State
  | [], _ => s
  | (a, n, h) :: ps, bs =>
    (s.l1Store core colour a (h.map (fun x => x - a % 128)) (bs.take n) l tag).storeParts core colour l tag ps
      (bs.drop n)

/-- The key-table entry of a colour holds a key (18 R405). -/
def State.keyed (s : State) (colour : Nat) : Bool := (mfind s.keys colour).isSome

/-- A colour through which a context may access (17 R372, 18 R405). -/
def State.permits (s : State) (c : Ctx) (colour : Nat) : Bool := c.permits colour && s.keyed colour

/-- The revocation bitmap marks a capability (17 R388). -/
def State.isRevoked (s : State) (k : TCap) : Bool :=
  (k.kind == 0 || k.kind == 1 || k.kind == 4) && k.otype != 62 &&
    (let b := k.bounds.1; decide (0 ≤ b) && isDev b.toNat && mget false s.revoked (b.toNat / 64))

/-- A pass is between SNAP and CLEAR (17 R390). -/
def State.sweeping (s : State) : Bool :=
  match s.dredge.state with | .idle => false | _ => true

/-- The tag with which a capability is written outside a save (17 R390). -/
def State.storedTag (s : State) (k : TCap) : Bool := k.tag && !(s.sweeping && s.isRevoked k)

end Sys2Proof.Machine
end

