-- ==== Sys2Proof/Machine/Window.lean ====
section
/-! DEFINITION. Machine/Window.lean: the register and tarn windows (03 R61 to R64; 19 R421): where an address leads, what
refuses an access, and reading and writing there byte by byte. -/

namespace Sys2Proof.Machine

open Sys2Proof

/-- Where a window address leads (03 R61, R62). -/
inductive WinTgt where
  | grp (team gid off : Nat)
  | tile (team core t off : Nat)
  | acc (team core n off : Nat)
  | mscr (team core off : Nat)
  | tarn (team core off : Nat)
  deriving DecidableEq, Repr

/-- The team and core resources that a window address names, if its team is resident there. -/
def State.winTeam (s : State) (a : Nat) : Option (Team × CoreRes) :=
  let die := a / 2 ^ 48 % 8
  let c := a / 2 ^ 41 % 128
  let slot := a / 2 ^ 38 % 8
  if c ≥ s.cl * 12 then none
  else
    let core := die * (s.cl * 12) + c
    (s.teams.map (·.2)).findSome? (fun t =>
      match t.status with
      | .admitted | .saving | .draining =>
        match t.core? core with
        | some r => if r.slot = slot then some (t, r) else none
        | none => none
      | _ => none)

/-- What an offset of a team's block leads to (03 R61, R62), `there` saying that more than its group blocks can be
reached. -/
def State.winIn (s : State) (t : Team) (r : CoreRes) (there : Bool) (a : Nat) : Option WinTgt :=
  let off := a % 2 ^ 38
  if isTarnWin a then (if there then some (.tarn t.id r.core off) else none)
  else if off < 0x400000 then
    match s.group? t.id (off / 0x20000) with
    | some g => if g.core = r.core then some (.grp t.id g.gid (off % 0x20000)) else none
    | none => none
  else if !there then none
  else if off < 0x480000 then some (.tile t.id r.core ((off - 0x400000) / 0x10000) (off % 0x10000))
  else if 0x800000 ≤ off ∧ off < 0xA00000 then
    some (.acc t.id r.core ((off - 0x800000) / 0x20000) ((off - 0x800000) % 0x20000))
  else if 0xA00000 ≤ off ∧ off < 0xA40000 then some (.mscr t.id r.core (off - 0xA00000))
  else none

/-- Resolve a window address (03 R61, R62); group blocks stay reachable while the team drains (15 R337). -/
def State.winTgt (s : State) (a : Nat) : Option WinTgt :=
  match s.winTeam a with
  | none => none
  | some (t, r) => s.winIn t r (t.status != .draining) a

/-! ### Group blocks -/

/-- The register that a group-block offset belongs to. -/
inductive GrpCell where
  | v (n i byte : Nat)
  | s (n byte : Nat)
  | p (n byte : Nat)
  | cbits
  | vside (n byte : Nat)
  | sside (n byte : Nat)
  | frame (byte : Nat)
  deriving DecidableEq, Repr

/-- The cell at a group-block offset (03 R62, 19 R421). -/
def grpCell (width vregs o : Nat) : Option GrpCell :=
  if o < 0x18000 then
    (if o / 0x600 < width ∧ o % 0x600 / 4 < vregs then some (.v (o % 0x600 / 4) (o / 0x600) (o % 4)) else none)
  else if o < 0x18200 then some (.s ((o - 0x18000) / 8) (o % 8))
  else if o < 0x18280 then some (.p ((o - 0x18200) / 8) (o % 8))
  else if o = 0x18280 then some .cbits
  else if 0x18400 ≤ o ∧ o < 0x18A00 then
    (if (o - 0x18400) / 4 < vregs then some (.vside ((o - 0x18400) / 4) (o % 4)) else none)
  else if 0x18A00 ≤ o ∧ o < 0x18B00 then some (.sside ((o - 0x18A00) / 4) (o % 4))
  else if 0x19000 ≤ o ∧ o < 0x19080 then some (.frame (o - 0x19000))
  else none

/-- The side-state word (03 R63). -/
def Side.word (d : Side) : Nat :=
  d.taint.toNat + 256 * d.lbl.toNat + (if d.pend then 1024 + 2048 * d.pq.val else 0)

/-- Little-endian bytes of 16-bit fields. -/
def halves : List (BitVec 16) → List Byte
  | [] => []
  | h :: hs => bytesOfNat 2 h.toNat ++ halves hs

/-- Cut or pad a byte list with zeros. -/
def padTo (n : Nat) (bs : List Byte) : List Byte := (bs ++ List.replicate n 0).take n

/-- The 128 bytes of a trap frame (19 R421). -/
def Frame.bytes (f : Frame) : List Byte :=
  [f.code, (if f.active then 1 else 0) + (if f.nested then 2 else 0), f.xflags.setWidth 8, f.fthread, f.form, 0] ++
  bytesOfNat 2 f.opc.toNat ++ bytesOfNat 8 f.fpc.toNat ++ bytesOfNat 8 f.rpc.toNat ++ bytesOfNat 8 f.faddr.toNat ++
  bytesOfNat 8 f.lpc.toNat ++ bytesOfNat 8 f.subset.toNat ++ bytesOfNat 8 f.amask.toNat ++ bytesOfNat 8 f.aux.toNat ++
  padTo 16 (f.words.flatMap (fun w => bytesOfNat 4 w.toNat)) ++ padTo 10 (halves f.ops) ++ padTo 3 f.mods ++
  padTo 2 f.guards ++ [0] ++ bytesOfNat 4 f.imm.toNat ++ List.replicate 12 0 ++ bytesOfNat 16 f.kcode.bits.toNat

/-- Byte `b` of a number. -/
def byteOf (x b : Nat) : Byte := BitVec.ofNat 8 (x / 256 ^ b)

/-- Replace byte `b` of a number below 256^n. -/
def putByte (x b : Nat) (v : Byte) : Nat := x - x / 256 ^ b % 256 * 256 ^ b + v.toNat * 256 ^ b

/-- Read one byte of a group block. -/
def Group.cellByte (g : Group) (width : Nat) (fb : List Byte) : GrpCell → Byte
  | .v n i b => byteOf (g.vget n i).toNat b
  | .s n b => byteOf (g.sget n).toNat b
  | .p n b => byteOf (g.pget width n).toNat b
  | .cbits => g.c
  | .vside n b => byteOf (g.vsd n).word b
  | .sside n b => byteOf (g.ssd n).word b
  | .frame b => fb.getD b 0

/-- The label with which a cell is read (03 R64). A side-state word and the trap frame are no register, tile or line, and are read
with label 0 (DESIGN CHOICE, log entry 47). -/
def Group.cellLbl (g : Group) : GrpCell → Label
  | .v n _ _ => (g.vsd n).lbl
  | .s n _ => (g.ssd n).lbl
  | .p n _ => mget 0 g.plbl n
  | .cbits => (List.range 8).foldl (fun l n => Label.max l (mget 0 g.clbl n)) 0
  | _ => 0

/-- The register that a cell belongs to, its side state with it. -/
def GrpCell.reg : GrpCell → Nat
  | .v n _ _ => n
  | .vside n _ => n
  | .s n _ => 1024 + n
  | .sside n _ => 1024 + n
  | .p n _ => 2048 + n
  | .cbits => 3072
  | .frame _ => 3073

/-- The register of a cell is pending (03 R64). -/
def Group.cellPend (g : Group) : GrpCell → Bool
  | .v n _ _ => (g.vsd n).pend
  | .s n _ => (g.ssd n).pend
  | _ => false

/-- The register of a cell holds an uncorrectable error (20 R437). -/
def Group.cellBad (g : Group) : GrpCell → Bool
  | .v n i _ => g.vbad.contains (64 * n + i)
  | _ => false

/-- A cell may be written (03 R62, 19 R421). -/
def GrpCell.writable : GrpCell → Bool
  | .vside _ _ => false
  | .sside _ _ => false
  | .frame b => decide (0x10 ≤ b) && decide (b < 0x18)
  | _ => true

/-- Write one byte of a group block (03 R64): labels rise, the tag of the quad or pair is cleared, p0 and bits beyond
the width are ignored. One byte mends no word that holds an error. -/
def Group.cellPut (g : Group) (width : Nat) (l : Label) (v : Byte) : GrpCell → Group
  | .v n i b =>
    { ((g.vset n i (BitVec.ofNat 32 (putByte (g.vget n i).toNat b v))).setVtag (n / 4) i false).setVsd n
        { g.vsd n with lbl := Label.max (g.vsd n).lbl l } with vbad := g.vbad }
  | .s n b =>
    ((g.sset n (BitVec.ofNat 64 (putByte (g.sget n).toNat b v))).setStag (n / 2) false).setSsd n
      { g.ssd n with lbl := Label.max (g.ssd n).lbl l }
  | .p n b =>
    if n = 0 then g
    else
      { g.pset n (BitVec.ofNat 64 (putByte (g.pget width n).toNat b v) &&& firstMask width) with
        plbl := mmod 0 g.plbl n (fun o => Label.max o l) }
  | .cbits => { g with c := v, clbl := (List.range 8).foldl (fun m n => mmod 0 m n (fun o => Label.max o l)) g.clbl }
  | .frame b =>
    { g with frame := { g.frame with rpc := BitVec.ofNat 64 (putByte g.frame.rpc.toNat (b - 0x10) v) } }
  | _ => g

/-! ### Uncorrectable words (20 R437) -/

/-- A word of [o, o + n) holds an uncorrectable error. -/
def badIn (ws : List Nat) (o n : Nat) : Option Nat := ws.find? (fun w => overlaps (4 * w) 4 o n)

/-- The words that hold an error after bytes with their enables are written at `o`: a word written whole is good again (DEDUCED, log
entry 107). -/
def mendIn (ws : List Nat) (o : Nat) (bs : List (Byte × Byte)) : List Nat :=
  ws.filter (fun w => !(decide (o ≤ 4 * w) && decide (4 * w + 4 ≤ o + bs.length) &&
    ((bs.drop (4 * w - o)).take 4).all (fun p => p.2 == 0xFF)))

/-- The words of v registers, as 64 n + i, that a write of a group block writes whole. -/
def wholeWords (width vregs o : Nat) (bs : List (Byte × Byte)) : List Nat :=
  (List.range bs.length).filterMap (fun j =>
    match grpCell width vregs (o + j) with
    | some (.v n i 0) =>
      if j + 4 ≤ bs.length ∧ ((bs.drop j).take 4).all (fun p => p.2 == 0xFF) then some (64 * n + i) else none
    | _ => none)

/-- The sector of a word of a core's team block, or of its tarn, by its window address (03 R61; 19 R419). -/
def State.blockAt (s : State) (r : CoreRes) (tarn : Bool) (off : Nat) : Nat :=
  ((s.blockPrefix r.core r.slot + (if tarn then 2 ^ 13 else 0)) * 2 ^ 38 + off) / 32 * 32

/-! ### Access checks -/

/-- Size and alignment of a window access (03 R64); engine chunks are not bound by it. -/
def winAligned (a n : Nat) : Bool :=
  if isTarnWin a then true
  else if a % 2 ^ 38 < 0x400000 && a % 2 ^ 38 % 0x20000 == 0x18280 then n == 1
  else (n == 4 || n == 8 || n == 16) && a % n == 0

/-- The bytes of a stream image in mere scratch, while it lives (10 R220, R230). -/
def SWord.imageLen (w : SWord) : Nat := if w.k ≤ 64 then 10304 + 1280 * w.k else 10304

/-- Some live stream of a team owns the bytes [o, o + n) of the leader's mere scratch (10 R230). -/
def Team.imageMeets (t : Team) (o n : Nat) : Bool :=
  t.streams.any (fun p => p.2.live && overlaps (p.2.sbase * 16384) p.2.imageLen o n)

/-- The leader core, or the single core. -/
def Team.leader (t : Team) : Nat := (t.cores.head?.map (·.core)).getD 0

/-- Why a window access is refused (03 R61, R64; 09 R205; 10 R230); `key` is the KEYCOL of compute-only data written. -/
def State.winFaultAt (s : State) (tgt : Option WinTgt) (n : Nat) (write : Bool) (key : Option Nat) : Option Byte :=
  match tgt with
  | none => some cBOUND
  | some (.grp team gid o) =>
    match s.group? team gid, (s.team? team).bind (fun t => s.grid? t.grid) with
    | some g, some gr =>
      let cells := (List.range n).map (fun j => grpCell gr.width gr.vregs (o + j))
      if cells.any (·.isNone) then some cBOUND
      else
        let cs := cells.filterMap id
        if write && cs.any (fun c => !c.writable) then some cPERM
        else if cs.any g.cellPend then some cEARLY
        else if !write && cs.any g.cellBad then some cUNCORR
        else none
    | _, _ => some cBOUND
  | some (.tile team core t o) =>
    match s.team? team with
    | none => some cBOUND
    | some tm =>
      match s.grid? tm.grid, tm.core? core with
      | some gr, some r =>
        let tl := mget Tile.zero r.tiles t
        if t ≥ gr.tiles || o + n > 0x10000 then some cBOUND
        else if !write && tl.co then some cCOREAD
        else if write then
          match key with
          | none => if tl.co then some cCOSTORE else none
          | some k => if tl.co && tl.keycol != k then some cCOCOPY else none
        else (badIn tl.bad o n).map (fun _ => cUNCORR)
      | _, _ => some cBOUND
  | some (.acc team core nn o) =>
    match s.team? team with
    | none => some cBOUND
    | some tm =>
      match s.grid? tm.grid, tm.core? core with
      | some gr, some r =>
        let ac := mget Acc.zero r.accs nn
        if nn ≥ gr.accs || o + n > 81920 then some cBOUND
        else if ac.stream then some cPERM
        else if ac.unwaited then some cEARLYACC
        else if write then none
        else (badIn ac.bad o n).map (fun _ => cUNCORR)
      | _, _ => some cBOUND
  | some (.mscr team core o) =>
    match s.team? team with
    | none => some cBOUND
    | some tm =>
      match s.grid? tm.grid, tm.core? core with
      | some gr, some r =>
        if o + n > gr.mscr * 16384 then some cBOUND
        else if core == tm.leader && tm.imageMeets o n then some cPERM
        else if write then none
        else (badIn r.mbad o n).map (fun _ => cUNCORR)
      | _, _ => some cBOUND
  | some (.tarn team core o) =>
    match (s.team? team).bind (fun t => s.grid? t.grid), (s.team? team).bind (fun t => t.core? core) with
    | some gr, some r =>
      if o + n > gr.tarn * 4096 then some cBOUND
      else if write then none
      else (badIn r.tbad o n).map (fun _ => cUNCORR)
    | _, _ => some cBOUND

/-- Why an access to a window address is refused. -/
def State.winFault (s : State) (a n : Nat) (write : Bool) (key : Option Nat) : Option Byte :=
  s.winFaultAt (s.winTgt a) n write key

/-- The tarn lines that [o, o + n) meets. -/
def tarnLines (o n : Nat) : List Nat :=
  if n = 0 then [] else (List.range ((o + n - 1) / 128 + 1 - o / 128)).map (fun j => o / 128 + j)

/-- A line is absent: commands have not finished with it (13 R280). -/
def CoreRes.absent (r : CoreRes) (line : Nat) : Bool := !(mget TLine.clear r.tline line).awaits.isEmpty

/-- Some line that an access meets is absent; those that `but` alone keeps absent do not count. -/
def State.winAbsentAt (s : State) (tgt : Option WinTgt) (n : Nat) (but : Option Nat) : Bool :=
  match tgt with
  | some (.tarn team core o) =>
    match (s.team? team).bind (fun t => t.core? core) with
    | some r => (tarnLines o n).any (fun l =>
        (mget TLine.clear r.tline l).awaits.any (fun c => match but with | some b => c != b | none => true))
    | none => false
  | _ => false

/-- The same for a window address. -/
def State.winAbsent (s : State) (a n : Nat) (but : Option Nat) : Bool := s.winAbsentAt (s.winTgt a) n but

/-- Two accesses meet one register, one tile or accumulator register, one byte of merge scratch, or one line of a tarn: they are
performed in the order of their arrival (03 R64, 12 R265). -/
def State.tgtSame (s : State) (x : WinTgt) (n : Nat) (y : WinTgt) (m : Nat) : Bool :=
  match x, y with
  | .grp t g o, .grp t' g' o' =>
    t == t' && g == g' &&
      (match (s.team? t).bind (fun tm => s.grid? tm.grid) with
        | some gr =>
          let regs (o n : Nat) : List Nat := (List.range n).filterMap (fun j => (grpCell gr.width gr.vregs (o + j)).map GrpCell.reg)
          (regs o n).any (regs o' m).contains
        | none => false)
  | .tile t c i _, .tile t' c' i' _ => t == t' && c == c' && i == i'
  | .acc t c i _, .acc t' c' i' _ => t == t' && c == c' && i == i'
  | .mscr t c o, .mscr t' c' o' => t == t' && c == c' && overlaps o n o' m
  | .tarn t c o, .tarn t' c' o' => t == t' && c == c' && (tarnLines o n).any (tarnLines o' m).contains
  | _, _ => false

/-- An accepted access that meets a register, a tile, an accumulator or scratch that an engine or a peer is about to reach comes first
(03 R64). -/
def State.winQueued (s : State) (x : WinTgt) (n : Nat) : Bool :=
  s.wins.any (fun p =>
    match s.winTgt p.2.addr, x with
    | some (.tarn _ _ _), _ => false
    | some y, _ => s.tgtSame y p.2.bytes x n
    | none, _ => false)

/-- The address that a refused window access reports (19 R419): none for a pending register or an unwaited tile, the sector of the
first word in error, else the access's own. -/
def State.winFaddr (s : State) (tgt : Option WinTgt) (a n : Nat) (c : Byte) : Nat :=
  if c = cEARLY ∨ c = cEARLYACC then 0
  else if c = cUNCORR then
    let at_ (j : Nat) : Option WinTgt := match tgt with
      | some (.grp t g o) => some (.grp t g (o + j))
      | some (.tile t c i o) => some (.tile t c i (o + j))
      | some (.acc t c i o) => some (.acc t c i (o + j))
      | some (.mscr t c o) => some (.mscr t c (o + j))
      | some (.tarn t c o) => some (.tarn t c (o + j))
      | none => none
    match (List.range n).find? (fun j => s.winFaultAt (at_ j) 1 false none == some c) with
    | some j => (a + j) / 32 * 32
    | none => a / 32 * 32
  else a

/-- The group whose block an access reaches. -/
def State.winGroup (s : State) (a : Nat) : Option (Nat × Nat) :=
  match s.winTgt a with
  | some (.grp team gid _) => some (team, gid)
  | _ => none

/-! ### Reading and writing -/

/-- Byte `o` of an accumulator tile in the element layout of 03 R62. -/
def Acc.byte (a : Acc) (o : Nat) : Byte := byteOf (mget 0 a.el (o / 4)).toNat (o % 4)

/-- Write byte `o` of an accumulator tile. -/
def Acc.putB (a : Acc) (o : Nat) (v : Byte) : Acc :=
  { a with el := mmod 0 a.el (o / 4) (fun w => BitVec.ofNat 32 (putByte w.toNat (o % 4) v)) }

/-- Read a window (03 R64): bytes, label, tag. -/
def State.winReadAt (s : State) (tgt : Option WinTgt) (n : Nat) : Got :=
  match tgt with
  | none => ⟨List.replicate n 0, 0, false, false⟩
  | some (.grp team gid o) =>
    match s.group? team gid, (s.team? team).bind (fun t => s.grid? t.grid) with
    | some g, some gr =>
      let fb := if o ≥ 0x19000 then g.frame.bytes else []
      let cs := (List.range n).filterMap (fun j => grpCell gr.width gr.vregs (o + j))
      let tag := match grpCell gr.width gr.vregs o with
        | some (.v m i 0) => m % 4 == 0 && mget false g.vtag (64 * (m / 4) + i)
        | some (.s m 0) => m % 2 == 0 && mget false g.stag (m / 2)
        | some (.frame 0x70) => g.frame.kcode.tag
        | _ => false
      ⟨cs.map (g.cellByte gr.width fb), cs.foldl (fun l c => Label.max l (g.cellLbl c)) 0, n == 16 && tag, false⟩
    | _, _ => ⟨List.replicate n 0, 0, false, false⟩
  | some (.tile team core t o) =>
    match (s.team? team).bind (fun tm => tm.core? core) with
    | some r =>
      let tl := mget Tile.zero r.tiles t
      ⟨bytesAt tl.bytes o n, tl.lbl, false, tl.co⟩
    | none => ⟨List.replicate n 0, 0, false, false⟩
  | some (.acc team core nn o) =>
    match (s.team? team).bind (fun tm => tm.core? core) with
    | some r =>
      let ac := mget Acc.zero r.accs nn
      ⟨(List.range n).map (fun j => ac.byte (o + j)), ac.lbl, false, false⟩
    | none => ⟨List.replicate n 0, 0, false, false⟩
  | some (.mscr team core o) =>
    match (s.team? team).bind (fun tm => tm.core? core) with
    | some r => ⟨bytesAt r.mscr o n, 0, false, false⟩
    | none => ⟨List.replicate n 0, 0, false, false⟩
  | some (.tarn team core o) =>
    match (s.team? team).bind (fun tm => tm.core? core) with
    | some r =>
      ⟨bytesAt r.tarn o n, (tarnLines o n).foldl (fun l j => Label.max l (mget TLine.clear r.tline j).lbl) 0, false,
        false⟩
    | none => ⟨List.replicate n 0, 0, false, false⟩

/-- Read a window address. -/
def State.winRead (s : State) (a n : Nat) : Got := s.winReadAt (s.winTgt a) n

/-- Change what a team holds on a core. -/
def State.modCore (s : State) (team core : Nat) (h : CoreRes → CoreRes) : State :=
  s.modTeam team (fun t => { t with cores := t.cores.map (fun r => if r.core = core then h r else r) })

/-- Write the tarn of a core: bytes with their enables, line labels raised (13 R278). -/
def CoreRes.tarnWrite (r : CoreRes) (o : Nat) (bs : List (Byte × Byte)) (l : Label) : CoreRes :=
  { r with
    tarn := blendBytes r.tarn o bs
    tbad := mendIn r.tbad o bs
    tline := (tarnLines o bs.length).foldl (fun m j =>
      mmod TLine.clear m j (fun x => { x with lbl := Label.max x.lbl l })) r.tline }

/-- A register changed for a thread of the subset whose loop the spin detector watches (16 R357). -/
def Group.loopChanged (g g' : Group) : Bool :=
  let here (p : Nat × Word) : Bool := g.spin.subset.getLsbD (p.1 % 64)
  g.v.filter here != g'.v.filter here || g.s != g'.s || g.c != g'.c ||
    (List.range 16).any (fun n => (mget 0 g.p n ^^^ mget 0 g'.p n) &&& g.spin.subset != 0)

/-- Write a window (03 R64); a register that changes for the looping subset makes its iteration not silent (16 R357). `tag` is that of
a 16-byte capability store made with STCAP; `key` marks compute-only data (18 R403). -/
def State.winWriteAt (s : State) (tgt : Option WinTgt) (bs : List (Byte × Byte)) (l : Label) (tag : Option Bool)
    (key : Option Nat) : State :=
  match tgt with
  | none => s
  | some (.grp team gid o) =>
    match (s.team? team).bind (fun t => s.grid? t.grid) with
    | some gr =>
      s.modGroup team gid (fun g =>
        let g1 := bs.zipIdx.foldl (fun (g : Group) (p : (Byte × Byte) × Nat) =>
          match grpCell gr.width gr.vregs (o + p.2) with
          | some c => if p.1.2 = 0 then g
            else g.cellPut gr.width l (blend (g.cellByte gr.width g.frame.bytes c) p.1.1 p.1.2) c
          | none => g) g
        let whole := wholeWords gr.width gr.vregs o bs
        let g1 : Group := { g1 with vbad := g1.vbad.filter (fun k => !whole.contains k) }
        let g2 : Group := if g.loopChanged g1 then { g1 with spin := { g1.spin with silent := false } } else g1
        match tag, grpCell gr.width gr.vregs o with
        | some t, some (.v m i 0) => if m % 4 = 0 ∧ bs.length = 16 then g2.setVtag (m / 4) i t else g2
        | some t, some (.s m 0) => if m % 2 = 0 ∧ bs.length = 16 then g2.setStag (m / 2) t else g2
        | _, _ => g2)
    | none => s
  | some (.tile team core t o) =>
    s.modCore team core (fun r =>
      { r with tiles := mmod Tile.zero r.tiles t (fun tl =>
          { tl with bytes := blendBytes tl.bytes o bs, bad := mendIn tl.bad o bs, lbl := Label.max tl.lbl l,
                    co := tl.co || key.isSome, keycol := match key with | some k => k | none => tl.keycol }) })
  | some (.acc team core nn o) =>
    s.modCore team core (fun r =>
      { r with accs := mmod Acc.zero r.accs nn (fun ac =>
          { bs.zipIdx.foldl (fun (ac : Acc) (p : (Byte × Byte) × Nat) =>
              ac.putB (o + p.2) (blend (ac.byte (o + p.2)) p.1.1 p.1.2)) ac with bad := mendIn ac.bad o bs, lbl := Label.max ac.lbl l }) })
  | some (.mscr team core o) => 
    s.modCore team core (fun r => { r with mscr := blendBytes r.mscr o bs, mbad := mendIn r.mbad o bs })
  | some (.tarn team core o) => s.modCore team core (fun r => r.tarnWrite o bs l)

/-- Write a window address. -/
def State.winWrite (s : State) (a : Nat) (bs : List (Byte × Byte)) (l : Label) (tag : Option Bool) (key : Option Nat) :
    State := s.winWriteAt (s.winTgt a) bs l tag key

end Sys2Proof.Machine
end

