-- ==== Sys2Proof/Machine/Loads.lean ====
section
/-! DEFINITION. Machine/Loads.lean: what happens to accesses after their issue: load elements that read and are written
(13 R273, R274), window accesses between runs (03 R64), requests at the atomic engines (R282 to R288), releases, fences
and their markers (12 R255 to R259), and the completion of a `qwait` (13 R275). -/

namespace Sys2Proof.Machine

open Sys2Proof

/-! ### Access sizes (13 R269) -/

/-- Bytes of a SIZE. -/
def sizeBytes : Nat → Nat
  | 0 => 1
  | 1 => 2
  | 2 => 4
  | 3 => 8
  | 4 => 16
  | 5 => 1
  | _ => 3

/-- Alignment of a SIZE. -/
def sizeAlign : Nat → Nat
  | 1 => 2
  | 2 => 4
  | 3 => 8
  | 4 => 16
  | _ => 1

/-- Registers of a SIZE: v registers, s registers. -/
def sizeRegs : Nat → Nat × Nat
  | 3 => (2, 1)
  | 4 => (4, 2)
  | _ => (1, 1)

/-- Sign-extend a `w`-bit value to 32 bits as a number. -/
def sext32 (w x : Nat) : Nat := if x ≥ 2 ^ (w - 1) then x + 2 ^ 32 - 2 ^ w else x

/-- The element of a load from its raw bytes (13 R269): narrow elements are extended to 32 bits. -/
def elemValue (size pos : Nat) (sx : Bool) (raw : Nat) : Nat :=
  let narrow (w x : Nat) : Nat := if sx then sext32 w x else x
  match size with
  | 0 => narrow 8 (raw % 2 ^ 8)
  | 1 => narrow 16 (raw % 2 ^ 16)
  | 2 => raw % 2 ^ 32
  | 3 => raw % 2 ^ 64
  | 4 => raw % 2 ^ 128
  | 5 => narrow 4 (raw / 2 ^ (4 * pos) % 2 ^ 4)
  | 6 => narrow 6 (raw / 2 ^ (6 * pos) % 2 ^ 6)
  | _ => raw % 2 ^ 24

/-- The bytes of a store with their enables (13 R270). -/
def storeBytes (size pos : Nat) (data : Nat) : List (Byte × Byte) :=
  let pair (n v m : Nat) : List (Byte × Byte) := (bytesOfNat n v).zip (bytesOfNat n m)
  match size with
  | 5 => pair 1 (data % 2 ^ 4 * 2 ^ (4 * pos)) (15 * 2 ^ (4 * pos))
  | 6 => pair 3 (data % 2 ^ 6 * 2 ^ (6 * pos)) (63 * 2 ^ (6 * pos))
  | _ => fullMask (bytesOfNat (sizeBytes size) data)

/-! ### Delivery -/

/-- Write a register of a load's destination; a value that changes for a thread of the looping subset makes its iteration not silent
(16 R357). -/
def Group.putV (g : Group) (n i : Nat) (w : Word) (l : Label) : Group :=
  let g1 := (g.vset n i w).setVsd n { g.vsd n with lbl := Label.max (g.vsd n).lbl l }
  if g.vget n i = w || !g.spin.subset.getLsbD i then g1 else { g1 with spin := { g1.spin with silent := false } }

/-- The same for an s register. -/
def Group.putS (g : Group) (n : Nat) (w : DWord) (l : Label) : Group :=
  let g1 := (g.sset n w).setSsd n { g.ssd n with lbl := Label.max (g.ssd n).lbl l }
  if g.sget n = w then g1 else { g1 with spin := { g1.spin with silent := false } }

/-- An element is written to its thread's destination (13 R273). -/
def Group.loadWrite (g : Group) (ld : Load) (i : Nat) (raw : Nat) (l : Label) (tag : Bool) : Group :=
  let (size, val) := match ld.kind with
    | .plain size pos sx => (size, elemValue size pos sx raw)
    | .cap => (4, raw % 2 ^ 128)
    | .atomic 8 => (3, raw % 2 ^ 64)
    | .atomic _ => (2, raw % 2 ^ 32)
  match ld.dst with
  | .v n =>
    let g1 := (List.range (sizeRegs size).1).foldl (fun g j =>
      g.putV (n.val + j) i (BitVec.ofNat 32 (val / 2 ^ (32 * j))) l) g
    if ld.kind == .cap then g1.setVtag (n.val / 4) i tag else g1
  | .s n =>
    let g1 := (List.range (sizeRegs size).2).foldl (fun g j =>
      g.putS (n.val + j) (BitVec.ofNat 64 (val / 2 ^ (64 * j))) l) g
    if ld.kind == .cap then g1.setStag (n.val / 2) tag else g1
  | _ => g

/-- Set the status of an element. -/
def Load.setElem (ld : Load) (i : Nat) (st : ElemStatus) : Load :=
  { ld with elems := ld.elems.map (fun x => if x.thread = i then { x with status := st } else x) }

/-- Change one load of a group. -/
def Group.modLoad (g : Group) (iseq : Nat) (h : Load → Load) : Group :=
  { g with loads := g.loads.map (fun ld => if ld.iseq = iseq then h ld else ld) }

/-- An element fails (13 R274) or waits for a page. -/
def State.elemStatus (s : State) (team gid iseq i : Nat) (st : ElemStatus) : State :=
  s.modGroup team gid (fun g => g.modLoad iseq (fun ld => ld.setElem i st))

/-- An element reads its value, which is written to its register. -/
def State.elemRead (s : State) (team gid : Nat) (ld : Load) (i : Nat) (got : Got) : State :=
  s.modGroup team gid (fun g =>
    (g.loadWrite ld i (natOfBytes got.bytes) got.lbl got.tag).modLoad ld.iseq (fun x => x.setElem i .delivered))

/-- The load of a group by its issue number. -/
def Group.load? (g : Group) (iseq : Nat) : Option Load := g.loads.find? (fun ld => ld.iseq == iseq)

/-- The element of a thread. -/
def Load.elem? (ld : Load) (i : Nat) : Option LoadElem := ld.elems.find? (fun x => x.thread == i)

/-- The function of a team. -/
def State.fnOfTeam (s : State) (team : Nat) : Nat :=
  match (s.team? team).bind (fun t => s.grid? t.grid) with
  | some gr => match s.ctx? gr.colour with | some c => c.fn | none => gr.fn
  | none => 0

/-- A value-returning atomic: its elements are written by its requests, never by a read of their own (13 R283). -/
def LoadKind.isAtomic : LoadKind → Bool
  | .atomic _ => true
  | _ => false

/-- The translation is at hand. -/
def Trans.isOk : Trans → Bool
  | .ok _ => true
  | _ => false

/-- Why a part of a device load cannot be delivered (13 R274): an uncorrectable sector, a compute-only sector. -/
def State.partFault (s : State) (p : Nat × Nat) : Option (Byte × Nat) :=
  match s.badSec? p.1 p.2 with
  | some sec => some (cUNCORR, 32 * sec)
  | none => if s.coAt p.1 p.2 then some (cCOREAD, p.1) else none

/-- An element that reads device or host memory reads it now, as far as it can (12 R251; 13 R274; 18 R408). The lowest-addressed
part that fails or waits decides (12 R267). -/
def State.readElem (s : State) (team gid : Nat) (ld : Load) (x : LoadElem) : State :=
  match s.group? team gid with
  | none => s
  | some g =>
    if x.status != .waiting || ld.kind.isAtomic || isWin x.addr || (s.team? team).any (fun t => t.status == .saved) then s
    else if isHost x.addr then
      let fn := s.fnOfTeam team
      let ps := s.transParts fn x.colour x.addr x.bytes false
      match ps.find? (fun p => !p.2.2.isOk) with
      | some (a, _, .denied) => s.elemStatus team gid ld.iseq x.thread (.failed cHDENIED a)
      | some (a, _, .page) => s.elemStatus team gid ld.iseq x.thread (.pageWait a)
      | some _ =>
        (ps.filterMap (fun p => match p.2.2 with | .ask a b => some (a, b) | _ => none)).foldl
          (fun s q => s.askAts fn q.1 q.2 false false) s
      | none =>
        match ps.find? (fun p => match p.2.2 with | .ok h => s.hostLost h p.2.1 | _ => false) with
        | some (a, n, h) =>
          let off := match h with | .ok h => s.hostLostAt h n | _ => 0
          s.elemStatus team gid ld.iseq x.thread (.failed cUNCORR ((a + off) / 32 * 32))
        | none =>
        let (s1, got) := s.readParts g.core x.colour
          (ps.map (fun p => (p.1, p.2.1, match p.2.2 with | .ok h => some h | _ => none))) x.mins
        s1.elemRead team gid ld x.thread { got with tag := false }
    else
      match (lineParts x.addr x.bytes).findSome? s.partFault with
      | some (c, a) => s.elemStatus team gid ld.iseq x.thread (.failed c a)
      | none =>
        let (s1, got) := s.readParts g.core x.colour ((lineParts x.addr x.bytes).map (fun p => (p.1, p.2, none))) x.mins
        if got.co then s1.elemStatus team gid ld.iseq x.thread (.failed cCOREAD x.addr)
        else if s1.grids.any (fun p => p.2.ovflMeets x.addr x.bytes) then
          let (bs, s2) := s1.drawBytes x.bytes
          s2.elemRead team gid ld x.thread { got with bytes := bs, tag := false }
        else
          let k : TCap := ⟨BitVec.ofNat 128 (natOfBytes got.bytes), true⟩
          s1.elemRead team gid ld x.thread { got with tag := x.keepTag && got.tag && !s.isRevoked k }

/-- Read every waiting element of a group that a test selects, in issue order. -/
def State.readElems (s : State) (team gid : Nat) (sel : Load → LoadElem → Bool) : State :=
  match s.group? team gid with
  | none => s
  | some g =>
    g.loads.foldl (fun s ld => ld.elems.foldl (fun s x => if sel ld x then s.readElem team gid ld x else s) s) s

/-- Some element of a group still waits. -/
def Group.anyWaiting (g : Group) (sel : Load → LoadElem → Bool) : Bool :=
  g.loads.any (fun ld => ld.elems.any (fun x => x.status == .waiting && sel ld x))

/-- The first element that waits for a page, in issue order and by thread. -/
def Group.firstPage (g : Group) : Option (Nat × Nat) :=
  g.loads.findSome? (fun ld => ld.elems.findSome? (fun x =>
    match x.status with | .pageWait a => some (x.thread, a) | _ => none))

/-! ### Ordered adds (11 R246; 13 R287 to R290) -/

/-- The order of contributions. -/
def Contrib.before (a b : Contrib) : Bool :=
  if a.kid ≠ b.kid then decide (a.kid < b.kid)
  else if a.rank ≠ b.rank then decide (a.rank < b.rank)
  else decide (a.seq < b.seq)

/-- Insert in order. -/
def insertBy {α : Type} (lt : α → α → Bool) (x : α) : List α → List α
  | [] => [x]
  | y :: ys => if lt y x then y :: insertBy lt x ys else x :: y :: ys

/-- Sort by a strict order. -/
def sortBy {α : Type} (lt : α → α → Bool) (xs : List α) : List α := xs.foldl (fun a x => insertBy lt x a) []

/-- Free the overflow entry of a contribution that a summing event takes or that its team's termination discards: USED becomes 0
(13 R288). -/
def State.freeEntry (s : State) (c : Contrib) : State :=
  match c.entry, s.grid? c.grid with
  | some k, some gr => s.pointWrite (gr.ovfl.bounds.1.toNat + 32 * k + 15) [(0, 0xFF)] 0 false
  | _, _ => s

/-- Take the contributions that a test selects out of the engines and the overflow area. -/
def State.takeContribs (s : State) (p : Contrib → Bool) : State :=
  let s1 := { s with contribs := s.contribs.filter (fun c => !p c) }
  (s.contribs.filter p).foldl State.freeEntry s1

/-- A summing event of one target (11 R246, 13 R287). A target in a compute-only sector is not written (18 R402); one whose old
value cannot be corrected stays uncorrectable (13 R278). -/
def State.sumTarget (s : State) (grid target : Nat) : State :=
  let mine (c : Contrib) : Bool := c.grid == grid && c.target == target
  let cs := sortBy Contrib.before (s.contribs.filter mine)
  let old := BitVec.ofNat 32 (natOfBytes (bytesAt s.mem target 4))
  let v := cs.foldl (fun (v : Word) c => (faddRne v c.value).1) old
  let l := cs.foldl (fun l c => Label.max l c.lbl) 0
  if cs.isEmpty then s
  else
    let s1 := s.takeContribs mine
    match s.badSec? target 4 with
    | some sec => { s1 with unc := mset false s1.unc sec true }
    | none =>
      if s.coAt target 4 then s1
      else (s1.pointWrite target (fullMask (bytesOfNat 4 v.toNat)) l false).softTouch target 4

/-- The targets of a grid that a test selects, in rising order. -/
def State.targets (s : State) (grid : Nat) (p : Nat → Bool) : List Nat :=
  (sortBy (fun a b : Nat => decide (a < b)) ((s.contribs.filter (fun c => c.grid == grid && p c.target)).map (·.target))).eraseDups

/-- Summing events of every target that a test selects (13 R289). -/
def State.sumTargets (s : State) (grid : Nat) (p : Nat → Bool) : State :=
  (s.targets grid p).foldl (fun s t => s.sumTarget grid t) s

/-- The layout of an overflow entry (13 R288). -/
def Contrib.entryBytes (c : Contrib) : List Byte :=
  bytesOfNat 8 c.target ++ bytesOfNat 4 c.value.toNat ++ bytesOfNat 2 c.rank ++ [c.lbl.setWidth 8, 1] ++
  bytesOfNat 4 c.kid ++ bytesOfNat 4 c.seq ++ List.replicate 8 0

/-- The next seq of a thread's contributions to a target (11 R246, 13 R287): their number so far. That the first has seq 0 is
DESIGN CHOICE, log entry 104. -/
def Grid.nextSeq (gr : Grid) (c : Contrib) : Nat :=
  ((gr.seqs.find? (fun x => x.1 == c.kid && x.2.1 == c.rank && x.2.2.1 == c.target)).map (·.2.2.2)).getD 0

/-- A contribution counted. -/
def Grid.bumpSeq (gr : Grid) (c : Contrib) : Grid :=
  { gr with seqs := (c.kid, c.rank, c.target, gr.nextSeq c + 1) ::
      gr.seqs.filter (fun x => !(x.1 == c.kid && x.2.1 == c.rank && x.2.2.1 == c.target)) }

/-- A contribution arrives at its engine (13 R287, R288): it is held there, or in the overflow area; `none` when there
is no room, and then it does not count in `seq` (DESIGN CHOICE, log entry 104). -/
def State.holdContrib (s : State) (gr : Grid) (c : Contrib) : Option State :=
  let c := { c with seq := gr.nextSeq c }
  let s1 := s.setGrid (gr.bumpSeq c)
  if (s.contribs.filter (fun x => x.cluster == c.cluster && x.entry.isNone)).length < 65536 then
    some { s1 with contribs := s.contribs ++ [c] }
  else if !gr.ovfl.tag then none
  else
    let (b, t) := gr.ovfl.bounds
    let used := s.contribs.filterMap (fun x => if x.grid = c.grid then x.entry else none)
    match (List.range ((t - b).toNat / 32)).find? (fun k => !used.contains k) with
    | none => none
    | some k =>
      let a := b.toNat + 32 * k
      some (({ s1 with contribs := s.contribs ++ [{ c with entry := some k }] }).pointWrite a (fullMask c.entryBytes)
        c.lbl false)

/-! ### Atomic requests -/

/-- The new value of an atomic operation, none when it writes nothing (13 R284 to R286). -/
def atomNew (op : AtomOp) (width : Nat) (old data cmp : Nat) : Option Nat :=
  let f (g : Word → Word → Word) : Option Nat := some (g (BitVec.ofNat 32 old) (BitVec.ofNat 32 data)).toNat
  match op with
  | .add => some ((old + data) % 2 ^ (8 * width))
  | .exch => some data
  | .maxu => some (max old data)
  | .orr => some (old ||| data)
  | .fadd => f (fun a b => (faddRne a b).1)
  | .fmin => f (fun a b => fminmax32 false a b)
  | .fmax => f (fun a b => fminmax32 true a b)
  | .ord => none
  | .cas => if old = cmp then some data else none

/-- One element of a request at its engine (13 R283; 18 R402). What it reads in an overflow area is free (13 R288). -/
def State.atomElem (s : State) (t : Team) (g : Group) (ld : Load) (r : AtomReq) (x : AtomElem) : State :=
  let line := x.addr / 128
  let s := (s.writeBackAll g.core line x.colour)
  let s := (s.dropCopy (.l1 g.core) line x.colour).dropCopy (.rdc (s.dieOfCore g.core)) line x.colour
  match s.partFault (x.addr, r.width), s.grid? t.grid with
  | some (c, a), _ => s.elemStatus g.team g.gid r.iseq x.thread (.failed c a)
  | none, some gr =>
    if r.op == .ord then
      match s.holdContrib gr ⟨gr.id, t.id, t.kid, g.gid * gr.width + x.thread, 0, x.addr, x.data.setWidth 32, x.lbl,
          s.homeCluster x.addr, none⟩ with
      | some s1 => (s1.modTeam t.id (fun t => if t.contributed.contains x.addr then t
            else { t with contributed := t.contributed ++ [x.addr] })).elemStatus g.team g.gid r.iseq x.thread .delivered
      | none => s.elemStatus g.team g.gid r.iseq x.thread (.failed cORDOVF x.addr)
    else
      let (got, s) : Got × State :=
        if s.grids.any (fun p => p.2.ovflMeets x.addr r.width) then
          let (bs, s') := s.drawBytes r.width
          ({ s.readPoint x.addr r.width with bytes := bs }, s')
        else (s.readPoint x.addr r.width, s)
      let s1 :=
        match atomNew r.op r.width (natOfBytes got.bytes) x.data.toNat x.cmp.toNat with
        | some v => (s.pointWrite x.addr (fullMask (bytesOfNat r.width v)) x.lbl false).softTouch x.addr r.width
        | none => s
      s1.elemRead g.team g.gid ld x.thread got
  | none, none => s

/-- An atomic engine applies one request: all its elements together, in rising rank (13 R283). -/
def State.applyAtom (s : State) (r : AtomReq) : State :=
  let s0 := { s with atoms := mdel s.atoms r.id }
  match s.group? r.team r.gid, s.team? r.team with
  | some g, some t =>
    let ld := (g.load? r.iseq).getD ⟨r.iseq, 0, 0, .none, .atomic r.width, []⟩
    r.elems.foldl (fun s x => s.atomElem t g ld r x) s0
  | _, _ => s0

/-- The requests of a group that a test selects reach their engines. -/
def State.applyAtoms (s : State) (team gid : Nat) (sel : AtomReq → Bool) : State :=
  s.atoms.foldl (fun s p => if p.2.team = team ∧ p.2.gid = gid ∧ sel p.2 then s.applyAtom p.2 else s) s

/-- A request touches a line that [a, a + n) meets. -/
def AtomReq.meets (r : AtomReq) (a n : Nat) : Bool :=
  r.elems.any (fun x => overlaps (x.addr / 128 * 128) 128 a n)

/-- Before a thread accesses [a, a + n): its earlier accesses to those bytes take effect (00 R2): its group's requests on
the line, and, before a write, its earlier load elements there. -/
def State.programOrder (s : State) (team gid i a n : Nat) (write : Bool) : State :=
  let s1 := s.applyAtoms team gid (fun r => r.meets a n)
  if write then s1.readElems team gid (fun _ x => x.thread == i && overlaps x.addr x.bytes a n) else s1

/-- A load element reads: after the earlier accesses of its thread to the same bytes (00 R2). -/
def State.loadReturn (s : State) (team gid iseq i : Nat) : State :=
  match (s.group? team gid).bind (fun g => g.load? iseq) with
  | none => s
  | some ld =>
    match (if ld.kind.isAtomic then none else ld.elem? i) with
    | none => s
    | some x =>
      let s1 := s.applyAtoms team gid (fun r => decide (r.iseq < iseq) && r.meets x.addr x.bytes)
      let s2 := s1.readElems team gid (fun l y =>
        decide (l.iseq < iseq) && y.thread == i && overlaps y.addr y.bytes x.addr x.bytes)
      s2.readElem team gid ld x

/-! ### Window accesses (03 R64) -/

/-- One window access comes before another that arrived later: they meet one register or line (03 R64), or one group makes both to one
tarn, whose order agrees with its program (12 R265). -/
def State.winBefore (s : State) (v w : WinAcc) : Bool :=
  match s.winTgt v.addr, s.winTgt w.addr with
  | some x, some y =>
    s.tgtSame x v.bytes y w.bytes ||
      (match x, y with
        | .tarn t c _, .tarn t' c' _ => t == t' && c == c' && v.byTeam == w.byTeam && v.byGid == w.byGid
        | _, _ => false)
  | _, _ => false

/-- No access that comes before one waits. -/
def State.winFirst (s : State) (w : WinAcc) : Bool := s.wins.all (fun p => p.1 ≥ w.id || !s.winBefore p.2 w)

/-- A window access can be performed: no run of the target group is in progress, no line is absent, and no access that comes before
it waits. -/
def State.winReady (s : State) (w : WinAcc) : Bool :=
  let idle := match s.winGroup w.addr with
    | some (team, gid) => (s.group? team gid).all (fun g => g.status != .running)
    | none => true
  idle && !s.winAbsent w.addr w.bytes none && s.winFirst w

/-- Perform a window access (03 R64, 13 R276, R278). A store that the target refuses only now, because its register has become
pending since it was accepted, stores nothing and owes its fault to the accessing group (DEDUCED, log entry 45). A capability that a
pass under way revokes is stored untagged (17 R390). -/
def State.winPerform (s : State) (w : WinAcc) : State :=
  let s0 := { s with wins := mdel s.wins w.id }
  match w.load with
  | none =>
    match s0.winFault w.addr w.bytes true none with
    | some c => s0.modGroup w.byTeam w.byGid (fun g =>
        if g.owed.isSome then g else { g with owed := some (c, s0.winFaddr (s0.winTgt w.addr) w.addr w.bytes c) })
    | none =>
      let k : TCap := ⟨BitVec.ofNat 128 (natOfBytes w.data), true⟩
      s0.winWrite w.addr (w.data.zip w.mask) w.lbl (w.tag.map (fun t => t && s0.storedTag k)) none
  | some (iseq, i) =>
    match (s0.group? w.byTeam w.byGid).bind (fun g => g.load? iseq) with
    | none => s0
    | some ld =>
      match s0.winFault w.addr w.bytes false none with
      | some c =>
        s0.elemStatus w.byTeam w.byGid iseq i (.failed c (s0.winFaddr (s0.winTgt w.addr) w.addr w.bytes c))
      | none =>
        let got := s0.winRead w.addr w.bytes
        let k : TCap := ⟨BitVec.ofNat 128 (natOfBytes got.bytes), true⟩
        s0.elemRead w.byTeam w.byGid ld i { got with tag := got.tag && w.tag == some true && !s0.isRevoked k }

/-- A window access is accepted: it joins those to be performed. -/
def State.addWin (s : State) (w : WinAcc) : State :=
  let (id, s1) := s.fresh
  { s1 with wins := mput s1.wins id { w with id := id } }

/-- Write packets of a source go to the core of a window address: one of another die joins its device set (12 R259). -/
def State.noteWin (s : State) (src : Source) (own a : Nat) : State :=
  let die := a / 2 ^ 48 % 8
  if die = own then s else s.noteSent src die

/-! ### Scopes, releases and fences (12 R247 to R259) -/

/-- The private levels below the meeting level of a scope: L1, remote-data cache (12 R247, R251). -/
def scopeLevels (pair : Bool) (scope : Nat) : Bool × Bool :=
  if scope ≤ 1 then (false, false)
  else if scope = 2 then (pair, false)
  else if scope ≤ 5 then (true, false)
  else (true, true)

/-- Write back the dirty bits of the lines that a test selects from the private levels of a core (12 R255, R258). -/
def State.flushLines (s : State) (core : Nat) (lv : Bool × Bool) (sel : Nat → Bool) : State :=
  let go (s : State) (c : CacheId) : State :=
    (s.copies.filter (fun k => k.cache == c && sel k.line && k.isDirty)).foldl (fun s k => s.writeBack c k.line k.colour) s
  let s1 := if lv.1 then go s (.l1 core) else s
  if lv.2 then go s1 (.rdc (s.dieOfCore core)) else s1

/-- V of the sync object at an address (13 R291). -/
def State.syncV (s : State) (a : Nat) : DWord := BitVec.ofNat 64 (natOfBytes (bytesAt s.mem a 8))

/-- V after a release (13 R293). -/
def relNew (op : Nat) (v a : DWord) : DWord :=
  if op = 0 then v + a else if op = 1 then a else if v.toNat < a.toNat then a else v

/-- Entries of a team that hold the sync object at an address (12 R254). -/
def Binding.holds (b : Binding) (a : Nat) : Bool := b.sync.tag && b.sync.addr == a

/-- The region of an entry holds the `n` bytes from an address (12 R254, 13 R292). -/
def Binding.covers (b : Binding) (a n : Nat) : Bool := b.region.tag && b.sync.tag && b.region.inBounds a n

/-- The region of an entry meets [a, a + n). -/
def Binding.meets (b : Binding) (a n : Nat) : Bool :=
  b.region.tag && b.sync.tag &&
    (let (lo, hi) := b.region.bounds; decide (lo < ((a + n : Nat) : Int)) && decide ((a : Int) < hi))

/-- The region of an entry meets a line. -/
def Binding.meetsLine (b : Binding) (line : Nat) : Bool :=
  b.region.tag && (let (lo, hi) := b.region.bounds; decide (lo < ((128 * line + 128 : Nat) : Int)) && decide (((128 * line : Nat) : Int) < hi))

/-- An acquire of the object at an address performs (12 R256). -/
def State.acquired (s : State) (team a scope : Nat) : State :=
  s.modTeam team (fun t =>
    let lv := scopeLevels (t.cores.length == 2) scope
    { t with binds := mmap (fun b =>
        if b.holds a then { b with stampL1 := if lv.1 then s.now else b.stampL1, stampRdc := if lv.2 then s.now else b.stampRdc }
        else b) t.binds })

/-- The markers of 12 R259 that sources send: one down every path to every die of their device sets, and at peers scope to
every device of their peer sets. -/
def State.markersOf (s : State) (srcs : List Source) (peers : Bool) : List (Nat × Nat) :=
  let to_ := ((s.sent.filter (fun p => srcs.contains p.1 && (peers || decide (p.2 < 64)))).map (·.2)).eraseDups
  to_.flatMap (fun d => (List.range s.part.paths).map (fun p => (d, p)))

/-- Write back what the stores of a group put into the private levels below its meeting level of a scope (12 R258). -/
def State.flushWritten (s : State) (team gid scope : Nat) : State :=
  match s.group? team gid, s.team? team with
  | some g, some t =>
    let s1 := s.flushLines g.core (scopeLevels (t.cores.length == 2) scope) (fun line => g.written.contains line)
    if scope ≥ 6 then s1.modGroup team gid (fun g => { g with written := [] }) else s1
  | _, _ => s

/-- The write-backs of an operation (step 2 of 12 R255 and R258). -/
def State.syncFlush (s : State) (o : SyncOp) : State :=
  match o.kind with
  | .rel a _ _ =>
    match s.group? o.team o.gid, s.team? o.team with
    | some g, some t => s.flushLines g.core (scopeLevels (t.cores.length == 2) o.scope)
        (fun line => t.binds.any (fun b => b.2.holds a && b.2.meetsLine line))
    | _, _ => s
  | .fence => s.flushWritten o.team o.gid o.scope
  | _ => s

/-- What follows from a release that performed at V (13 R294; 16 R358): the threads of every team that holds the object are
demoted no more, and an `acq.ge` that waits and now finds its threshold met performs. -/
def State.released (s : State) (a : Nat) : State :=
  let holder (team : Nat) : Bool := (mfind s.teams team).any (fun t => t.binds.any (fun b => b.2.holds a))
  let free (g : Group) : Group :=
    if g.threads.any (fun t => t.demoted || t.dleft != 0) && holder g.team then
      { g with threads := g.threads.map (fun t => { t with demoted := false, dleft := 0 }) }
    else g
  let calm (t : Team) : Team := if t.status == .saved && t.binds.any (fun b => b.2.holds a) then { t with calmed := true } else t
  let s1 : State := { s with groups := mmap free s.groups, teams := mmap calm s.teams }
  s1.groups.foldl (fun s p =>
    match p.2.status, p.2.wait, s.team? p.2.team with
    | .waiting, .acqGe e scope thr, some t =>
      if !(mget Binding.empty t.binds e).holds a || decide ((s.syncV a).toNat < thr.toNat) then s
      else if t.status == .saved then s.modGroup t.id p.2.gid (fun g => { g with met := true })
      else if t.status == .admitted || t.status == .saving then
        (s.acquired t.id a scope).modGroup t.id p.2.gid (fun g => g.enter s.clk .ready .none)
      else s
    | _, _, _ => s) s1

/-- A release performs: V is written at its point (12 R255; 13 R293). V in an uncorrectable sector is lost (13 R278). -/
def State.releaseAt (s : State) (a op : Nat) (amount : DWord) : State :=
  match s.badSec? a 8 with
  | some sec => { s with unc := mset false s.unc sec true }
  | none => (s.pointWrite a (fullMask (bytesOfNat 8 (relNew op (s.syncV a) amount).toNat)) 0 false).released a

/-- The effect of a synchronisation operation whose markers are gathered. -/
def State.syncPerform (s : State) (o : SyncOp) : State :=
  let s0 := { s with
    syncs := mdel s.syncs o.id
    sent := s.sent.filter (fun p => decide (o.scope < 6) || !o.sources.contains p.1 || (p.2 ≥ 64 && o.scope != 7)) }
  match o.kind with
  | .rel a op v =>
    let grid := ((s0.team? o.team).map (·.grid)).getD 0
    let binds := ((s0.team? o.team).map (fun t => t.binds.map (·.2))).getD []
    (s0.sumTargets grid (fun t => binds.any (fun b => b.holds a && b.covers t 4))).releaseAt a op v
  | .fence =>
    let lv := scopeLevels (((s0.team? o.team).map (fun t => t.cores.length == 2)).getD false) o.scope
    s0.modGroup o.team o.gid (fun g =>
      { g with fenceL1 := if lv.1 then s0.now else g.fenceL1, fenceRdc := if lv.2 then s0.now else g.fenceRdc,
               fencing := if g.fencing = o.id then 0 else g.fencing })
  | .gather => s0.modGroup o.team o.gid (fun g => { g with fencing := if g.fencing = o.id then 0 else g.fencing })
  | .engine cid =>
    match mfind s0.cmds cid with
    | some c =>
      let s1 := { s0 with cmds := mput s0.cmds cid { c with state := .releasing true } }
      match c.rcd.rel with
      | some (_, op) => s1.releaseAt c.rcd.syncr.addr op c.rcd.relv
      | none => s1
    | none => s0
  | .grid id =>
    match s0.grid? id with
    | some g => s0.setGrid { g with gathered := true }
    | none => s0

/-- A load of the group below an issue number has not read its value yet (step 1 of 12 R255 and R258). -/
def Group.earlierWaits (g : Group) (upto : Nat) : Bool :=
  g.loads.any (fun ld => decide (ld.iseq < upto) && ld.elems.any (fun x =>
    match x.status with
    | .waiting => true
    | .pageWait _ => true
    | _ => false))

/-- A window store of a group, accepted before an identity was given, is not performed yet (12 R255 and R258, step 1; R265). -/
def State.winWaits (s : State) (team gid id : Nat) : Bool :=
  s.wins.any (fun p => p.2.byTeam == team && p.2.byGid == gid && p.2.load.isNone && decide (p.1 < id))

/-- An operation is held: by an earlier load of its group that has not read, by an earlier store through a window or an earlier
atomic request that has not been performed, or by an earlier release of the group to the same object (12 R255, R258; 13 R289, R293). -/
def State.syncHeld (s : State) (o : SyncOp) : Bool :=
  (s.group? o.team o.gid).any (fun g => g.earlierWaits o.upto) || s.winWaits o.team o.gid o.id ||
  s.atoms.any (fun p => p.2.team == o.team && p.2.gid == o.gid && decide (p.2.iseq < o.upto)) ||
  (match o.kind with
    | .rel a _ _ => s.syncs.any (fun p => decide (p.1 < o.id) && p.2.team == o.team && p.2.gid == o.gid &&
        (match p.2.kind with | .rel b _ _ => b == a | _ => false))
    | _ => false)

/-- An operation goes on as far as it can (12 R255, R258, R259): its write-backs leave, and markers behind them at device and
peers scope; once those are acknowledged it writes back what a region bound since then still holds dirty, and performs. -/
def State.syncAdvance (s : State) (o : SyncOp) : State :=
  if s.syncHeld o || (o.flushed && !o.markers.isEmpty) then s
  else
    let s1 := s.syncFlush o
    let o1 : SyncOp :=
      if o.flushed && s1.copies == s.copies then o
      else { o with flushed := true, markers := if 6 ≤ o.scope then s1.markersOf o.sources (o.scope == 7) else [] }
    if o1.markers.isEmpty then s1.syncPerform o1 else { s1 with syncs := mput s1.syncs o.id o1 }

/-- Every operation goes on, in order of issue. -/
def State.syncSweep (s : State) : State :=
  s.syncs.foldl (fun s p =>
    match mfind s.syncs p.1 with
    | some o => s.syncAdvance o
    | none => s) s

/-- The accesses of a group to tarns that can be performed are performed, in the order of their issue: they precede what the group
accesses next (12 R265). -/
def State.drainTarn (s : State) (team gid : Nat) : State :=
  let mine (p : Nat × WinAcc) : Bool := p.2.byTeam == team && p.2.byGid == gid && isTarnWin p.2.addr
  if s.wins.any mine then
    (s.wins.foldl (fun s p =>
      match mfind s.wins p.1 with
      | some w => if mine p && s.winReady w then s.winPerform w else s
      | none => s) s).syncSweep
  else s

/-- Issue a synchronisation operation (12 R255, R258, R259). -/
def State.syncIssue (s : State) (team gid : Nat) (kind : SyncKind) (scope upto : Nat) (srcs : List Source) : State :=
  let (id, s1) := s.fresh
  let s2 := { s1 with syncs := mput s1.syncs id ⟨id, team, gid, kind, scope, upto, false, srcs, []⟩ }
  let s3 := match kind with
    | .fence => s2.modGroup team gid (fun g => { g with fencing := id })
    | .gather => s2.modGroup team gid (fun g => { g with fencing := id })
    | _ => s2
  s3.syncSweep

/-- The sources that carry the write packets of a group on a core: its L1 and the remote-data cache of its die. -/
def State.sourcesOf (s : State) (core : Nat) : List Source := [.cache (.l1 core), .cache (.rdc (s.dieOfCore core))]

/-- A flush marker reaches its destination and is acknowledged (12 R259). -/
def State.markerArrives (s : State) (op die path : Nat) : State :=
  match mfind s.syncs op with
  | none => s
  | some o =>
    if !o.markers.contains (die, path) then s
    else
      ({ s with syncs := mput s.syncs op { o with markers := o.markers.filter (fun m => m != (die, path)) } }).syncSweep

/-! ### The completion of qwait (13 R274, R275) -/

/-- A load that a `qwait` covers. -/
def Load.covered (ld : Load) (mask : BitVec 8) : Bool := mask.getLsbD ld.queue.val

/-- Every covered load has read its values, but for elements that wait for a page. -/
def Group.qwaitReady (g : Group) (mask : BitVec 8) : Bool := !g.anyWaiting (fun ld _ => ld.covered mask)

/-- The failure of an element: code and address. -/
def LoadElem.failure (x : LoadElem) : Option (Byte × Nat) :=
  match x.status with
  | .failed c a => some (c, a)
  | .pageWait a => some (cHPAGE, a)
  | _ => none

/-- The deferred fault that a `qwait` raises: that of the earliest covered load, for its lowest failing thread. -/
def Group.qwaitFault (g : Group) (mask : BitVec 8) : Option (Load × Nat × Byte × Nat) :=
  (g.loads.filter (fun ld => ld.covered mask)).findSome? (fun ld =>
    ld.elems.findSome? (fun x => x.failure.map (fun f => (ld, x.thread, f.1, f.2))))

/-- The fault as taken at the `qwait` (19 R419, R421). -/
def qwaitExc (f : Load × Nat × Byte × Nat) : Exc :=
  { code := f.2.2.1, fthread := some f.2.1, faddr := f.2.2.2, lpc := f.1.pc.toNat }

/-- Every failing element of a load is dropped once its fault is taken (19 R420). -/
def Group.dropFailing (g : Group) (iseq : Nat) : Group :=
  g.modLoad iseq (fun ld => { ld with elems := ld.elems.map (fun x =>
    if x.failure.isSome then { x with status := .dropped } else x) })

/-- The effect of a completed `qwait`: pending bits cleared, stamps moved, the loads forgotten. -/
def Group.qwaitDone (g : Group) (mask : BitVec 8) (now : Nat) : Group :=
  let clr (d : Side) : Side := if d.pend && mask.getLsbD d.pq.val then { d with pend := false, pq := 0 } else d
  { g with
    vside := g.vside.foldr (fun p m => mset Side.clear m p.1 (clr p.2)) []
    sside := g.sside.foldr (fun p m => mset Side.clear m p.1 (clr p.2)) []
    loads := g.loads.filter (fun ld => !ld.covered mask)
    qstamp := (List.range 8).foldl (fun m n => if mask.getLsbD n then mset 0 m n now else m) g.qstamp }

end Sys2Proof.Machine
end

