-- ==== Sys2Proof/Machine/Alu.lean ====
section
/-! DEFINITION. Machine/Alu.lean: what the result instructions share (08 R149 to R151, 11 R235, R236): operand checks,
EARLY_READ, one result per taking-part thread, flags and FP_TRAP, and the write of the destination. -/

namespace Sys2Proof.Machine

open Sys2Proof

/-- A destination of these classes (03 R51, R53): an s or c register needs uniform sources; `grp` says that the
description gives a group-wide result for a c register. -/
def Env.dstOk (e : Env) (grp : Bool) (xs : List Src) : Bool :=
  match e.f.dst with
  | .s _ => xs.all e.uniform
  | .c _ => grp || xs.all e.uniform
  | _ => true

/-- SRCB holds 475 when the B operand is IMM (08 R149). -/
def Env.bOk (e : Env) : Bool := !e.immB || e.f.b == .zero

/-- No operand of a 64-bit integer instruction is a v, p, c or latch register (06 R115). -/
def srcWideOk : Src → Bool
  | .v _ => false
  | .p _ => false
  | .c _ => false
  | .lat _ => false
  | _ => true

/-- The same for the destination. -/
def dstWideOk : Dst → Bool
  | .v _ => false
  | .p _ => false
  | .c _ => false
  | .lat _ => false
  | _ => true

/-- Some operand register is pending (13 R273): the sources and the destination. -/
def Env.early (e : Env) (xs : List Src) : Bool := xs.any e.pendSrc || e.pendDst e.f.dst

/-- One result per taking-part thread: a value or none (08 R159), and flags. -/
abbrev Lane := Nat → Option DWord × Flags

/-- Results of the taking-part threads. -/
def Env.results (e : Env) (h : Lane) : List (Nat × DWord) :=
  e.parts.filterMap (fun i => (h i).1.map (fun v => (i, v)))

/-- The union of the flags of the taking-part threads (07 R147). -/
def Env.flagsOf (e : Env) (h : Lane) : Flags := e.parts.foldl (fun a i => a ||| (h i).2) 0

/-- Commit a result: write it and OR its flags (08 R150). -/
def Env.commitResult (e : Env) (s : State) (vals : List (Nat × DWord)) (fl : Flags) (tn : Taint) (l : Label)
    (wide : Bool) : Out :=
  .next (s.setGroup ((e.writeResult vals tn l wide e.isUniform).orFlags fl l))

/-- A result instruction (08 R149 to R151): `ok` are the operand rules of decode step 9, `xs` the operands read, `bad`
an operand value that raises ILLEGAL_OPERAND, `trap` whether its class raises FP_TRAP. -/
def Env.alu (e : Env) (ok : Bool) (xs : List Src) (bad : Bool) (trap wide : Bool) (h : Lane) (s : State) : Out :=
  if !ok || !e.bOk || !e.dstOk false xs then .fail cILOPER
  else if e.early xs then .fail cEARLY
  else if bad then .fail cILOPER
  else
    let fl := e.flagsOf h
    if trap && (fl &&& e.g.fpten) != 0 then
      .exc { code := cFPTRAP, xflags := fl,
             fthread := (e.parts.filter (fun i => ((h i).2 &&& e.g.fpten) != 0)).head? }
    else e.commitResult s (e.results h) fl (e.taints xs) (e.lbls xs) wide

/-- A lane with a value and no flag. -/
def lane (v : Nat → DWord) : Lane := fun i => (some (v i), 0)

/-- A 32-bit value as a result. -/
def w64 (w : Word) : DWord := w.setWidth 64

end Sys2Proof.Machine
end

