-- ==== Sys2Proof/Machine/Integer.lean ====
section
/-! DEFINITION. Machine/Integer.lean: the integer class and `med3` (08 R153 to R165). -/

namespace Sys2Proof.Machine

open Sys2Proof

/-- TY is s32 or s64. -/
def Env.sgn (e : Env) : Bool := e.f.mod.getLsbD 0
/-- TY is u64 or s64. -/
def Env.wide (e : Env) : Bool := e.f.mod.getLsbD 1
/-- n of 08 R149. -/
def Env.bw (e : Env) : Nat := if e.wide then 64 else 32
/-- MOD[2]. -/
def Env.sat (e : Env) : Bool := e.f.mod.getLsbD 2
/-- MOD[5:3]. -/
def Env.modHi (e : Env) : Nat := (e.f.mod.extractLsb' 3 3).toNat

/-- The operand rules of the class: QUAL zero, and a 64-bit TY only on s registers (06 R115). -/
def Env.intOk (e : Env) (qualOk : Bool) : Bool :=
  qualOk && (!e.wide || (dstWideOk e.f.dst && srcWideOk e.f.a && srcWideOk e.f.b && srcWideOk e.f.c && srcWideOk e.f.d))

/-- Sources read: those of the row, B left out when IMM takes its place (08 R149). -/
def Env.srcs (e : Env) : List Src :=
  (if e.row.a then [e.f.a] else []) ++ (if e.row.b && !e.immB then [e.f.b] else []) ++
  (if e.row.c then [e.f.c] else []) ++ (if e.row.d then [e.f.d] else [])

/-- UInt of the low n bits of a source. -/
def Env.uA (e : Env) (i : Nat) : Nat := (e.read e.f.a i).toNat % 2 ^ e.bw
/-- UInt of the B operand. -/
def Env.uB (e : Env) (i : Nat) : Nat := (e.readB i).toNat % 2 ^ e.bw
/-- UInt of C. -/
def Env.uC (e : Env) (i : Nat) : Nat := (e.read e.f.c i).toNat % 2 ^ e.bw
/-- Int(A) of 08 R153. -/
def Env.iA (e : Env) (i : Nat) : Int := intOf e.sgn e.bw (e.uA i)
/-- Int(B). -/
def Env.iB (e : Env) (i : Nat) : Int := intOf e.sgn e.bw (e.uB i)
/-- Int(C). -/
def Env.iC (e : Env) (i : Nat) : Int := intOf e.sgn e.bw (e.uC i)

/-- The low n bits of an exact value as a result: wrapping (08 R153). -/
def Env.wrap (e : Env) (v : Int) : DWord := BitVec.ofNat 64 (bitsOf e.bw v)

/-- The exact value v under SAT or wrapping (08 R153). -/
def Env.satWrap (e : Env) (v : Int) : Option DWord × Flags :=
  if e.sat then
    let lo : Int := if e.sgn then -(2 ^ (e.bw - 1) : Nat) else 0
    let hi : Int := if e.sgn then (2 ^ (e.bw - 1) : Nat) - 1 else (2 ^ e.bw : Nat) - 1
    if v < lo then (some (e.wrap lo), fSAT) else if v > hi then (some (e.wrap hi), fSAT) else (some (e.wrap v), 0)
  else (some (e.wrap v), 0)

/-- An arithmetic opcode of 08 R153: whether SAT is legal, MOD[5:3] zero, the exact value. -/
def intArith (satOk : Env → Bool) (v : Env → Nat → Int) (e : Env) : State → Out :=
  e.alu (e.intOk (e.f.qual == 0) && (!e.sat || satOk e) && e.modHi == 0) e.srcs false false e.wide
    (fun i => e.satWrap (v e i))

/-- A bitwise or counting opcode: MOD[5:2] zero, no flag (08 R155 to R163). -/
def intPlain (v : Env → Nat → Nat) (e : Env) : State → Out :=
  e.alu (e.intOk (e.f.qual == 0) && !e.sat && e.modHi == 0) e.srcs false false e.wide
    (lane (fun i => BitVec.ofNat 64 (v e i % 2 ^ e.bw)))

/-- `add` (08 R153). -/
def execAdd (f : Fields) (s : State) : Host.Outcome State Fault Refusal :=
  issue Row.add f true (intArith (fun _ => true) (fun e i => e.iA i + e.iB i)) s

/-- `sub` (08 R153). -/
def execSubb (f : Fields) (s : State) : Host.Outcome State Fault Refusal :=
  issue Row.subb f true (intArith (fun _ => true) (fun e i => e.iA i - e.iB i)) s

/-- `mul` (08 R153). -/
def execMul (f : Fields) (s : State) : Host.Outcome State Fault Refusal :=
  issue Row.mul f true (intArith (fun _ => true) (fun e i => e.iA i * e.iB i)) s

/-- `mulh` (08 R153): the high part. -/
def execMulh (f : Fields) (s : State) : Host.Outcome State Fault Refusal :=
  issue Row.mulh f true (intArith (fun _ => false) (fun e i => e.iA i * e.iB i / (2 ^ e.bw : Nat))) s

/-- `mad` (08 R153). -/
def execMad (f : Fields) (s : State) : Host.Outcome State Fault Refusal :=
  issue Row.mad f true (intArith (fun _ => true) (fun e i => e.iA i * e.iB i + e.iC i)) s

/-- `madh` (08 R153). -/
def execMadh (f : Fields) (s : State) : Host.Outcome State Fault Refusal :=
  issue Row.madh f true (intArith (fun _ => false) (fun e i => (e.iA i * e.iB i + e.iC i) / (2 ^ e.bw : Nat))) s

/-- `min` (08 R153). -/
def execMinn (f : Fields) (s : State) : Host.Outcome State Fault Refusal :=
  issue Row.minn f true (intArith (fun _ => false) (fun e i => min (e.iA i) (e.iB i))) s

/-- `max` (08 R153). -/
def execMaxx (f : Fields) (s : State) : Host.Outcome State Fault Refusal :=
  issue Row.maxx f true (intArith (fun _ => false) (fun e i => max (e.iA i) (e.iB i))) s

/-- `abs` (08 R153): TY must be s32 or s64. -/
def execAbss (f : Fields) (s : State) : Host.Outcome State Fault Refusal :=
  issue Row.abss f true (fun e s =>
    if !e.sgn then .fail cILOPER
    else intArith (fun _ => true) (fun e i => ((e.iA i).natAbs : Int)) e s) s

/-- `neg` (08 R153): SAT only with a signed TY. -/
def execNegg (f : Fields) (s : State) : Host.Outcome State Fault Refusal :=
  issue Row.negg f true (intArith (fun e => e.sgn) (fun e i => -(e.iA i))) s

/-- `addc` and `subc` (08 R153): CY gives the carry or borrow out. -/
def carryOp (v : Env → Nat → Int) (out : Nat → Int → Bool) (e : Env) : State → Out :=
  let cy := e.f.mod.getLsbD 3
  e.alu (e.intOk (e.f.qual == 0) && !e.sat && decide (e.modHi < 2)) e.srcs false false e.wide
    (lane (fun i => if cy then (if out e.bw (v e i) then 1 else 0) else e.wrap (v e i)))

/-- The carry in: 1 when C is not zero. -/
def Env.cin (e : Env) (i : Nat) : Int := if e.uC i = 0 then 0 else 1

/-- `addc` (08 R153). -/
def execAddc (f : Fields) (s : State) : Host.Outcome State Fault Refusal :=
  issue Row.addc f true (carryOp (fun e i => (e.uA i : Int) + e.uB i + e.cin i)
    (fun n v => decide (v ≥ ((2 ^ n : Nat) : Int)))) s

/-- `subc` (08 R153). -/
def execSubc (f : Fields) (s : State) : Host.Outcome State Fault Refusal :=
  issue Row.subc f true (carryOp (fun e i => (e.uA i : Int) - e.uB i - e.cin i) (fun _ v => decide (v < 0))) s

/-- Division truncating toward zero and its remainder, with the corners of 08 R154. -/
def divOp (rem : Bool) (e : Env) : State → Out :=
  e.alu (e.intOk (e.f.qual == 0) && !e.sat && e.modHi == 0) e.srcs false false e.wide (fun i =>
    let a := e.iA i
    let b := e.iB i
    if b = 0 then (some (if rem then e.wrap a else e.wrap (-1)), fDZ)
    else (some (e.wrap (if rem then a.tmod b else a.tdiv b)), 0))

/-- `idiv` (08 R154). -/
def execIdiv (f : Fields) (s : State) : Host.Outcome State Fault Refusal := issue Row.idiv f true (divOp false) s

/-- `irem` (08 R154). -/
def execIrem (f : Fields) (s : State) : Host.Outcome State Fault Refusal := issue Row.irem f true (divOp true) s

/-- The complement within n bits. -/
def Env.compl (e : Env) (x : Nat) : Nat := 2 ^ e.bw - 1 - x

/-- `and` (08 R155). -/
def execAndd (f : Fields) (s : State) : Host.Outcome State Fault Refusal :=
  issue Row.andd f true (intPlain (fun e i => e.uA i &&& e.uB i)) s

/-- `or` (08 R155). -/
def execOrr (f : Fields) (s : State) : Host.Outcome State Fault Refusal :=
  issue Row.orr f true (intPlain (fun e i => e.uA i ||| e.uB i)) s

/-- `xor` (08 R155). -/
def execXor (f : Fields) (s : State) : Host.Outcome State Fault Refusal :=
  issue Row.xor f true (intPlain (fun e i => e.uA i ^^^ e.uB i)) s

/-- `andn` (08 R155). -/
def execAndn (f : Fields) (s : State) : Host.Outcome State Fault Refusal :=
  issue Row.andn f true (intPlain (fun e i => e.uA i &&& e.compl (e.uB i))) s

/-- `orn` (08 R155). -/
def execOrn (f : Fields) (s : State) : Host.Outcome State Fault Refusal :=
  issue Row.orn f true (intPlain (fun e i => e.uA i ||| e.compl (e.uB i))) s

/-- `not` (08 R155). -/
def execNott (f : Fields) (s : State) : Host.Outcome State Fault Refusal :=
  issue Row.nott f true (intPlain (fun e i => e.compl (e.uA i))) s

/-- The shift amount k (08 R156): UInt(B[31:0]). -/
def Env.amount (e : Env) (i : Nat) : Nat := (e.readB32 i).toNat

/-- `shl` (08 R156). -/
def execShl (f : Fields) (s : State) : Host.Outcome State Fault Refusal :=
  issue Row.shl f true (intPlain (fun e i => if e.amount i < e.bw then e.uA i * 2 ^ e.amount i else 0)) s

/-- `shr` (08 R156). -/
def execShr (f : Fields) (s : State) : Host.Outcome State Fault Refusal :=
  issue Row.shr f true (intPlain (fun e i => if e.amount i < e.bw then e.uA i / 2 ^ e.amount i else 0)) s

/-- `sar` (08 R156): arithmetic for every TY. -/
def execSar (f : Fields) (s : State) : Host.Outcome State Fault Refusal :=
  issue Row.sar f true (intPlain (fun e i =>
    bitsOf e.bw (intOf true e.bw (e.uA i) / (2 ^ min (e.amount i) e.bw : Nat)))) s

/-- A rotated left by r below n. -/
def Env.rotl (e : Env) (a r : Nat) : Nat := a * 2 ^ r % 2 ^ e.bw + a / 2 ^ (e.bw - r)

/-- `rol` (08 R156). -/
def execRol (f : Fields) (s : State) : Host.Outcome State Fault Refusal :=
  issue Row.rol f true (intPlain (fun e i => e.rotl (e.uA i) (e.amount i % e.bw))) s

/-- `ror` (08 R156). -/
def execRor (f : Fields) (s : State) : Host.Outcome State Fault Refusal :=
  issue Row.ror f true (intPlain (fun e i => e.rotl (e.uA i) ((e.bw - e.amount i % e.bw) % e.bw))) s

/-- The number of bits of x below n that are 1. -/
def bitCount (n x : Nat) : Nat := ((List.range n).filter (fun j => x.testBit j)).length

/-- `popc` (08 R157). -/
def execPopc (f : Fields) (s : State) : Host.Outcome State Fault Refusal :=
  issue Row.popc f true (intPlain (fun e i => bitCount e.bw (e.uA i))) s

/-- Leading zero bits among n. -/
def leadZeros (n x : Nat) : Nat := if x = 0 then n else n - 1 - Nat.log2 x

/-- `clz` (08 R157). -/
def execClz (f : Fields) (s : State) : Host.Outcome State Fault Refusal :=
  issue Row.clz f true (intPlain (fun e i => leadZeros e.bw (e.uA i))) s

/-- Trailing zero bits among n. -/
def trailZeros (n x : Nat) : Nat := ((List.range n).find? (fun j => x.testBit j)).getD n

/-- `ctz` (08 R157). -/
def execCtz (f : Fields) (s : State) : Host.Outcome State Fault Refusal :=
  issue Row.ctz f true (intPlain (fun e i => trailZeros e.bw (e.uA i))) s

/-- Bit i moved to bit n − 1 − i. -/
def bitRev (n x : Nat) : Nat :=
  (List.range n).foldl (fun a j => if x.testBit j then a + 2 ^ (n - 1 - j) else a) 0

/-- `brev` (08 R157). -/
def execBrev (f : Fields) (s : State) : Host.Outcome State Fault Refusal :=
  issue Row.brev f true (intPlain (fun e i => bitRev e.bw (e.uA i))) s

/-- `bfe` (08 R158). -/
def execBfe (f : Fields) (s : State) : Host.Outcome State Fault Refusal :=
  issue Row.bfe f true (intPlain (fun e i =>
    let off := (e.read32 e.f.b i).toNat
    let w := (e.read32 e.f.c i).toNat
    if w = 0 ∨ off ≥ e.bw then 0
    else
      let w := min w (e.bw - off)
      bitsOf e.bw (intOf e.sgn w (e.uA i / 2 ^ off)))) s

/-- `bfi` (08 R159): a thread with width 0 or an offset out of range writes nothing. -/
def execBfi (f : Fields) (s : State) : Host.Outcome State Fault Refusal :=
  issue Row.bfi f true (fun e s =>
    e.alu (e.intOk (e.f.qual == 0) && !e.sat && e.modHi == 0) e.srcs false false e.wide (fun i =>
      let off := (e.read32 e.f.c i).toNat
      let w := (e.read32 e.f.d i).toNat
      if w = 0 ∨ off ≥ e.bw then (none, 0)
      else
        let w := min w (e.bw - off)
        let b := e.uB i
        let low := b % 2 ^ off
        let high := b / 2 ^ (off + w) * 2 ^ (off + w)
        (some (BitVec.ofNat 64 (high + e.uA i % 2 ^ w * 2 ^ off + low)), 0)) s) s

/-- `bperm` (08 R160). -/
def execBperm (f : Fields) (s : State) : Host.Outcome State Fault Refusal :=
  issue Row.bperm f true (fun e s =>
    if e.wide then .fail cILOPER
    else intPlain (fun e i =>
      let v := e.uA i + 2 ^ 32 * e.uB i
      let byte (j : Nat) : Nat :=
        let z := e.uC i / 2 ^ (4 * j) % 16
        let b := v / 2 ^ (8 * (z % 8)) % 256
        if z ≥ 8 then (if b ≥ 128 then 255 else 0) else b
      byte 0 + 256 * byte 1 + 65536 * byte 2 + 16777216 * byte 3) e s) s

/-- `sel` (08 R161). -/
def execSel (f : Fields) (s : State) : Host.Outcome State Fault Refusal :=
  issue Row.sel f true (intPlain (fun e i => if e.uC i ≠ 0 then e.uA i else e.uB i)) s

/-- The comparison codes of 08 R161; none for an illegal code. -/
def cmpInt (code : Nat) (a b : Int) : Option Bool :=
  match code with
  | 0 => some (decide (a = b))
  | 1 => some (decide (a ≠ b))
  | 2 => some (decide (a < b))
  | 3 => some (decide (a ≤ b))
  | 4 => some (decide (a > b))
  | 5 => some (decide (a ≥ b))
  | _ => none

/-- `cmp` (08 R161): a 32-bit 0 or 1; codes 6 to 15 and QUAL[7:4] raise ILLEGAL_OPERAND. -/
def execCmp (f : Fields) (s : State) : Host.Outcome State Fault Refusal :=
  issue Row.cmp f true (fun e s =>
    e.alu (e.intOk (decide (e.f.qual.toNat < 6)) && !e.sat && e.modHi == 0) e.srcs false false e.wide
      (lane (fun i => if (cmpInt e.f.qual.toNat (e.iA i) (e.iB i)).getD false then 1 else 0)) s) s

/-- `mov` (08 R162). -/
def execMov (f : Fields) (s : State) : Host.Outcome State Fault Refusal :=
  issue Row.mov f true (intPlain (fun e i => e.uA i)) s

/-- `li` (08 R162): IMM, sign-extended for s64 and zero-extended for u64. -/
def execLi (f : Fields) (s : State) : Host.Outcome State Fault Refusal :=
  issue Row.li f true (intPlain (fun e _ =>
    if e.sgn then bitsOf e.bw (intOf true 32 e.imm.toNat) else e.imm.toNat)) s

/-- `sext` (08 R163). -/
def execSext (f : Fields) (s : State) : Host.Outcome State Fault Refusal :=
  issue Row.sext f true (intPlain (fun e i =>
    let k := e.amount i
    if k = 0 then 0 else if k ≥ e.bw then e.uA i else bitsOf e.bw (intOf true k (e.uA i)))) s

/-- `zext` (08 R163). -/
def execZext (f : Fields) (s : State) : Host.Outcome State Fault Refusal :=
  issue Row.zext f true (intPlain (fun e i => if e.amount i ≥ e.bw then e.uA i else e.uA i % 2 ^ e.amount i)) s

/-- Int24 of 08 R164. -/
def Env.int24 (e : Env) (x : Nat) : Int := intOf e.sgn 24 x

/-- `mul24` (08 R164). -/
def execMul24 (f : Fields) (s : State) : Host.Outcome State Fault Refusal :=
  issue Row.mul24 f true (fun e s =>
    if e.wide then .fail cILOPER
    else intPlain (fun e i => bitsOf 32 (e.int24 (e.uA i) * e.int24 (e.uB i))) e s) s

/-- `mad24` (08 R164). -/
def execMad24 (f : Fields) (s : State) : Host.Outcome State Fault Refusal :=
  issue Row.mad24 f true (fun e s =>
    if e.wide then .fail cILOPER
    else intPlain (fun e i => bitsOf 32 (e.int24 (e.uA i) * e.int24 (e.uB i) + e.iC i)) e s) s

/-- `med3` (08 R165): the middle of three integers. -/
def execMed3 (f : Fields) (s : State) : Host.Outcome State Fault Refusal :=
  issue Row.med3 f true (intPlain (fun e i =>
    bitsOf e.bw (max (min (e.iA i) (e.iB i)) (min (max (e.iA i) (e.iB i)) (e.iC i))))) s

end Sys2Proof.Machine
end

