-- ==== Sys2Proof/Machine/Float.lean ====
section
/-! DEFINITION. Machine/Float.lean: the floating-point class and `fdiv` (08 R166 to R174). -/

namespace Sys2Proof.Machine

open Sys2Proof

/-- TYPE (06 R115). -/
def Env.fty (e : Env) : Nat := (e.f.mod.extractLsb' 0 2).toNat
/-- RM (06 R115). -/
def Env.frm (e : Env) : Nat := (e.f.mod.extractLsb' 2 3).toNat
/-- MOD[5]. -/
def Env.mod5 (e : Env) : Bool := e.f.mod.getLsbD 5

/-- The element format of TYPE. -/
def Env.ffmt (e : Env) : Fmt := if e.fty = 0 then FP32 else if e.fty = 1 then BF16 else FP16
/-- DAZ for the instruction's type (07 R144). -/
def Env.daz (e : Env) : Bool := if e.fty = 0 then e.g.daz32 else e.g.daz16
/-- FTZ for the instruction's type (07 R144). -/
def Env.ftz (e : Env) : Bool := if e.fty = 0 then e.g.ftz32 else e.g.ftz16

/-- The rounding mode: RM, or for RM 0 the choice of 07 R143. -/
def Env.rm (e : Env) (rzam : Bool) : RM :=
  match e.frm with
  | 0 => if rzam && e.g.rzam then .rz else .rne
  | 1 => .rne
  | 2 => .rz
  | 3 => .rd
  | _ => .ru

/-- Element k of a 32-bit value under a format (07 R131). -/
def elemOf (F : Fmt) (k : Nat) (w : Word) : Nat := w.toNat / 2 ^ (F.bits * k) % 2 ^ F.bits

/-- The pattern of element k of a source after DAZ. -/
def Env.pat (e : Env) (w : Word) (k : Nat) : Nat := dazPat e.daz e.ffmt (elemOf e.ffmt k w)

/-- Its value. -/
def Env.val (e : Env) (w : Word) (k : Nat) : Fp := e.ffmt.value (e.pat w k)

/-- Compute the elements of the type, each on its own (07 R131): patterns and flags. -/
def Env.elems (e : Env) (h : Nat → Nat → Nat × Flags) : Lane := fun i =>
  if e.fty = 0 then (some (BitVec.ofNat 64 (h i 0).1), (h i 0).2)
  else (some (BitVec.ofNat 64 ((h i 0).1 + 2 ^ 16 * (h i 1).1)), (h i 0).2 ||| (h i 1).2)

/-- Round an exact value into the type with FTZ; `f` are the flags of the operation itself. -/
def Env.round (e : Env) (rm : RM) (x : Fp × Flags) : Nat × Flags :=
  let r := roundFtz e.ftz x.1 e.ffmt rm 0
  (r.1, r.2 ||| x.2)

/-- The rules of the class on MOD and QUAL (06 R115, 08 R166). -/
def Env.floatOk (e : Env) (rmOk m5 : Bool) (qualMax : Nat) : Bool :=
  decide (e.fty < 3) && (if rmOk then decide (e.frm ≤ 4) else e.frm == 0) && (m5 || !e.mod5) &&
  decide (e.f.qual.toNat < qualMax)

/-- An arithmetic instruction: RM, one rounding (08 R167). -/
def floatArith (op : Env → RM → Nat → Nat → Fp × Flags) (e : Env) : State → Out :=
  e.alu (e.floatOk true false 1) e.srcs false true false
    (e.elems (fun i k => e.round (e.rm true) (op e (e.rm true) i k)))

/-- `fadd` (08 R167). -/
def execFadd (f : Fields) (s : State) : Host.Outcome State Fault Refusal :=
  issue Row.fadd f true (floatArith (fun e rm i k =>
    addFp (rm == .rd) (e.val (e.read32 e.f.a i) k) (e.val (e.readB32 i) k))) s

/-- `fsub` (08 R167): `fadd` with the sign of B inverted. -/
def execFsub (f : Fields) (s : State) : Host.Outcome State Fault Refusal :=
  issue Row.fsub f true (floatArith (fun e rm i k =>
    addFp (rm == .rd) (e.val (e.read32 e.f.a i) k) (negFp (e.val (e.readB32 i) k)))) s

/-- `fmul` (08 R167). -/
def execFmul (f : Fields) (s : State) : Host.Outcome State Fault Refusal :=
  issue Row.fmul f true (floatArith (fun e _ i k =>
    mulFp (e.val (e.read32 e.f.a i) k) (e.val (e.readB32 i) k))) s

/-- `ffma` (08 R167): one rounding. -/
def execFfma (f : Fields) (s : State) : Host.Outcome State Fault Refusal :=
  issue Row.ffma f true (floatArith (fun e rm i k =>
    fmaFp (rm == .rd) (e.val (e.read32 e.f.a i) k) (e.val (e.readB32 i) k) (e.val (e.read32 e.f.c i) k))) s

/-- An instruction that moves or edits patterns, its result under FTZ (08 R166). -/
def floatMove (m5 : Bool) (op : Env → Nat → Nat → Nat) (e : Env) : State → Out :=
  e.alu (e.floatOk false m5 1) e.srcs false true false
    (e.elems (fun i k => ftzPat e.ftz e.ffmt (op e i k)))

/-- The pattern of element k of A. -/
def Env.patA (e : Env) (i k : Nat) : Nat := e.pat (e.read32 e.f.a i) k
/-- The pattern of element k of B. -/
def Env.patB (e : Env) (i k : Nat) : Nat := e.pat (e.readB32 i) k

/-- IEEE minimum or maximum of two patterns, or the number variants (08 R168). -/
def minmaxPat (F : Fmt) (wantMax number : Bool) (a b : Nat) : Nat :=
  let x := F.value a
  let y := F.value b
  if x.isNan && y.isNan then F.nanPat
  else if x.isNan then (if number then b else F.nanPat)
  else if y.isNan then (if number then a else F.nanPat)
  else if ltFp x y then (if wantMax then b else a)
  else if ltFp y x then (if wantMax then a else b)
  else if a / F.signBit % 2 = 1 then (if wantMax then b else a)
  else (if wantMax then a else b)

/-- The legacy minimum or maximum of 07 R145. -/
def legacyPat (F : Fmt) (wantMax : Bool) (a b : Nat) : Nat :=
  let x := F.value a
  let y := F.value b
  if !x.isNan && !y.isNan && (if wantMax then ltFp y x else ltFp x y) then a else b

/-- `fmin` (08 R168, 07 R145). -/
def execFmin (f : Fields) (s : State) : Host.Outcome State Fault Refusal :=
  issue Row.fmin f true (floatMove false (fun e i k =>
    if e.g.legnan then legacyPat e.ffmt false (e.patA i k) (e.patB i k)
    else minmaxPat e.ffmt false false (e.patA i k) (e.patB i k))) s

/-- `fmax` (08 R168, 07 R145). -/
def execFmax (f : Fields) (s : State) : Host.Outcome State Fault Refusal :=
  issue Row.fmax f true (floatMove false (fun e i k =>
    if e.g.legnan then legacyPat e.ffmt true (e.patA i k) (e.patB i k)
    else minmaxPat e.ffmt true false (e.patA i k) (e.patB i k))) s

/-- `fminn` (08 R168). -/
def execFminn (f : Fields) (s : State) : Host.Outcome State Fault Refusal :=
  issue Row.fminn f true (floatMove false (fun e i k => minmaxPat e.ffmt false true (e.patA i k) (e.patB i k))) s

/-- `fmaxn` (08 R168). -/
def execFmaxn (f : Fields) (s : State) : Host.Outcome State Fault Refusal :=
  issue Row.fmaxn f true (floatMove false (fun e i k => minmaxPat e.ffmt true true (e.patA i k) (e.patB i k))) s

/-- `fabs` (08 R169). -/
def execFabs (f : Fields) (s : State) : Host.Outcome State Fault Refusal :=
  issue Row.fabs f true (floatMove false (fun e i k => e.patA i k % e.ffmt.signBit)) s

/-- The sign of a pattern. -/
def signOf (F : Fmt) (b : Nat) : Nat := b / F.signBit % 2

/-- `fneg` (08 R169). -/
def execFneg (f : Fields) (s : State) : Host.Outcome State Fault Refusal :=
  issue Row.fneg f true (floatMove false (fun e i k =>
    e.patA i k % e.ffmt.signBit + (1 - signOf e.ffmt (e.patA i k)) * e.ffmt.signBit)) s

/-- `fcpsgn` (08 R169): B's sign, or the XOR of the signs with XS. -/
def execFcpsgn (f : Fields) (s : State) : Host.Outcome State Fault Refusal :=
  issue Row.fcpsgn f true (floatMove true (fun e i k =>
    let sb := signOf e.ffmt (e.patB i k)
    let sg := if e.mod5 then (signOf e.ffmt (e.patA i k) + sb) % 2 else sb
    e.patA i k % e.ffmt.signBit + sg * e.ffmt.signBit)) s

/-- The condition of 08 R170 and whether it sets IV. -/
def fcmpCond (code : Nat) (x y : Fp) : Bool × Flags :=
  let un := x.isNan || y.isNan
  let iv : Flags := if un then fIV else 0
  match code with
  | 0 => (eqFp x y, 0)
  | 1 => (!eqFp x y, 0)
  | 2 => (!un && ltFp x y, iv)
  | 3 => (!un && !ltFp y x, iv)
  | 4 => (!un && ltFp y x, iv)
  | 5 => (!un && !ltFp x y, iv)
  | 6 => (!un, 0)
  | _ => (un, 0)

/-- `fcmp` (08 R170). -/
def execFcmp (f : Fields) (s : State) : Host.Outcome State Fault Refusal :=
  issue Row.fcmp f true (fun e s =>
    e.alu (e.floatOk false false 8) e.srcs false true false (fun i =>
      let c (k : Nat) : Bool × Flags :=
        fcmpCond e.f.qual.toNat (e.val (e.read32 e.f.a i) k) (e.val (e.readB32 i) k)
      if e.fty = 0 then (some (if (c 0).1 then 1 else 0), (c 0).2)
      else (some ((if (c 0).1 then 1 else 0) + (if (c 1).1 then 2 else 0)), (c 0).2 ||| (c 1).2)) s) s

/-- The bit of 08 R171 for a pattern. -/
def classBit (F : Fmt) (b : Nat) : Nat :=
  let neg := signOf F b == 1
  match F.value b with
  | .nan => 8
  | .inf _ => if neg then 0 else 7
  | .fin _ m e =>
    if m = 0 then (if neg then 3 else 4)
    else if lg2 m e < F.emin then (if neg then 2 else 5)
    else (if neg then 1 else 6)

/-- `fclass` (08 R171). -/
def execFclass (f : Fields) (s : State) : Host.Outcome State Fault Refusal :=
  issue Row.fclass f true (fun e s =>
    e.alu (e.floatOk false false 1) e.srcs false true false
      (e.elems (fun i k => (2 ^ classBit e.ffmt (e.patA i k), 0))) s) s

/-- Round a value to an integral value of its own format (08 R172). -/
def rintPat (F : Fmt) (rm : RM) (nox : Bool) (b : Nat) : Nat × Flags :=
  match F.value b with
  | .nan => (F.nanPat, 0)
  | .inf _ => (b, 0)
  | .fin s m e =>
    if e ≥ 0 ∨ m = 0 then (b, 0)
    else
      let n := roundMag rm s m (-e).toNat 0
      let r := (roundToFormat (.fin s n 0) F .rne true 0).1
      (r, if nox || m % 2 ^ (-e).toNat == 0 then 0 else fNX)

/-- `frint` (08 R172). -/
def execFrint (f : Fields) (s : State) : Host.Outcome State Fault Refusal :=
  issue Row.frint f true (fun e s =>
    e.alu (e.floatOk true true 1) e.srcs false true false
      (e.elems (fun i k => rintPat e.ffmt (e.rm false) e.mod5 (e.patA i k))) s) s

/-- A value times 2^k (08 R173). -/
def scaleFp (x : Fp) (k : Int) : Fp :=
  match x with
  | .fin s m e => .fin s m (e + k)
  | y => y

/-- `fldexp` (08 R173). -/
def execFldexp (f : Fields) (s : State) : Host.Outcome State Fault Refusal :=
  issue Row.fldexp f true (fun e s =>
    e.alu (e.floatOk true false 1) e.srcs false true false
      (e.elems (fun i k =>
        let b := e.readB32 i
        let n : Int := if e.fty = 0 then intOf true 32 b.toNat else intOf true 16 (b.toNat / 2 ^ (16 * k))
        e.round (e.rm false) (scaleFp (e.val (e.read32 e.f.a i) k) n, 0))) s) s

/-- `fdiv` on B1 raises UNIMPL at decode step 5, before any form or operand check (08 R174, 06 R127). -/
def execFdiv (f : Fields) (s : State) : Host.Outcome State Fault Refusal :=
  match s.env? Row.fdiv f with
  | none => .next s
  | some e => .next ((e.owedFault s).getD (e.take s { code := cUNIMPL }))

end Sys2Proof.Machine
end

