-- ==== Sys2Proof/Machine/Convert.lean ====
section
/-! DEFINITION. Machine/Convert.lean: the conversion class (08 R175 to R182), the shared scale of a block and the
conversion of a block (07 R135). -/

namespace Sys2Proof.Machine

open Sys2Proof

/-! ### Format slots (07 R139) -/

/-- The slot that QUAL[2:0] names (08 R176). -/
def Env.slot (e : Env) : Word := e.gr.slot (e.f.qual.extractLsb' 0 3).toNat

/-- QUAL holds a slot and nothing else. -/
def Env.slotQualOk (e : Env) : Bool := decide (e.f.qual.toNat < 8)

/-! ### cvt -/

/-- A type of `cvt` as a source: its value (08 R175). -/
def cvtSource (g : Group) (t : Nat) (w : Word) : Fp :=
  match t with
  | 0 => dazFp g.daz32 FP32 (FP32.value w.toNat)
  | 1 => dazFp g.daz16 BF16 (BF16.value (w.toNat % 65536))
  | 2 => dazFp g.daz16 FP16 (FP16.value (w.toNat % 65536))
  | 3 => Fp.ofInt false (intOf true 32 w.toNat) 0
  | 4 => Fp.ofInt false (intOf false 32 w.toNat) 0
  | 5 => Fp.ofInt false (intOf true 16 w.toNat) 0
  | _ => Fp.ofInt false (intOf false 16 w.toNat) 0

/-- A type of `cvt` as a result (08 R175). -/
def cvtResult (g : Group) (t : Nat) (x : Fp) : Nat × Flags :=
  let int (lo hi : Int) : Nat × Flags :=
    let r := roundToInt x lo hi .rz 0
    (bitsOf 32 r.1, r.2)
  match t with
  | 0 => roundFtz g.ftz32 x FP32 .rne 0
  | 1 => roundFtz g.ftz16 x BF16 .rne 0
  | 2 => roundFtz g.ftz16 x FP16 .rne 0
  | 3 => int (-2147483648) 2147483647
  | 4 => int 0 4294967295
  | 5 => int (-32768) 32767
  | _ => int 0 65535

/-- `cvt` (08 R175): MOD[2:0] is ST, MOD[5:3] is DT. -/
def execCvt (f : Fields) (s : State) : Host.Outcome State Fault Refusal :=
  issue Row.cvt f true (fun e s =>
    let st := (e.f.mod.extractLsb' 0 3).toNat
    let dt := (e.f.mod.extractLsb' 3 3).toNat
    e.alu (decide (st < 7) && decide (dt < 7) && st != dt && e.f.qual == 0) e.srcs false true false (fun i =>
      let r := cvtResult e.g dt (cvtSource e.g st (e.read32 e.f.a i))
      (some (BitVec.ofNat 64 r.1), r.2)) s) s

/-! ### cvtf -/

/-- Round into the format of a slot (08 R176, DIR = 0). -/
def toSlot (g : Group) (sl : Word) (x : Fp) (rb : Nat) : Nat × Flags :=
  let rm := slotRm sl
  let int (w : Nat) (lo hi : Int) : Nat × Flags :=
    let r := roundToInt x lo hi rm rb
    (bitsOf w r.1, r.2)
  match slotFmt sl with
  | 12 => int 8 (-128) 127
  | 13 => int 4 (-8) 7
  | 14 => int 8 (-128) 127
  | 15 => int 8 0 255
  | c =>
    match fmtOfCode c with
    | none => (0, 0)
    | some F =>
      match x with
      | .fin s m e =>
        if decide (c < 2) && g.ftz16 && m != 0 && decide (lg2 m e < F.emin) then (F.signed s 0, fUF ||| fNX)
        else roundToFormat (.fin s m e) F rm (slotOvf sl) rb
      | y => roundToFormat y F rm (slotOvf sl) rb

/-- The exact value of a pattern of the slot's format (08 R176, DIR = 1). -/
def fromSlot (g : Group) (sl : Word) (b : Nat) : Fp :=
  match slotFmt sl with
  | 12 => Fp.ofInt false (intOf true 8 b) 0
  | 13 => Fp.ofInt false (intOf true 4 b) 0
  | 14 => Fp.ofInt false (bpiQ true (slotPlanes sl) b) 0
  | 15 => Fp.ofInt false (bpiQ false (slotPlanes sl) b) 0
  | c =>
    match fmtOfCode c with
    | none => .nan
    | some F => dazFp (decide (c < 2) && g.daz16) F (F.value (b % 2 ^ F.bits))

/-- `cvtf` (08 R176). -/
def execCvtf (f : Fields) (s : State) : Host.Outcome State Fault Refusal :=
  issue Row.cvtf f true (fun e s =>
    e.alu (decide (e.f.mod.toNat < 2) && e.slotQualOk) e.srcs false true false (fun i =>
      let a := e.read32 e.f.a i
      let r :=
        if e.f.mod.getLsbD 0 then roundFtz e.g.ftz32 (fromSlot e.g e.slot a.toNat) FP32 .rne 0
        else toSlot e.g e.slot (dazFp e.g.daz32 FP32 (val32 a)) (e.read32 e.f.b i).toNat
      (some (BitVec.ofNat 64 r.1), r.2)) s) s

/-! ### pack and unpack -/

/-- w of 08 R177. -/
def packWidth : Nat → Nat
  | 0 => 4
  | 1 => 6
  | 2 => 8
  | _ => 16

/-- Elements per register (08 R177). -/
def packCount : Nat → Nat
  | 0 => 8
  | 1 => 4
  | 2 => 4
  | _ => 2

/-- Replace `n` bits at `off`. -/
def putBits (x off n v : Nat) : Nat := x / 2 ^ (off + n) * 2 ^ (off + n) + v % 2 ^ n * 2 ^ off + x % 2 ^ off

/-- `pack` (08 R177). -/
def execPack (f : Fields) (s : State) : Host.Outcome State Fault Refusal :=
  issue Row.pack f true (fun e s =>
    let sz := (e.f.mod.extractLsb' 0 2).toNat
    let pos := (e.f.mod.extractLsb' 2 3).toNat
    let w := packWidth sz
    e.alu (!e.mod5 && decide (pos + 2 ≤ packCount sz) && e.f.qual == 0) e.srcs false true false
      (lane (fun i =>
        let c := (e.read32 e.f.c i).toNat
        let c1 := putBits c (w * pos) w (e.read32 e.f.a i).toNat
        BitVec.ofNat 64 (putBits c1 (w * (pos + 1)) w (e.read32 e.f.b i).toNat))) s) s

/-- `unpack` (08 R178). -/
def execUnpack (f : Fields) (s : State) : Host.Outcome State Fault Refusal :=
  issue Row.unpack f true (fun e s =>
    let sz := (e.f.mod.extractLsb' 0 2).toNat
    let sx := e.f.mod.getLsbD 2
    let w := packWidth sz
    e.alu (decide (e.f.mod.toNat < 8) && e.f.qual == 0) e.srcs false true false
      (lane (fun i =>
        let k := (e.read32 e.f.b i).toNat
        if k ≥ packCount sz then 0
        else
          let x := (e.read32 e.f.a i).toNat / 2 ^ (w * k)
          BitVec.ofNat 64 (bitsOf 32 (intOf sx w x)))) s) s

/-! ### qscale -/

/-- EMAX (07 R135) of a format code with shared scales; none for the others. -/
def emaxOf : Nat → Option Int
  | 7 => some 8
  | 8 => some 15
  | 9 => some 4
  | 10 => some 2
  | 11 => some 2
  | 14 => some 6
  | 15 => some 7
  | _ => none

/-- The shared scale G of a block maximum (07 R135, 08 R179). -/
def scaleByte (emax : Int) (x : Fp) : Nat :=
  match x with
  | .nan => 0xFF
  | .inf _ => 254
  | .fin _ m e => if m = 0 then 0x7F else (max 0 (min 254 (lg2 m e - emax + 127))).toNat

/-- `qscale` (08 R179). -/
def execQscale (f : Fields) (s : State) : Host.Outcome State Fault Refusal :=
  issue Row.qscale f true (fun e s =>
    let em := emaxOf (slotFmt e.slot)
    e.alu (decide (e.f.mod.toNat < 2) && e.slotQualOk) e.srcs em.isNone true false (fun i =>
      let g := scaleByte (em.getD 0) (dazFp e.g.daz32 FP32 (val32 (e.read32 e.f.a i)))
      if !e.f.mod.getLsbD 0 then (some (BitVec.ofNat 64 g), 0)
      else if g = 0xFF then (some 0, 0)
      else
        let b := dazFp e.g.daz32 FP32 (val32 (e.read32 e.f.b i))
        let r := roundFtz e.g.ftz32 (scaleFp b (127 - (g : Int))) FP32 .rne 0
        (some (BitVec.ofNat 64 r.1), r.2)) s) s

/-! ### Bit planes -/

/-- The slot is BPI-S or BPI-U. -/
def slotBpi (sl : Word) : Bool := decide (slotFmt sl ≥ 14)

/-- `bpsplit` (08 R180). -/
def execBpsplit (f : Fields) (s : State) : Host.Outcome State Fault Refusal :=
  issue Row.bpsplit f true (fun e s =>
    let j := (e.f.mod.extractLsb' 0 3).toNat
    e.alu (decide (e.f.mod.toNat < 8) && e.slotQualOk) e.srcs (!slotBpi e.slot) true false
      (lane (fun i =>
        if j < 8 - slotPlanes e.slot then 0
        else
          let v := (e.read32 e.f.a i).toNat + 2 ^ 32 * (e.read32 e.f.b i).toNat
          BitVec.ofNat 64 ((List.range 8).foldl (fun a k => a + (v / 2 ^ (8 * k + j) % 2) * 2 ^ k) 0))) s) s

/-- `bpjoin` (08 R181). -/
def execBpjoin (f : Fields) (s : State) : Host.Outcome State Fault Refusal :=
  issue Row.bpjoin f true (fun e s =>
    e.alu (e.f.mod == 0 && e.slotQualOk) e.srcs (!slotBpi e.slot) true false
      (lane (fun i =>
        let k := (e.read32 e.f.c i).toNat
        if k ≥ 8 then 0
        else
          let v := (e.read32 e.f.a i).toNat + 2 ^ 32 * (e.read32 e.f.b i).toNat
          let b := (List.range 8).foldl (fun a p => a + (v / 2 ^ (8 * p + k) % 2) * 2 ^ (7 - p)) 0
          BitVec.ofNat 64 (bitsOf 32 (bpiQ (slotFmt e.slot == 14) (slotPlanes e.slot) b)))) s) s

/-! ### Sticky flags -/

/-- `satrd` (08 R182): the label of `sr.sat`; with CLR the bits read are cleared, and no capture is allowed (R150). -/
def execSatrd (f : Fields) (s : State) : Host.Outcome State Fault Refusal :=
  issue Row.satrd f (!f.mod.getLsbD 0) (fun e s =>
    if !(decide (e.f.mod.toNat < 2) && e.f.qual == 0) || !e.dstOk false [] then .fail cILOPER
    else if e.early [] then .fail cEARLY
    else
      let v := (e.g.sat.extractLsb' 0 7).setWidth 64
      let g1 := e.writeResult (e.parts.map (fun i => (i, v))) 0 (mget 0 e.g.srlbl 1) false e.isUniform
      let g2 : Group := if e.any && e.f.mod.getLsbD 0 then { g1 with sat := g1.sat &&& ~~~(v.setWidth 32) } else g1
      .next (s.setGroup g2)) s

/-- `satclr` (08 R182): A is uniform; A[31:7] must be zero at execution. A capture leaves the
latch valid with no new value: the instruction writes none. -/
def execSatclr (f : Fields) (s : State) : Host.Outcome State Fault Refusal :=
  issue Row.satclr f true (fun e s =>
    if !(e.f.mod == 0 && e.f.qual == 0) || !e.uniform e.f.a then .fail cILOPER
    else if e.early [e.f.a] then .fail cEARLY
    else if !e.any then .next (s.setGroup (e.writeResult [] 0 0 false true))
    else
      let a := e.read32 e.f.a e.first
      if a.toNat ≥ 128 then .fail cILOPER
      else
        let g1 := e.writeResult [] 0 0 false true
        .next (s.setGroup { g1 with sat := g1.sat &&& ~~~a })) s

end Sys2Proof.Machine
end

