-- ==== Sys2Proof/Machine/Special.lean ====
section
/-! DEFINITION. Machine/Special.lean: the special functions, `rng` and `csamp` (08 R183 to R192). -/

namespace Sys2Proof.Machine

open Sys2Proof

/-! ### Correctly rounded functions (08 R184) -/

/-- 1/A: a value to round, or a special case, with flags. -/
def rcpFp (x : Fp) : Fp × Flags :=
  match x with
  | .nan => (.nan, 0)
  | .inf s => (.fin s 0 0, 0)
  | .fin s m e => if m = 0 then (.inf s, fDZ) else (.fin s (divMant 1 0 m e).1 (divMant 1 0 m e).2, 0)

/-- √A. -/
def sqrtFp (x : Fp) : Fp × Flags :=
  match x with
  | .nan => (.nan, 0)
  | .inf true => (.nan, fIV)
  | .inf false => (.inf false, 0)
  | .fin s m e =>
    if m = 0 then (.fin s 0 0, 0)
    else if s then (.nan, fIV)
    else (.fin false (sqrtMant m e).1 (sqrtMant m e).2, 0)

/-- 1/√A. -/
def rsqrtFp (x : Fp) : Fp × Flags :=
  match x with
  | .nan => (.nan, 0)
  | .inf true => (.nan, fIV)
  | .inf false => (.fin false 0 0, 0)
  | .fin s m e =>
    if m = 0 then (.inf s, fDZ)
    else if s then (.nan, fIV)
    else (.fin false (rsqrtMant m e).1 (rsqrtMant m e).2, 0)

/-- `rcp`, `rsqrt`, `sqrt`: TYPE, RM, one rounding of the exact value into the element format (08 R183, R184, R190). -/
def specialExact (h : Fp → Fp × Flags) (e : Env) : State → Out :=
  e.alu (e.floatOk true false 1) e.srcs false true false
    (e.elems (fun i k => e.round (e.rm false) (h (e.val (e.read32 e.f.a i) k))))

/-- `rcp` (08 R184). -/
def execRcp (f : Fields) (s : State) : Host.Outcome State Fault Refusal := issue Row.rcp f true (specialExact rcpFp) s

/-- `rsqrt` (08 R184). -/
def execRsqrt (f : Fields) (s : State) : Host.Outcome State Fault Refusal :=
  issue Row.rsqrt f true (specialExact rsqrtFp) s

/-- `sqrt` (08 R184). -/
def execSqrt (f : Fields) (s : State) : Host.Outcome State Fault Refusal :=
  issue Row.sqrt f true (specialExact sqrtFp) s

/-! ### Reference functions (08 R185 to R189)

Each gives the value that its last step rounds, whether the exact mathematical value is not a binary32 number (NX of
R183), and the flags of its special cases. The polynomial constants are the binary32 patterns that RNE gives for the
decimals of the spec. -/

/-- The result of a reference function: the value its final step rounds, NX, other flags. -/
structure RefRes where
  val : Fp
  nx : Bool
  fl : Flags
  deriving DecidableEq, Repr

/-- 1.0. -/
def one32 : Word := 0x3F800000

/-- Round half to even of a finite value to an integer. -/
def rneInt (s : Bool) (m : Nat) (e : Int) : Int :=
  if e ≥ 0 then signedMant s (m * 2 ^ e.toNat) else signedMant s (roundMag .rne s m (-e).toNat 0)

/-- The pattern of a signed mantissa over 2^e, exact. -/
def ofMant (zneg : Bool) (p : Int × Int) : Word := rn (Fp.ofInt zneg p.1 p.2)

/-- The polynomial part y of Exp2Ref and n (08 R186). The argument's exponent is at most that of 2^8 here: beyond it
the result is out of range whatever f is. -/
def exp2Parts (s : Bool) (m : Nat) (e : Int) : Word × Int :=
  let n := rneInt s m e
  let f := ofMant s (addMant s m e (decide (n > 0)) n.natAbs 0)
  let y0 := fma32 0x39218489 f 0x3AAEC3FF
  let y1 := fma32 y0 f 0x3C1D955B
  let y2 := fma32 y1 f 0x3D635847
  let y3 := fma32 y2 f 0x3E75FDF0
  let y4 := fma32 y3 f 0x3F317218
  (fma32 y4 f one32, n)

/-- The value that Exp2Ref rounds last (08 R186). -/
def exp2Val (s : Bool) (m : Nat) (e : Int) : Fp :=
  if lg2 m e > 9 then .fin false 1 (if s then -1024 else 1024)
  else scaleFp (val32 (exp2Parts s m e).1) (exp2Parts s m e).2

/-- A finite value is an integer. -/
def isIntMant (m : Nat) (e : Int) : Bool := m == 0 || decide (e ≥ 0) || m % 2 ^ (-e).toNat == 0

/-- `exp2` (08 R185, R186). -/
def exp2Ref (x : Fp) : RefRes :=
  match x with
  | .nan => ⟨.nan, false, 0⟩
  | .inf true => ⟨.fin false 0 0, false, 0⟩
  | .inf false => ⟨.inf false, false, 0⟩
  | .fin s m e => if m = 0 then ⟨.fin false 1 0, false, 0⟩ else ⟨exp2Val s m e, !isIntMant m e, 0⟩

/-- `log2` of a positive value (08 R187): the value its last step rounds. -/
def log2Val (m : Nat) (e : Int) : Fp :=
  let lg := lg2 m e
  -- m × 2^e = x1 × 2^lg with x1 in [1, 2), exact in binary32
  let x1 := rn (.fin false m (e - lg))
  let big := decide (x1.toNat > 0x3FB504F3)
  let mm := if big then rn (.fin false m (e - lg - 1)) else x1
  let ex : Int := if big then lg + 1 else lg
  let z := div32 (rn (addFp false (val32 mm) (.fin true 1 0)).1) (rn (addFp false (val32 mm) (.fin false 1 0)).1)
  let z2 := mul32 z z
  let y0 := fma32 0x3EA4258A z2 0x3ED30BB1
  let y1 := fma32 y0 z2 0x3F13BB63
  let y2 := fma32 y1 z2 0x3F76384F
  let y3 := fma32 y2 z2 0x4038AA3B
  (addFp false (Fp.ofInt false ex 0) (val32 (mul32 y3 z))).1

/-- A mantissa is a power of two. -/
def isPow2 (m : Nat) : Bool := m != 0 && m == 2 ^ Nat.log2 m

/-- `log2` (08 R185, R187). -/
def log2Ref (x : Fp) : RefRes :=
  match x with
  | .nan => ⟨.nan, false, 0⟩
  | .inf true => ⟨.nan, false, fIV⟩
  | .inf false => ⟨.inf false, false, 0⟩
  | .fin s m e =>
    if m = 0 then ⟨.inf true, false, fDZ⟩
    else if s then ⟨.nan, false, fIV⟩
    else ⟨log2Val m e, !isPow2 m, 0⟩

/-- The quarter-period reduction of 08 R188: q and the two polynomial values, each as a pattern. -/
def trigParts (s : Bool) (m : Nat) (e : Int) : Nat × Word × Word × Fp :=
  let n := rneInt s m (e + 1)
  let f := ofMant s (addMant s m e (decide (n > 0)) n.natAbs (-1))
  let f2 := mul32 f f
  let y0 := fma32 0x3DA83C1A f2 0xBF196966
  let y1 := fma32 y0 f2 0x402335E3
  let y2 := fma32 y1 f2 0xC0A55DE7
  let y3 := fma32 y2 f2 0x40490FDB
  let k0 := fma32 0x3E70FA83 f2 0xBFAAE9E4
  let k1 := fma32 k0 f2 0x4081E0F8
  let k2 := fma32 k1 f2 0xC09DE9E6
  ((n % 4).toNat, mul32 y3 f, fma32 k2 f2 one32, (mulFp (val32 y3) (val32 f)).1)

/-- `sinpi` or `cospi` of a finite value (08 R188): the value its last step rounds; an exact zero takes the sign that
R188 gives. -/
def trigVal (cos s : Bool) (m : Nat) (e : Int) : Fp :=
  if e ≥ 1 ∨ m = 0 then (if cos then .fin false 1 0 else .fin s 0 0)
  else
    let (q, _, cv, sx) := trigParts s m e
    let r : Fp :=
      match (if cos then (q + 1) % 4 else q) with
      | 0 => sx
      | 1 => val32 cv
      | 2 => negFp sx
      | _ => negFp (val32 cv)
    match r with
    | .fin _ 0 _ => .fin (if cos then false else s) 0 0
    | y => y

/-- `sinpi` and `cospi` (08 R185, R188). -/
def trigRef (cos : Bool) (x : Fp) : RefRes :=
  match x with
  | .nan => ⟨.nan, false, 0⟩
  | .inf _ => ⟨.nan, false, fIV⟩
  | .fin s m e => ⟨trigVal cos s m e, !isIntMant m (e + 1), 0⟩

/-- Replace the sign of a value. -/
def withSign (s : Bool) (x : Fp) : Fp :=
  match x with
  | .fin _ m e => .fin s m e
  | .inf _ => .inf s
  | .nan => .nan

/-- `tanh` of a finite non-zero value (08 R185, R189). -/
def tanhVal (s : Bool) (m : Nat) (e : Int) : Fp :=
  let x : Fp := .fin s m e
  -- |x| ≥ 9.125 = 73 × 2^−3
  if !(ltFp (.fin false m e) (.fin false 73 (-3))) then .fin s 1 0
  else if ltFp (.fin false m e) (.fin false 1 (-2)) then
    let xb := rn x
    let x2 := mul32 xb xb
    let y0 := fma32 0x3CB327A4 x2 0xBD5D0DD1
    let y1 := fma32 y0 x2 0x3E088889
    let y2 := fma32 y1 x2 0xBEAAAAAB
    (fmaFp false (val32 (mul32 y2 x2)) x x).1
  else
    let a := mul32 (rn (.fin false m e)) 0x4038AA3B
    let g := match val32 a with
      | .fin s' m' e' => rn (exp2Val s' m' e')
      | y => rn y
    let d := div32 0x40000000 (add32 g one32)
    withSign s (addFp false (.fin false 1 0) (negFp (val32 d))).1

/-- `tanh` (08 R185, R189). -/
def tanhRef (x : Fp) : RefRes :=
  match x with
  | .nan => ⟨.nan, false, 0⟩
  | .inf s => ⟨.fin s 1 0, false, 0⟩
  | .fin s m e => if m = 0 then ⟨.fin s 0 0, false, 0⟩ else ⟨tanhVal s m e, true, 0⟩

/-- A finite non-zero value below 2^−126 in magnitude. -/
def tiny32 (x : Fp) : Bool :=
  match x with
  | .fin _ m e => m != 0 && decide (lg2 m e < -126)
  | _ => false

/-- The FP32 result and flags of a reference function (08 R183, R144): NX as R183 says, UF when tiny, OF of the final
rounding. For `exp2` (`expf`) the flags are those of its final rounding, with NX for a non-integer. -/
def refResult (ftz expf : Bool) (r : RefRes) : Nat × Flags :=
  if ftz && tiny32 r.val then
    (FP32.signed (match r.val with | .fin s _ _ => s | _ => false) 0, fUF ||| fNX)
  else
    let p := roundToFormat r.val FP32 .rne true 0
    let nx : Flags := if r.nx then fNX else 0
    if expf then (p.1, p.2 ||| nx ||| r.fl)
    else (p.1, nx ||| (if r.nx && tiny32 r.val then fUF else 0) ||| (p.2 &&& fOF) ||| r.fl)

/-- A reference function on the instruction's type (08 R190): FP32 directly; a packed element through FP32, with OF
and UF of the final rounding added. -/
def specialRef (expf : Bool) (h : Fp → RefRes) (e : Env) : State → Out :=
  e.alu (e.floatOk false false 1) e.srcs false true false
    (e.elems (fun i k =>
      let r := h (e.val (e.read32 e.f.a i) k)
      if e.fty = 0 then refResult e.g.ftz32 expf r
      else
        let p := refResult false expf r
        let q := roundFtz e.g.ftz16 (FP32.value p.1) e.ffmt .rne 0
        let flushed := match FP32.value p.1 with
          | .fin _ m x => e.g.ftz16 && m != 0 && decide (lg2 m x < e.ffmt.emin)
          | _ => false
        (q.1, if flushed then fUF ||| fNX else p.2 ||| (q.2 &&& (fOF ||| fUF)))))

/-- `exp2` (08 R186). -/
def execExp2 (f : Fields) (s : State) : Host.Outcome State Fault Refusal :=
  issue Row.exp2 f true (specialRef true exp2Ref) s

/-- `log2` (08 R187). -/
def execLog2 (f : Fields) (s : State) : Host.Outcome State Fault Refusal :=
  issue Row.log2 f true (specialRef false log2Ref) s

/-- `sinpi` (08 R188). -/
def execSinpi (f : Fields) (s : State) : Host.Outcome State Fault Refusal :=
  issue Row.sinpi f true (specialRef false (trigRef false)) s

/-- `cospi` (08 R188). -/
def execCospi (f : Fields) (s : State) : Host.Outcome State Fault Refusal :=
  issue Row.cospi f true (specialRef false (trigRef true)) s

/-- `tanh` (08 R189). -/
def execTanh (f : Fields) (s : State) : Host.Outcome State Fault Refusal :=
  issue Row.tanh f true (specialRef false tanhRef) s

/-! ### rng (08 R191) -/

/-- One round of Philox-4x32 under a key. -/
def philoxRound (k0 k1 : Nat) (c : Nat × Nat × Nat × Nat) : Nat × Nat × Nat × Nat :=
  let (c0, c1, c2, c3) := c
  let m0 := 0xD2511F53 * c0
  let m1 := 0xCD9E8D57 * c2
  ((m1 / 2 ^ 32 ^^^ c1) ^^^ k0, m1 % 2 ^ 32, (m0 / 2 ^ 32 ^^^ c3) ^^^ k1, m0 % 2 ^ 32)

/-- n rounds, the key advancing after each. -/
def philox : Nat → Nat → Nat → Nat × Nat × Nat × Nat → Nat × Nat × Nat × Nat
  | 0, _, _, c => c
  | n + 1, k0, k1, c =>
    philox n ((k0 + 0x9E3779B9) % 2 ^ 32) ((k1 + 0xBB67AE85) % 2 ^ 32) (philoxRound k0 k1 c)

/-- Word w of a counter. -/
def philoxWord (w : Nat) (c : Nat × Nat × Nat × Nat) : Nat :=
  match w with
  | 0 => c.1
  | 1 => c.2.1
  | 2 => c.2.2.1
  | _ => c.2.2.2

/-- A source that `rng` takes as its key: an s register, `zero` or an immediate. -/
def rngKeyOk : Src → Bool
  | .s _ => true
  | .zero => true
  | .imm _ => true
  | _ => false

/-- A destination that is a v register or 475 (08 R191, R192). -/
def dstVorNone : Dst → Bool
  | .v _ => true
  | .none => true
  | _ => false

/-- `rng` (08 R191): Philox-4x32-10 over (B, tid, gid, kid). -/
def execRng (f : Fields) (s : State) : Host.Outcome State Fault Refusal :=
  issue Row.rng f true (fun e s =>
    let word := (e.f.mod.extractLsb' 2 2).toNat
    let out := (e.f.mod.extractLsb' 4 2).toNat
    e.alu (e.fty == 0 && decide (out < 2) && e.f.qual == 0 && rngKeyOk e.f.a && dstVorNone e.f.dst) e.srcs false
      false false
      (lane (fun i =>
        let key := (e.read e.f.a i).toNat
        let w := philoxWord word
          (philox 10 (key % 2 ^ 32) (key / 2 ^ 32) ((e.read32 e.f.b i).toNat, i, e.g.gid, e.t.kid))
        if out = 0 then BitVec.ofNat 64 w else w64 (rn (.fin false (w / 256) (-24))))) s) s

/-! ### csamp (08 R192) -/

/-- Prefix sums of weights, each rounded (08 R192). -/
def prefixes : Word → List Word → List Word
  | _, [] => []
  | acc, w :: ws => add32 acc w :: prefixes (add32 acc w) ws

/-- The index drawn in a tile from its weights (absent ones as +0) and u; none when the total is unusable. -/
def csampTile (ws : List Word) (u : Nat) : Option Nat :=
  let pre := prefixes 0 ws
  let total := val32 (pre.getLastD 0)
  let usable := match total with
    | .fin false m _ => m != 0
    | _ => false
  if !usable then none
  else
    let tgt := val32 (rn (mulFp (.fin false u (-32)) total).1)
    match pre.findIdx? (fun p => ltFp tgt (val32 p)) with
    | some i => some i
    | none =>
      some ((ws.zipIdx.filter (fun p => ltFp (.fin false 0 0) (val32 p.1))).map (·.2) |>.getLastD 0)

/-- `csamp` (08 R192): no capture, and one c register besides the destination. -/
def execCsamp (f : Fields) (s : State) : Host.Outcome State Fault Refusal :=
  issue Row.csamp f false (fun e s =>
    let xs := e.srcs
    if !(e.f.mod == 0 && decide (e.f.qual.toNat < 8) && dstVorNone e.f.dst) then .fail cILOPER
    else if e.early xs then .fail cEARLY
    else if !e.any then .next s
    else
      let p := e.g.psize.toNat
      let weight (i : Nat) : Word :=
        if e.part.getLsbD i then BitVec.ofNat 32 (dazPat e.g.daz32 FP32 (e.read32 e.f.a i).toNat) else 0
      let draw (t : Nat) : Option Nat :=
        let ts := (List.range p).map (fun k => p * t + k)
        let lead := (ts.find? (fun i => e.part.getLsbD i)).getD 0
        csampTile (ts.map weight) (e.read32 e.f.b lead).toNat
      let tiles := (List.range (e.gr.width / p)).filter (fun t => (List.range p).any (fun k => e.part.getLsbD (p * t + k)))
      let draws := tiles.map (fun t => (t, draw t))
      let bad := draws.any (fun d => d.2.isNone)
      let vals := e.parts.map (fun i =>
        (i, BitVec.ofNat 64 (((draws.find? (fun d => d.1 == i / p)).bind (·.2)).getD p)))
      let g1 := e.writeResult vals (e.taints xs) (e.lbls xs) false false
      .next (s.setGroup (g1.writeC (e.f.qual.extractLsb' 0 3).toNat bad (e.lbls xs)))) s

end Sys2Proof.Machine
end

