-- ==== Sys2Proof/Machine/Cross.lean ====
section
/-! DEFINITION. Machine/Cross.lean: the cross-thread class (11 R233 to R243). -/

namespace Sys2Proof.Machine

open Sys2Proof

/-- MOD[2:0], the operator (11 R236). -/
def Env.xop (e : Env) : Nat := (e.f.mod.extractLsb' 0 3).toNat
/-- MOD[3]. -/
def Env.x3 (e : Env) : Bool := e.f.mod.getLsbD 3
/-- MOD[4]. -/
def Env.x4 (e : Env) : Bool := e.f.mod.getLsbD 4
/-- P, the threads of a partition tile (11 R233). -/
def Env.psz (e : Env) : Nat := e.g.psize.toNat
/-- The first thread of the tile of thread i. -/
def Env.tileBase (e : Env) (i : Nat) : Nat := i - i % e.psz
/-- The threads of the tile of thread i. -/
def Env.tileThreads (e : Env) (i : Nat) : List Nat := (List.range e.psz).map (fun k => e.tileBase i + k)
/-- The taking-part threads of the tile of thread i. -/
def Env.tileParts (e : Env) (i : Nat) : List Nat := (e.tileThreads i).filter (fun j => e.part.getLsbD j)

/-- A cross-thread result: checks of 11 R236, no FP_TRAP; `grp` allows a c destination with a group-wide result. -/
def Env.cross (e : Env) (ok grp : Bool) (h : Lane) (s : State) : Out :=
  let xs := e.srcs
  if !(ok && e.f.qual == 0) || !e.dstOk grp xs then .fail cILOPER
  else if e.early xs then .fail cEARLY
  else e.commitResult s (e.results h) (e.flagsOf h) (e.taints xs) (e.lbls xs) false

/-- `part` (11 R234): A is uniform; the value is checked when a thread takes part. -/
def execPart (f : Fields) (s : State) : Host.Outcome State Fault Refusal :=
  issue Row.part f true (fun e s =>
    if !(e.f.mod == 0 && e.f.qual == 0) || !e.uniform e.f.a then .fail cILOPER
    else if e.early [e.f.a] then .fail cEARLY
    else if !e.any then .next (s.setGroup (e.writeResult [] 0 0 false true))
    else
      let p := (e.read32 e.f.a e.first).toNat
      if !([2, 4, 8, 16, 32, 64].contains p && decide (p ≤ e.gr.width)) then .fail cILOPER
      else
        let g1 := e.writeResult [] 0 0 false true
        .next (s.setGroup { g1 with psize := BitVec.ofNat 32 p, srlbl := mset 0 g1.srlbl 2 (e.lblOf e.f.a) })) s

/-- The result of a vote over a set of threads (11 R238). A uniform `vote.mask` with a c destination spans the group: each thread sets
the bit of its place in its own tile, and the tiles are joined by OR, which R238 leaves open (DESIGN CHOICE, log entry 128). -/
def voteResult (e : Env) (op : Nat) (hi : Bool) (ts : List Nat) : Nat :=
  let nz (j : Nat) : Bool := e.read32 e.f.a j != 0
  match op with
  | 0 => if ts.any nz then 1 else 0
  | 1 => if ts.all nz then 1 else 0
  | 2 => ts.foldl (fun a j =>
      let k := j % e.psz
      if nz j && (decide (k ≥ 32) == hi) then a ||| 2 ^ (k % 32) else a) 0
  | 3 => if ts.all (fun j => e.read32 e.f.a j == e.read32 e.f.a (ts.headD 0)) then 1 else 0
  | _ => (ts.filter nz).length

/-- `vote` (11 R238). -/
def execVote (f : Fields) (s : State) : Host.Outcome State Fault Refusal :=
  issue Row.vote f true (fun e s =>
    let isC := match e.f.dst with | .c _ => true | _ => false
    let ok := decide (e.xop < 5) && (!e.x3 || e.xop == 2) && decide (e.f.mod.toNat < 16) &&
      (!isC || e.xop == 0 || e.xop == 1 || e.xop == 3 || e.isUniform)
    e.cross ok true (lane (fun i =>
      BitVec.ofNat 64 (voteResult e e.xop e.x3 (if isC then e.parts else e.tileParts i)))) s) s

/-- The in-tile index that `shfl` reads for thread i (11 R239). -/
def shflIndex (mode k p : Nat) (b : Word) : Int :=
  match mode with
  | 0 => (b.toNat : Int)
  | 1 => (k : Int) + b.toInt
  | 2 => (((k + b.toNat) % p : Nat) : Int)
  | _ => ((k ^^^ b.toNat : Nat) : Int)

/-- `shfl` (11 R239). -/
def execShfl (f : Fields) (s : State) : Host.Outcome State Fault Refusal :=
  issue Row.shfl f true (fun e s =>
    e.cross (decide (e.f.mod.toNat < 4)) false (lane (fun i =>
      let j := shflIndex e.xop (i % e.psz) e.psz (e.read32 e.f.b i)
      if 0 ≤ j ∧ j < e.psz ∧ e.part.getLsbD (e.tileBase i + j.toNat) then
        w64 (e.read32 e.f.a (e.tileBase i + j.toNat))
      else w64 (e.read32 e.f.c i))) s) s

/-- Comb of 11 R240 with its flags. -/
def comb (op : Nat) (m3 : Bool) (x y : Word) : Word × Flags :=
  match op with
  | 0 => faddRne x y
  | 1 => (x + y, 0)
  | 2 => (if m3 then (if y.slt x then y else x) else (if y < x then y else x), 0)
  | 3 => (if m3 then (if x.slt y then y else x) else (if x < y then y else x), 0)
  | 4 => (fminmax32 false x y, 0)
  | 5 => (fminmax32 true x y, 0)
  | 6 => (if m3 then x ||| y else x &&& y, 0)
  | _ => (x ^^^ y, 0)

/-- The identity of 11 R240. -/
def combIdent (op : Nat) (m3 : Bool) : Word :=
  match op with
  | 0 => 0x80000000
  | 1 => 0
  | 2 => if m3 then 0x7FFFFFFF else 0xFFFFFFFF
  | 3 => if m3 then 0x80000000 else 0
  | 4 => 0x7F800000
  | 5 => 0xFF800000
  | 6 => if m3 then 0 else 0xFFFFFFFF
  | _ => 0

/-- Comb with absent operands (11 R235). -/
def combOpt (op : Nat) (m3 : Bool) : Option Word → Option Word → Option Word × Flags
  | none, y => (y, 0)
  | x, none => (x, 0)
  | some x, some y => (some (comb op m3 x y).1, (comb op m3 x y).2)

/-- One level of the balanced tree (11 R241): neighbours combine. -/
def treeLevel (op : Nat) (m3 : Bool) : List (Option Word) → List (Option Word) × Flags
  | x :: y :: r =>
    ((combOpt op m3 x y).1 :: (treeLevel op m3 r).1, (combOpt op m3 x y).2 ||| (treeLevel op m3 r).2)
  | r => (r, 0)

/-- The balanced tree (11 R241), at most six levels. -/
def treeReduce (op : Nat) (m3 : Bool) : Nat → List (Option Word) → Option Word × Flags
  | 0, ws => (ws.headD none, 0)
  | n + 1, ws =>
    if ws.length ≤ 1 then (ws.headD none, 0)
    else
      let l := treeLevel op m3 ws
      let r := treeReduce op m3 n l.1
      (r.1, l.2 ||| r.2)

/-- One step of the doubling network at distance d (11 R242). -/
def scanLevel (op : Nat) (m3 : Bool) (d : Nat) (ws : List (Option Word)) : List (Option Word) × Flags :=
  let ps := ws.zipIdx.map (fun p => if p.2 < d then (p.1, (0 : Flags)) else combOpt op m3 (ws.getD (p.2 - d) none) p.1)
  (ps.map (·.1), ps.foldl (fun a p => a ||| p.2) 0)

/-- The doubling network (11 R242): inclusive prefixes and flags. -/
def scanNet (op : Nat) (m3 : Bool) : Nat → Nat → List (Option Word) → List (Option Word) × Flags
  | 0, _, ws => (ws, 0)
  | n + 1, d, ws =>
    if d ≥ ws.length then (ws, 0)
    else
      let l := scanLevel op m3 d ws
      let r := scanNet op m3 n (2 * d) l.1
      (r.1, l.2 ||| r.2)

/-- The A operands of a tile, absent where a thread does not take part. -/
def Env.tileA (e : Env) (i : Nat) : List (Option Word) :=
  (e.tileThreads i).map (fun j => if e.part.getLsbD j then some (e.read32 e.f.a j) else none)

/-- MOD[3] is legal for the operator (11 R240). -/
def combModOk (op : Nat) (m3 : Bool) : Bool := !m3 || op == 2 || op == 3 || op == 6

/-- `red` (11 R240, R241). -/
def execRed (f : Fields) (s : State) : Host.Outcome State Fault Refusal :=
  issue Row.red f true (fun e s =>
    e.cross (combModOk e.xop e.x3 && decide (e.f.mod.toNat < 16)) false (fun i =>
      let r := treeReduce e.xop e.x3 6 (e.tileA i)
      (some (w64 (r.1.getD 0)), r.2)) s) s

/-- `scan` (11 R240, R242). -/
def execScan (f : Fields) (s : State) : Host.Outcome State Fault Refusal :=
  issue Row.scan f true (fun e s =>
    e.cross (combModOk e.xop e.x3 && decide (e.f.mod.toNat < 32)) false (fun i =>
      let r := scanNet e.xop e.x3 6 1 (e.tileA i)
      let k := i % e.psz
      let v := if e.x4 then (if k = 0 then combIdent e.xop e.x3 else (r.1.getD (k - 1) none).getD (combIdent e.xop e.x3))
        else (r.1.getD k none).getD 0
      (some (w64 v), r.2)) s) s

/-- `match` (11 R243). -/
def execMatchv (f : Fields) (s : State) : Host.Outcome State Fault Refusal :=
  issue Row.matchv f true (fun e s =>
    let isC := match e.f.dst with | .c _ => true | _ => false
    let ok := decide (e.xop < 3) && (!e.x3 || e.xop == 0) && decide (e.f.mod.toNat < 16) && !isC
    e.cross ok false (lane (fun i =>
      let eqs := (e.tileParts i).filter (fun j => e.read32 e.f.a j == e.read32 e.f.a i)
      BitVec.ofNat 64 (match e.xop with
        | 0 => eqs.foldl (fun a j =>
            let k := j % e.psz
            if decide (k ≥ 32) == e.x3 then a + 2 ^ (k % 32) else a) 0
        | 1 => (eqs.headD i) % e.psz
        | _ => (eqs.filter (fun j => decide (j < i))).length))) s) s

end Sys2Proof.Machine
end

