-- ==== Sys2Proof/Machine/Control.lean ====
section
/-! DEFINITION. Machine/Control.lean: `nop`, branches, calls, forks, meeting points, exits, condition bits and barriers
(04 R74; 15 R322 to R340). -/

namespace Sys2Proof.Machine

open Sys2Proof

/-- MOD and QUAL are zero. -/
def Env.plain (e : Env) : Bool := e.f.mod == 0 && e.f.qual == 0

/-- The check of a target (15 R331): outside the address space, or misaligned (04 R73, R77). -/
def targetFault (native : Bool) (t : Int) : Option Exc :=
  if t < 0 ∨ t ≥ ((2 ^ 56 : Nat) : Int) then some { code := cFETCH, faddr := bitsOf 64 t }
  else if t % (targetAlign native : Int) ≠ 0 then some { code := cALIGN, faddr := t.toNat }
  else none

/-- The threads of the running subset that have not exited. -/
def Env.subsetThreads (e : Env) : List Nat := maskList (e.g.run.subset &&& e.g.live) e.gr.width

/-- `nop` (04 R74): LAT must be 0; nothing but the run structure. -/
def execNop (f : Fields) (s : State) : Host.Outcome State Fault Refusal :=
  issue Row.nop f false (fun e s => if !e.plain then .fail cILOPER else .next s) s

/-- T of `br`, `bra` and `call` (15 R328, R329). -/
def Env.relTarget (e : Env) : Int := (e.pc : Int) + e.imm.toInt

/-- Move the whole subset to T (15 R323). -/
def Env.moveTo (_ : Env) (s : State) (g : Group) (t : Nat) : Out := .jump (s.setGroup (g.setPcs t)) (some t)

/-- `br` (15 R328). -/
def execBr (f : Fields) (s : State) : Host.Outcome State Fault Refusal :=
  issue Row.br f false (fun e s =>
    if !(decide (e.f.mod.toNat < 2) && decide (e.f.qual.toNat < 8)) then .fail cILOPER
    else
      match targetFault e.gr.native e.relTarget with
      | some x => .exc x
      | none =>
        if (e.g.cget (e.f.qual.extractLsb' 0 3).toNat != e.f.mod.getLsbD 0) && e.any then
          e.moveTo s e.g e.relTarget.toNat
        else .next s) s

/-- `bra` (15 R328). -/
def execBra (f : Fields) (s : State) : Host.Outcome State Fault Refusal :=
  issue Row.bra f false (fun e s =>
    if !e.plain then .fail cILOPER
    else
      match targetFault e.gr.native e.relTarget with
      | some x => .exc x
      | none => if e.any then e.moveTo s e.g e.relTarget.toNat else .next s) s

/-- Write a 64-bit value into an even v pair of the listed threads (15 R324). -/
def Group.writeV2 (g : Group) (n : Nat) (vals : List (Nat × DWord)) (tn : Taint) (l : Label) : Group :=
  (g.writeV n (vals.map (fun p => (p.1, p.2.setWidth 32))) tn l).writeV (n + 1)
    (vals.map (fun p => (p.1, p.2.extractLsb' 32 32))) tn l

/-- `call` (15 R329). -/
def execCall (f : Fields) (s : State) : Host.Outcome State Fault Refusal :=
  issue Row.call f false (fun e s =>
    let linkOk := match e.f.dst with
      | .v n => vShape e.gr.vregs 2 n.val
      | .s _ => true
      | .none => true
      | _ => false
    if !(e.plain && linkOk) then .fail cILOPER
    else if e.shapePendDst e.f.dst 2 1 then .fail cEARLY
    else
      match targetFault e.gr.native e.relTarget with
      | some x => .exc x
      | none =>
        if e.gr.native && e.nextPc % 8 != 0 then .exc { code := cALIGN, faddr := e.nextPc }
        else if !e.any then .next s
        else
          let q : DWord := BitVec.ofNat 64 e.nextPc
          let g1 := match e.f.dst with
            | .v n => e.g.writeV2 n.val (e.subsetThreads.map (fun i => (i, q))) 0 0
            | .s n => e.g.writeS n.val q 0 0
            | _ => e.g
          e.moveTo s g1 e.relTarget.toNat) s

/-- A 64-bit operand: an s register or an even v pair (15 R324). -/
def Env.read64 (e : Env) (x : Src) (i : Nat) : DWord :=
  match x with
  | .v n => (e.g.vget (n.val + 1) i ++ e.g.vget n.val i : BitVec 64)
  | y => e.read y i

/-- An s register or an even v pair within the allocation. -/
def Env.pairOrS (e : Env) : Src → Bool
  | .v n => vShape e.gr.vregs 2 n.val
  | .s _ => true
  | _ => false

/-- `ret` (15 R329): every thread of the subset takes its own target. -/
def execRet (f : Fields) (s : State) : Host.Outcome State Fault Refusal :=
  issue Row.ret f false (fun e s =>
    if !(e.plain && e.pairOrS e.f.a) then .fail cILOPER
    else if e.shapePend e.f.a 2 1 then .fail cEARLY
    else
      let t (i : Nat) : Nat := (e.read64 e.f.a i).toNat
      match e.subsetThreads.find? (fun i => decide (t i ≥ 2 ^ 56) || t i % targetAlign e.gr.native != 0) with
      | some i => .exc { code := cALIGN, fthread := some i, faddr := t i }
      | none =>
        if !e.any then .next s
        else
          let g1 : Group := { e.g with threads := e.g.threads.zipIdx.map (fun p =>
            if e.g.run.subset.getLsbD p.2 then { p.1 with pc := BitVec.ofNat 56 (t p.2) } else p.1) }
          .jump (s.setGroup g1) (some (t e.first))) s

/-- The checks of `callk` and `ret.k` on k (15 R330, 1 to 9). -/
def Env.codeCapFault (e : Env) (k : TCap) : Option Exc :=
  let bad (c : Byte) : Option Exc := some { code := c, faddr := k.addr }
  if !e.converged then some { code := cILOPER }
  else if !k.tag then bad cTAG
  else if !(k.otype == 0 || k.otype == 63) then bad cSEAL
  else if k.kind != 1 then bad cKIND
  else if !e.ctx.permits k.col then bad cCOLOUR
  else if !k.has pEXEC then bad cPERM
  else if k.addr % targetAlign e.gr.native != 0 then bad cALIGN
  else if !k.inBounds k.addr (if e.gr.native then 8 else 4) then bad cBOUND
  else none

/-- An s pair. -/
def isSPair : Src → Bool
  | .s n => n.val % 2 == 0
  | _ => false

/-- Make k the code capability and move every thread to its cursor (15 R330). -/
def Env.enterCode (e : Env) (s : State) (g : Group) (k : TCap) : Out :=
  e.moveTo s { g with kcode := k.withOtype 0 } k.addr

/-- `ret.k` (15 R330). -/
def execRetK (f : Fields) (s : State) : Host.Outcome State Fault Refusal :=
  issue Row.ret f false (fun e s =>
    if !(e.f.mod == 1 && e.f.qual == 0 && isSPair e.f.a) then .fail cILOPER
    else if e.capPend e.f.a then .fail cEARLY
    else
      let k := e.cap e.f.a 0
      match e.codeCapFault k with
      | some x => .exc x
      | none => if e.any then e.enterCode s e.g k else .next s) s

/-- `callk` (15 R330): the link receives the current code capability as a sealed entry at A + L. -/
def execCallk (f : Fields) (s : State) : Host.Outcome State Fault Refusal :=
  issue Row.callk f false (fun e s =>
    let linkOk := match e.f.dst with
      | .s n => n.val % 2 == 0
      | .none => true
      | _ => false
    if !(e.plain && isSPair e.f.a && linkOk) then .fail cILOPER
    else if e.capPend e.f.a || e.shapePendDst e.f.dst 4 2 then .fail cEARLY
    else
      let k := e.cap e.f.a 0
      match e.codeCapFault k with
      | some x => .exc x
      | none =>
        if e.gr.native && e.nextPc % 8 != 0 then .exc { code := cALIGN, faddr := e.nextPc }
        else if !e.any then .next s
        else
          let link : TCap := ((e.g.kcode.withAddr e.nextPc).withOtype 63).withTag true
          e.enterCode s (e.writeCap [(e.first, link)] 0 0) k) s

/-- `fork` (15 R332). -/
def execFork (f : Fields) (s : State) : Host.Outcome State Fault Refusal :=
  issue Row.fork f false (fun e s =>
    if !e.plain then .fail cILOPER
    else if e.pendSrc e.f.a then .fail cEARLY
    else
      let u : Int := if e.gr.native then 8 else 4
      let t : Int := (e.pc : Int) + (e.imm.extractLsb' 0 16).toInt * u
      let m : Int := (e.pc : Int) + (e.imm.extractLsb' 16 16).toInt * u
      let out (x : Int) : Bool := decide (x < 0) || decide (x ≥ ((2 ^ 56 : Nat) : Int))
      if out t || out m then .exc { code := cFETCH, faddr := bitsOf 64 (if out t then t else m) }
      else
        match targetFault e.gr.native t, targetFault e.gr.native m with
        | some x, _ => .exc x
        | _, some x => .exc x
        | none, none =>
          if !e.any then .next s
          else
            let goes (i : Nat) : Bool := e.part.getLsbD i && e.read32 e.f.a i != 0
            let g1 : Group := { e.g with threads := e.g.threads.zipIdx.map (fun p =>
              if e.g.run.subset.getLsbD p.2 then
                { p.1 with meet := BitVec.ofInt 56 m,
                           pc := if goes p.2 then BitVec.ofInt 56 t else BitVec.ofNat 56 e.nextPc }
              else p.1) }
            .jump (s.setGroup g1) (if e.parts.any goes then some t.toNat else none)) s

/-- The sentinel of 02 R37. -/
def meetSentinel : BitVec 56 := BitVec.allOnes 56

/-- `meet.set` (15 R334). -/
def execMeetSet (f : Fields) (s : State) : Host.Outcome State Fault Refusal :=
  issue Row.meetSet f false (fun e s =>
    if !(e.plain && e.pairOrS e.f.a) then .fail cILOPER
    else if e.shapePend e.f.a 2 1 then .fail cEARLY
    else if e.shapeLbl e.f.a 2 1 != 0 then .fail cLABEL
    else
      let v (i : Nat) : Nat := (e.read64 e.f.a i).toNat
      match e.parts.find? (fun i =>
        decide (v i ≥ 2 ^ 56) || (v i != meetSentinel.toNat && v i % targetAlign e.gr.native != 0)) with
      | some i => .exc { code := cALIGN, fthread := some i, faddr := v i }
      | none =>
        .next (s.setGroup { e.g with threads := e.g.threads.zipIdx.map (fun p =>
          if e.part.getLsbD p.2 then { p.1 with meet := BitVec.ofNat 56 (v p.2) } else p.1) })) s

/-- `meet.get` (15 R334): into an even v pair, taint and label 0. -/
def execMeetGet (f : Fields) (s : State) : Host.Outcome State Fault Refusal :=
  issue Row.meetGet f false (fun e s =>
    match e.f.dst with
    | .v n =>
      if !(e.plain && vShape e.gr.vregs 2 n.val) then .fail cILOPER
      else if e.g.vPend n.val 2 then .fail cEARLY
      else
        .next (s.setGroup (e.g.writeV2 n.val (e.parts.map (fun i =>
          (i, match e.g.thread i with | some t => t.meet.setWidth 64 | none => 0))) 0 0))
    | _ => .fail cILOPER) s

/-- Threads exit, with the meeting test for the value of each (15 R333, R337). -/
def Group.exitThreads (g : Group) (m : Mask) : Group :=
  let ms := (g.threads.zipIdx.filter (fun p => m.getLsbD p.2 && !p.1.exited)).map (fun p => p.1.meet)
  let g1 := g.mapThreads m (fun t => { t with exited := true, held := false })
  { g1 with threads := meetTests ms g1.threads }

/-- `exit` (15 R337). -/
def execExitt (f : Fields) (s : State) : Host.Outcome State Fault Refusal :=
  issue Row.exitt f false (fun e s =>
    if !e.plain then .fail cILOPER else .next (s.setGroup (e.g.exitThreads e.part))) s

/-- `end` (15 R337): every non-exited thread of the group. -/
def execEndGroup (f : Fields) (s : State) : Host.Outcome State Fault Refusal :=
  issue Row.endGroup f false (fun e s =>
    if !e.plain then .fail cILOPER
    else if !e.any then .next s
    else .next (s.setGroup (e.g.exitThreads e.g.live))) s

/-- The checks of the barrier instructions (15 R340, 07 R148), then their effect with barrier N. -/
def barOp (h : Env → State → Nat → Barrier → Out) (e : Env) (s : State) : Out :=
  let n := (e.f.qual.extractLsb' 0 4).toNat
  if !(e.f.mod == 0 && decide (e.f.qual.toNat < 16) && decide (n < e.gr.bars) && e.converged) then .fail cILOPER
  else if e.g.satTrap then .fail cSATTRAP
  else if !e.any then .next s
  else h e s n (mget Barrier.zero e.t.bars n)

/-- Arrive at barrier N (15 R340). -/
def Env.arriveBar (e : Env) (s : State) (n : Nat) (b : Barrier) : State :=
  let b' : Barrier := { b with arrived := b.arrived ||| (1#32 <<< e.g.gid) }
  if (s.liveGids e.t.id &&& ~~~b'.arrived) == 0 then s.barComplete e.t.id n
  else s.setTeam { e.t with bars := mset Barrier.zero e.t.bars n b' }

/-- `bar.arrive` (15 R340). -/
def execBarArrive (f : Fields) (s : State) : Host.Outcome State Fault Refusal :=
  issue Row.barArrive f false (barOp (fun e s n b =>
    if b.arrived.getLsbD e.g.gid then .suspendHere s .barrier (.bar n true)
    else .next (e.arriveBar s n b))) s

/-- `bar` (15 R340). -/
def execBar (f : Fields) (s : State) : Host.Outcome State Fault Refusal :=
  issue Row.bar f false (barOp (fun e s n b =>
    if b.arrived.getLsbD e.g.gid then .suspendHere s .barrier (.bar n true)
    else if (s.liveGids e.t.id &&& ~~~(b.arrived ||| (1#32 <<< e.g.gid))) == 0 then .next (e.arriveBar s n b)
    else .suspend (e.arriveBar s n b) .barrier (.bar n false))) s

/-- `bar.wait` (15 R340). -/
def execBarWait (f : Fields) (s : State) : Host.Outcome State Fault Refusal :=
  issue Row.barWait f false (barOp (fun e s n b =>
    if b.arrived.getLsbD e.g.gid then .suspend s .barrier (.bar n false) else .next s)) s

/-- `cset` (15 R326). -/
def execCset (f : Fields) (s : State) : Host.Outcome State Fault Refusal :=
  issue Row.cset f false (fun e s =>
    match e.f.dst with
    | .c n =>
      if !(decide (e.f.mod.toNat < 2) && e.f.qual == 0) then .fail cILOPER
      else if e.pendSrc e.f.a then .fail cEARLY
      else if !e.any then .next s
      else
        let nz (i : Nat) : Bool := e.read32 e.f.a i != 0
        let b := if e.f.mod.getLsbD 0 then e.parts.all nz else e.parts.any nz
        .next (s.setGroup (e.g.writeC n.val b (e.lblOf e.f.a)))
    | _ => .fail cILOPER) s

/-- The operators of 15 R327. -/
def copOp (op : Nat) (x y : Bool) : Bool :=
  match op with
  | 0 => x && y
  | 1 => x || y
  | 2 => x != y
  | 3 => x && !y
  | 4 => x || !y
  | 5 => !(x && y)
  | 6 => !(x || y)
  | _ => x == y

/-- A uniform operand of `cop` (15 R324): no latch. -/
def Env.copArg (e : Env) (x : Src) : Bool :=
  match x with
  | .lat _ => false
  | y => e.uniform y

/-- `cop` (15 R327). -/
def execCop (f : Fields) (s : State) : Host.Outcome State Fault Refusal :=
  issue Row.cop f false (fun e s =>
    match e.f.dst with
    | .c n =>
      if !(decide (e.f.mod.toNat < 8) && e.f.qual == 0 && e.copArg e.f.a && e.copArg e.f.b) then .fail cILOPER
      else if e.pendSrc e.f.a || e.pendSrc e.f.b then .fail cEARLY
      else if !e.any then .next s
      else
        let b := copOp e.f.mod.toNat (e.read32 e.f.a e.first != 0) (e.read32 e.f.b e.first != 0)
        .next (s.setGroup (e.g.writeC n.val b (e.lbls [e.f.a, e.f.b])))
    | _ => .fail cILOPER) s

/-- `elect` (15 R338). -/
def execElect (f : Fields) (s : State) : Host.Outcome State Fault Refusal :=
  issue Row.elect f false (fun e s =>
    let ok := match e.f.dst with | .c _ => false | _ => true
    if !(e.plain && ok) then .fail cILOPER
    else if e.pendDst e.f.dst then .fail cEARLY
    else
      let isS := match e.f.dst with | .s _ => true | _ => false
      let vals := if isS then e.parts.map (fun i => (i, BitVec.ofNat 64 e.first))
        else e.parts.map (fun i => (i, if i = e.first then 1 else 0))
      .next (s.setGroup (e.writeResult vals 0 0 true false))) s

end Sys2Proof.Machine
end

