-- ==== Sys2Proof/Machine/System.lean ====
section
/-! DEFINITION. Machine/System.lean: system registers (03 R59, R60; 01 R25), `yield`, `sleep`, `rdclk` (16 R359 to
R362), `trap`, `brk` and `snap` (19 R426 to R429). -/

namespace Sys2Proof.Machine

open Sys2Proof

/-- `sr.topo` (01 R25). -/
def State.topo (s : State) : DWord :=
  BitVec.ofNat 64 (0xB1 + 256 * (s.cl * 12) + 65536 * (if s.part.numa then 1 else 0) +
    131072 * (if s.part.grade576 then 1 else 0))

/-- `sr.ctx` (03 R59). -/
def Ctx.word (c : Ctx) : DWord := BitVec.ofNat 64 (c.colour % 4096 + 4096 * (c.fn % 64))

/-- SR(n), its width and its label; none for a number that is not listed (03 R59). -/
def Env.sreg (e : Env) (s : State) (n : Nat) : Option (DWord × Bool × Label) :=
  match n with
  | 0x01 => some (e.g.mode.setWidth 64, false, mget 0 e.g.srlbl 0)
  | 0x02 => some (e.g.sat.setWidth 64, false, mget 0 e.g.srlbl 1)
  | 0x03 => some (e.g.psize.setWidth 64, false, mget 0 e.g.srlbl 2)
  | 0x10 => some (s.topo, true, 0)
  | 0x11 => some (e.ctx.word, true, 0)
  | _ => none

/-- `srd` (03 R60). -/
def execSrd (f : Fields) (s : State) : Host.Outcome State Fault Refusal :=
  issue Row.srd f true (fun e s =>
    let dstOk := match e.f.dst with | .v _ => true | .s _ => true | _ => false
    match e.sreg s e.f.qual.toNat with
    | none => .fail cILOPER
    | some (v, wide, l) =>
      if !(decide (e.f.mod.toNat < 2) && dstOk) then .fail cILOPER
      else if e.pendDst e.f.dst then .fail cEARLY
      else
        let hi := e.f.mod.getLsbD 0
        let r : DWord := if hi then (v.extractLsb' 32 32).setWidth 64 else v
        .next (s.setGroup (e.writeResult (e.parts.map (fun i => (i, r))) 0 l (wide && !hi) e.isUniform))) s

/-- `swr` (03 R60). -/
def execSwr (f : Fields) (s : State) : Host.Outcome State Fault Refusal :=
  issue Row.swr f false (fun e s =>
    let srcOk := match e.f.a with | .s _ => true | .imm _ => true | .zero => true | _ => false
    let n := e.f.qual.toNat
    if (e.sreg s n).isNone || !(e.f.mod == 0 && srcOk) then .fail cILOPER
    else if n != 0x01 && n != 0x02 then .fail cPRIV
    else if e.pendSrc e.f.a then .fail cEARLY
    else if !e.any then .next s
    else
      let v := e.read32 e.f.a e.first
      let l := e.lblOf e.f.a
      if n = 0x01 then
        if v.toNat ≥ 4096 then .fail cILOPER
        else .next (s.setGroup { e.g with mode := v, srlbl := mset 0 e.g.srlbl 0 l })
      else if v.toNat ≥ 128 then .fail cILOPER
      else .next (s.setGroup { e.g with sat := v, srlbl := mset 0 e.g.srlbl 1 l })) s

/-- The eligible threads of a group with their indices (15 R322); while a handler runs, only those of SUBSET (19 R424). -/
def Group.eligible (g : Group) : List (Thread × Nat) :=
  g.threads.zipIdx.filter (fun p =>
    !p.1.exited && !p.1.held && (!g.frame.active || g.frame.subset.getLsbD p.2))

/-- The PC of each subset (15 R322). -/
def Group.pcs (g : Group) : List (BitVec 56) := (g.eligible.map (·.1.pc)).eraseDups

/-- The threads of the subset at a PC. -/
def Group.subsetAt (g : Group) (pc : BitVec 56) : List (Thread × Nat) := g.eligible.filter (fun p => p.1.pc == pc)

/-- The level of a group (16 R353): eight below its grid's PRIO when every eligible subset is demoted. -/
def Group.level (g : Group) (prio : Nat) : Nat :=
  if g.eligible.all (fun p => p.1.demoted) then min 15 (prio + 8) else prio

/-- The round-robin key of a level on a quadrant. -/
def rrKey (core quad level : Nat) : Nat := (4 * core + quad) * 16 + level

/-- `yield` (16 R360): the quadrant's pointer for the group's level moves to its slot. -/
def execYield (f : Fields) (s : State) : Host.Outcome State Fault Refusal :=
  issue Row.yield f false (fun e s =>
    if !e.plain then .fail cILOPER
    else if !e.any then .next s
    else .next { s with rrobin := mset 0 s.rrobin (rrKey e.g.core e.g.quad (e.g.level e.gr.prio)) e.g.slot }) s

/-- `sleep` (16 R361): WAITING for d cycles from the end of its run. -/
def execSleep (f : Fields) (s : State) : Host.Outcome State Fault Refusal :=
  issue Row.sleep f false (fun e s =>
    if !(e.plain && e.uniform e.f.a) then .fail cILOPER
    else if e.pendSrc e.f.a then .fail cEARLY
    else
      let d := min ((e.read32 e.f.a e.first).toNat + e.imm.toNat) 16777215
      if !e.any || d == 0 then .next s else .suspend s .waiting (.sleep (s.clk + e.cost + d))) s

/-- `rdclk` (16 R362): CLK when the instruction commits. -/
def execRdclk (f : Fields) (s : State) : Host.Outcome State Fault Refusal :=
  issue Row.rdclk f true (fun e s =>
    let dstOk := match e.f.dst with | .p _ => false | .c _ => false | _ => true
    if !(decide (e.f.mod.toNat < 2) && e.f.qual == 0 && dstOk) then .fail cILOPER
    else if e.pendDst e.f.dst then .fail cEARLY
    else
      let hi := e.f.mod.getLsbD 0
      let v : DWord := BitVec.ofNat 64 s.clk
      let r : DWord := if hi then (v.extractLsb' 32 32).setWidth 64 else v
      .next (s.setGroup (e.writeResult (e.parts.map (fun i => (i, r))) 0 0 true e.isUniform))) s

/-- `trap` (19 R427). -/
def execTrap (f : Fields) (s : State) : Host.Outcome State Fault Refusal :=
  issue Row.trap f false (fun e s =>
    if !e.plain then .fail cILOPER
    else if !e.any then .next s
    else .exc { code := cSOFTWARE, aux := e.imm.setWidth 64, rpcAfter := true }) s

/-- `brk` (19 R428): BREAKPOINT when a debugger is attached. -/
def execBrk (f : Fields) (s : State) : Host.Outcome State Fault Refusal :=
  issue Row.brk f false (fun e s =>
    if !e.plain then .fail cILOPER
    else if !(e.any && e.ctx.debugger) then .next s
    else .exc { code := cBREAK, rpcAfter := true }) s

/-- `snap` (19 R429): the SW source of the snapshot trigger, with IMM as tag. -/
def execSnap (f : Fields) (s : State) : Host.Outcome State Fault Refusal :=
  issue Row.snap f false (fun e s =>
    if !e.plain then .fail cILOPER
    else if !e.any then .next s
    else .next (s.snapSource 0 0 e.ctx.fn e.imm)) s

end Sys2Proof.Machine
end

