-- ==== Sys2Proof/Machine/Memory.lean ====
section
/-! DEFINITION. Machine/Memory.lean: the memory class (13 R268 to R298; 12 R262): loads, stores, the tarn, atomics,
bindings, releases, acquires and fences, and `qwait`. -/

namespace Sys2Proof

/-! ### Readings of the field values of an instruction word -/

/-- The index scale (13 R268). -/
def Fields.scale (f : Fields) : Nat := (f.qual.extractLsb' 5 3).toNat

/-- HINT (06 R116). -/
def Fields.hint (f : Fields) : Nat := (f.qual.extractLsb' 3 2).toNat

/-- The queue named (13 R273). -/
def Fields.queue (f : Fields) : Fin 8 := (f.qual.extractLsb' 0 3).toFin

/-- SIZE, POS and SX (13 R269). -/
def Fields.size (f : Fields) : Nat := (f.mod.extractLsb' 0 3).toNat
/-- POS. -/
def Fields.pos (f : Fields) : Nat := (f.mod.extractLsb' 3 2).toNat
/-- SX. -/
def Fields.sx (f : Fields) : Bool := f.mod.getLsbD 5

/-- SCOPE (06 R116). -/
def Fields.scope (f : Fields) : Nat := (f.mod.extractLsb' 0 3).toNat

/-- QUAL of a memory-operand instruction is legal: scale, hint, and the queue bits zero where no queue is named. -/
def Fields.qualOk (f : Fields) (queued : Bool) : Bool :=
  decide (f.scale ≤ 4) && decide (f.hint ≤ 2) && (queued || f.queue == 0)

/-- SIZE, POS and SX of a load or a store are legal (13 R269). -/
def Fields.sizeOk (f : Fields) (load : Bool) : Bool :=
  let posOk := if f.size = 5 then decide (f.pos ≤ 1) else f.size == 6 || f.pos == 0
  posOk && (!f.sx || (load && (f.size == 0 || f.size == 1 || f.size == 5 || f.size == 6)))

/-- An s destination. -/
def Dst.isS : Dst → Bool
  | .s _ => true
  | _ => false

/-- An s source. -/
def Src.isS : Src → Bool
  | .s _ => true
  | _ => false

/-- OP in MOD[5:4] with MOD[3] zero. -/
def Fields.op2 (f : Fields) : Nat := (f.mod.extractLsb' 4 2).toNat

/-- SCOPE of a sync instruction: 0 and 3 are illegal. -/
def Fields.syncScope (f : Fields) : Bool := f.scope != 0 && f.scope != 3

/-- The queue set of a `qwait` (13 R275). -/
def Fields.qset (f : Fields) : BitVec 8 := if f.mod.getLsbD 0 then 0xFF else 1#8 <<< (f.qual.toNat % 8)

end Sys2Proof

namespace Sys2Proof.Machine

open Sys2Proof

/-! ### Memory operands (13 R268 to R272) -/

/-- One thread's access: its thread, capability and effective address. -/
structure MemAcc where
  i : Nat
  k : TCap
  ea : Int

/-- The effective address of a thread (13 R268). -/
def Env.ea (e : Env) (i : Nat) : Int :=
  ((e.cap e.f.a i).addr : Int) + (e.read32 e.f.b i).toInt * ((2 ^ e.f.scale : Nat) : Int) + e.imm.toInt

/-- The accesses of the given threads. -/
def Env.accs (e : Env) (is : List Nat) : List MemAcc := is.map (fun i => ⟨i, e.cap e.f.a i, e.ea i⟩)

/-- A check that fails for some access, with the address it reports. -/
abbrev Check := Byte × (MemAcc → Option Int)

/-- The first check that fails, for its lowest failing thread (13 R271). -/
def firstFail (cs : List Check) (as : List MemAcc) : Option Exc :=
  cs.findSome? (fun c => as.findSome? (fun a =>
    (c.2 a).map (fun x => { code := c.1, fthread := some a.i, faddr := bitsOf 64 x })))

/-- A check that reports the effective address. -/
def chk (c : Byte) (p : MemAcc → Bool) : Check := (c, fun a => if p a then some a.ea else none)

/-- Step 8 of 13 R271: the effective address of an access outside the bounds, or, for a packed block (three bytes, 13
R270), the first byte of the part that fails (12 R267). -/
def boundFail (n : Nat) (a : MemAcc) : Option Int :=
  if a.ea < 0 ∨ a.ea + n > ((2 ^ 56 : Nat) : Int) then some a.ea
  else if a.k.inBounds a.ea.toNat n then none
  else if n = 3 then (((List.range 3).find? (fun j => !a.k.inBounds (a.ea.toNat + j) 1)).map (fun j => a.ea + (j : Int))) <|> some a.ea
  else some a.ea

/-- The access needs TILE (17 R370): a window offset of 0x40_0000 or above of a team block. -/
def needsTile (a : Int) : Bool :=
  decide (0 ≤ a) && isWin a.toNat && !isTarnWin a.toNat && decide (a.toNat % 2 ^ 38 ≥ 0x400000)

/-- Steps 3 to 8 of 13 R271. -/
def capSteps (s : State) (c : Ctx) (kindOk : MemAcc → Bool) (perms : MemAcc → List Nat) (n : Nat) : List Check :=
  [chk cTAG (fun a => !a.k.tag), chk cSEAL (fun a => a.k.otype != 0), chk cKIND (fun a => !kindOk a),
   chk cCOLOUR (fun a => !s.permits c a.k.col),
   chk cPERM (fun a => (perms a).any (fun p => !a.k.has p) || (needsTile a.ea && !a.k.has pTILE)),
   (cBOUND, boundFail n)]

/-- Step 9 (13 R270, 03 R64). -/
def alignStep (al n : Nat) : Check :=
  chk cALIGN (fun a => a.ea.toNat % al != 0 || (isWin a.ea.toNat && !winAligned a.ea.toNat n))

/-- The limit of 18 R394 on the label of written data. -/
def lblLimit (k : TCap) (a : Nat) : Nat := if isHost a then min k.lbl.toNat 1 else k.lbl.toNat

/-- Steps 10 and 11 for written data of a label. -/
def storeSteps (s : State) (l : Label) (n : Nat) : List Check :=
  [chk cLABEL (fun a => decide (l.toNat > lblLimit a.k a.ea.toNat)),
   (cCOSTORE, fun a => ((lineParts a.ea.toNat n).find? (fun p => s.coAt p.1 p.2)).map (fun p => (p.1 : Int)))]

/-- The capability's range lies in the tarn window (13 R272). -/
def TCap.tarnWin (k : TCap) : Bool := isTarnWin k.bounds.1.toNat

/-- An address outside every populated region (01 R20, R21). -/
def unpopulatedAt (as : List MemAcc) : Option Nat :=
  (as.find? (fun a => !(isDev a.ea.toNat || isWin a.ea.toNat || isHost a.ea.toNat))).map (fun a => a.ea.toNat)

/-- Latest stamps that restrict a load of [a, a + n) (12 R251): L1 and remote-data-cache copies must be later. A region that the
bytes meet restricts them. -/
def Env.partStamps (e : Env) (tn : Taint) (a n : Nat) : Nat × Nat :=
  let rs := e.g.acquiredRanges.foldl (fun m r => if a < r.2.1 ∧ r.1 < a + n then max m r.2.2 else m) 0
  let base := max rs <| (List.range 8).foldl (fun m n => if tn.getLsbD n then max m (mget 0 e.g.qstamp n) else m) e.g.admitStamp
  let (l, r) := e.t.binds.foldl (fun p b =>
    if b.2.meets a n then (max p.1 b.2.stampL1, max p.2 b.2.stampRdc) else p) (0, 0)
  (max base (max e.g.fenceL1 l), max base (max e.g.fenceRdc r))

/-- The same for each part of an access by line (12 R267), taken when the load issues: a stamp that moves while the load waits does not
restrict it (DESIGN CHOICE, log entry 123: the spec names that instant for the taint alone, R261). -/
def Env.minStamps (e : Env) (tn : Taint) (a n : Nat) : List (Nat × Nat) :=
  (lineParts a n).map (fun p => e.partStamps tn p.1 p.2)

/-- The group waits for a window access of its own to its own block, which is performed only when its run has ended (03 R64). -/
def State.ownWin (s : State) (g : Group) : Bool :=
  s.wins.any (fun p => p.2.byTeam == g.team && p.2.byGid == g.gid && s.winGroup p.2.addr == some (g.team, g.gid))

/-- An instruction whose first step needs every load of the group below an issue number to have read, and every window store below an
identity to have been performed (12 R255 and R258, step 1): an element that waits for a page raises HOST_PAGE at it (13 R274); a run
that holds up its group's own window access stops (DEDUCED, log entry 46); else it waits at issue. -/
def Env.firstStep (e : Env) (s : State) (upto id : Nat) : Option Out :=
  let g := e.groupIn s
  match g.firstPage with
  | some (i, a) => some (.exc { code := cHPAGE, fthread := some i, faddr := a })
  | none =>
    if !g.earlierWaits upto && !s.winWaits e.g.team e.g.gid id then none
    else if s.ownWin g then some (.stop s .ready .none)
    else some (.stall s)

/-- A `rel` or a `fence` does not wait for a load that waits for a page (13 R274): every host-window element of the group that still
waits reads now, as far as it can. One that waits for a page raises HOST_PAGE here; one whose translation is not known yet keeps the
instruction at issue, as it keeps a store (DEDUCED, log entry 46). -/
def Env.hostFirst (e : Env) (s : State) (k : State → Out) : Out :=
  let host (_ : Load) (x : LoadElem) : Bool := isHost x.addr
  if !e.g.anyWaiting host && e.g.firstPage.isNone then k s
  else
    let s1 := s.readElems e.g.team e.g.gid host
    match (e.groupIn s1).firstPage with
    | some (i, a) => .excIn s1 { code := cHPAGE, fthread := some i, faddr := a }
    | none => if (e.groupIn s1).anyWaiting host then .stall s1 else k s1

/-- A later access waits at issue while a fence of the group is under way (12 R258, 13 R295). -/
def Env.gate (e : Env) (s : State) (o : Out) : Out :=
  if e.g.fencing = 0 then o
  else
    match mfind s.syncs e.g.fencing with
    | some op => (e.firstStep s op.upto op.id).getD (.stall s)
    | none => o

/-! ### Issuing a load (13 R273) -/

/-- Pending, taint and label of the destination registers at issue, and their tags cleared (13 R273, 03 R56). -/
def Group.loadMark (g : Group) (dst : Dst) (k ks : Nat) (q : Fin 8) (part : Mask) (tn : Taint) (l : Label) : Group :=
  let mark (full : Bool) (d : Side) : Side := { (d.write full tn l) with pend := true, pq := q }
  match dst with
  | .v n =>
    let g1 := (List.range k).foldl (fun g j => g.setVsd (n.val + j) (mark (g.full part) (g.vsd (n.val + j)))) g
    (List.range k).foldl (fun g j =>
      (maskList part 64).foldl (fun g i => g.setVtag ((n.val + j) / 4) i false) g) g1
  | .s n =>
    (List.range ks).foldl (fun g j =>
      (g.setSsd (n.val + j) (mark true (g.ssd (n.val + j)))).setStag ((n.val + j) / 2) false) g
  | _ => g

/-- The threads by which an instruction acts: the lowest alone when it executes once (04 R80). -/
def Env.actors (e : Env) (once : Bool) : List Nat := if once then e.parts.take 1 else e.parts

/-- Add a load with its elements, and its window accesses (13 R273, R276). -/
def Env.addLoad (e : Env) (s : State) (kind : LoadKind) (k ks : Nat) (tn : Taint) (l : Label) (xs : List LoadElem) :
    State :=
  let q := e.f.queue
  let g := e.groupIn s
  let tn1 := tn ||| (1#8 <<< q.val)
  let ld : Load := ⟨g.nextIseq, q, BitVec.ofNat 56 e.pc, e.f.dst, kind, xs⟩
  let g1 := g.loadMark e.f.dst k ks q e.part tn1 l
  let s1 := s.setGroup { g1 with loads := g1.loads ++ [ld], nextIseq := g1.nextIseq + 1 }
  xs.foldl (fun s x =>
    if isWin x.addr then
      s.addWin ⟨0, e.g.team, e.g.gid, some (ld.iseq, x.thread), x.addr, x.bytes, [], [], some x.keepTag, 0⟩
    else s) s1

/-- The shared part of `ld` and `ldk`. -/
def Env.load (e : Env) (s : State) (capk : Bool) : Out :=
  let f := e.f
  let size := if capk then 4 else f.size
  let n := sizeBytes size
  let (k, ks) := sizeRegs size
  let dstOk := match f.dst with
    | .v d => vShape e.gr.vregs k d.val
    | .s d => d.val % ks == 0 && e.uniform f.a && e.uniform f.b
    | .none => !capk
    | _ => false
  if e.capPend f.a || e.pendSrc f.b || e.shapePendDst f.dst k ks then .fail cEARLY
  else if !((if capk then f.mod == 0 else f.sizeOk true) && f.qualOk true && e.capSrcOk f.a && dstOk) then .fail cILOPER
  else if !e.any then .next s
  else e.gate s (
    let as := e.accs (e.actors f.dst.isS)
    let kindOk (a : MemAcc) : Bool := a.k.kind == 0 || (a.k.kind == 3 && !(capk && a.k.tarnWin))
    match firstFail (capSteps s e.ctx kindOk (fun _ => [pLD]) n ++ [alignStep (sizeAlign size) n]) as with
    | some x => .exc x
    | none =>
      match unpopulatedAt as with
      | some a => .bad (.unpopulated a)
      | none =>
        let tn := e.capTaint f.a ||| e.taintOf f.b
        let l := Label.max (e.capLbl f.a) (e.lblOf f.b)
        let xs : List LoadElem := as.map (fun a =>
          ⟨a.i, a.ea.toNat, n, e.minStamps tn a.ea.toNat n, capk && a.k.has pLDCAP, a.k.col, .waiting⟩)
        .next (e.addLoad s (if capk then .cap else .plain size f.pos f.sx) k ks tn l xs))

/-- `ld` (13 R276). -/
def execLd (f : Fields) (s : State) : Host.Outcome State Fault Refusal :=
  issue Row.ld f false (fun e s => e.load s false) s

/-- `ldk` (13 R277). -/
def execLdk (f : Fields) (s : State) : Host.Outcome State Fault Refusal :=
  issue Row.ldk f false (fun e s => e.load s true) s

/-! ### Stores (13 R278) -/

/-- The data of a store in a thread: the low bits of its registers (13 R269). -/
def Env.data (e : Env) (x : Src) (size i : Nat) : Nat :=
  match x with
  | .v n => (List.range (sizeRegs size).1).foldl (fun a j => a + (e.g.vget (n.val + j) i).toNat * 2 ^ (32 * j)) 0
  | .s n => (List.range (sizeRegs size).2).foldl (fun a j => a + (e.g.sget (n.val + j)).toNat * 2 ^ (64 * j)) 0
  | y => (e.read y i).toNat

/-- The data operand has the shape of its size (13 R269). -/
def Env.dataOk (e : Env) (x : Src) (size : Nat) : Bool :=
  match x with
  | .v n => vShape e.gr.vregs (sizeRegs size).1 n.val
  | .s n => n.val % (sizeRegs size).2 == 0
  | _ => size != 3 && size != 4

/-- Two ranges of a list overlap. -/
def anyOverlap (n : Nat) : List Nat → Bool
  | [] => false
  | a :: as => as.any (fun b => overlaps a n b n) || anyOverlap n as

/-- The order in which the elements of one instruction reach bytes they share: the spec fixes none, so a free value
chooses which comes last (log entry 3). -/
def State.anyOrder {α : Type} (s : State) (overlap : Bool) (xs : List α) : List α × State :=
  if overlap then
    let (w, s1) := s.drawD
    let r := w.toNat % xs.length
    (xs.drop r ++ xs.take r, s1)
  else (xs, s)

/-- An instruction's accesses to the host window at issue: a fault, or requests to wait for. The page whose request failed while the
group was REPLAYABLE at this instruction gives HOST_DENIED (18 R409). -/
def Env.hostAccess (e : Env) (s : State) (as : List MemAcc) (n : Nat) (write : Bool) : Option Out :=
  let fn := e.ctx.fn
  let hs := as.filter (fun a => isHost a.ea.toNat)
  let all := hs.flatMap (fun a => (s.transParts fn a.k.col a.ea.toNat n write).map (fun p => (a, p)))
  let asks := all.filterMap (fun p => match p.2.2.2 with | .ask x y => some (x, y) | _ => none)
  let lost (p : MemAcc × Nat × Nat × Trans) : Bool :=
    match p.2.2.2 with
    | .ask x y => e.g.refused == some (x, y)
    | .page => e.g.refused.any (fun r => (s.pasidOf fn p.1.k.col) == some r.1 && iovaOf p.2.1 / 4096 == r.2)
    | _ => false
  match all.find? lost with
  | some p => some (.excIn (s.modGroup e.g.team e.g.gid (fun g => { g with refused := none }))
      { code := cHDENIED, fthread := some p.1.i, faddr := p.2.1 })
  | none =>
  if !asks.isEmpty then some (.stall (asks.foldl (fun s q => s.askAts fn q.1 q.2 write false) s))
  else
    all.findSome? (fun p =>
      match p.2.2.2 with
      | .denied => some (.exc { code := cHDENIED, fthread := some p.1.i, faddr := p.2.1 })
      | .page => some (.exc { code := cHPAGE, fthread := some p.1.i, faddr := p.2.1 })
      | _ => none)

/-- Step 12 of 13 R271 for stores into the host window (13 R278). -/
def Env.hostStep (e : Env) (s : State) (as : List MemAcc) (n : Nat) : Option Out := e.hostAccess s as n true

/-- The instruction that replays has passed its accesses to the host window: a refusal concerns it no more. -/
def Env.clearRefused (e : Env) (s : State) : State :=
  if e.g.refused.isSome then s.modGroup e.g.team e.g.gid (fun g => { g with refused := none }) else s

/-- One element of a store that passed every check (12 R250, 03 R64). One to a tarn is performed as it commits, unless an absent line
or an earlier access of the group to that tarn holds it up (12 R265, 13 R278). -/
def Env.storeElem (e : Env) (s : State) (a : MemAcc) (bs : List (Byte × Byte)) (l : Label) (tag : Option Bool) : State :=
  let ea := a.ea.toNat
  if isWin ea then
    let s1 := (s.addWin ⟨0, e.g.team, e.g.gid, none, ea, bs.length, bs.map (·.1), bs.map (·.2), tag, l⟩).noteWin
      (.cache (.l1 e.g.core)) (s.dieOfCore e.g.core) ea
    if isTarnWin ea then s1.drainTarn e.g.team e.g.gid else s1
  else
    let parts := (s.transParts e.ctx.fn a.k.col ea bs.length true).map (fun p =>
      (p.1, p.2.1, if isHost ea then (match p.2.2 with | .ok h => some h | _ => none) else none))
    let s0 := s.programOrder e.g.team e.g.gid a.i ea bs.length true
    let s1 := s0.storeParts e.g.core a.k.col l (tag == some true) parts bs
    let s2 := if isDev ea then s1.softTouch ea bs.length else s1
    s2.modGroup e.g.team e.g.gid (fun g =>
      { g with written := (parts.foldl (fun (m : List Nat) p => if m.contains (p.1 / 128) then m else m ++ [p.1 / 128]) g.written) })

/-- The shared part of `st` and `stk`. -/
def Env.store (e : Env) (s : State) (capk : Bool) : Out :=
  let f := e.f
  let size := if capk then 4 else f.size
  let n := sizeBytes size
  let (k, ks) := sizeRegs size
  if e.capPend f.a || e.pendSrc f.b || e.shapePend f.c k ks then .fail cEARLY
  else if !((if capk then f.mod == 0 && e.capSrcOk f.c else f.sizeOk false && e.dataOk f.c size) && f.qualOk false &&
      e.capSrcOk f.a) then .fail cILOPER
  else if !e.any then .next s
  else e.gate s (
    let as := e.accs e.parts
    let dat (a : MemAcc) : TCap := if capk then e.cap f.c a.i else TCap.null
    let kindOk (a : MemAcc) : Bool := a.k.kind == 0 || (a.k.kind == 3 && !(capk && a.k.tarnWin))
    let perms (a : MemAcc) : List Nat := pST :: (if (dat a).tag then [pSTCAP] else [])
    let ownBlock (a : MemAcc) : Bool :=
      a.k.kind == 3 && decide (0 ≤ a.ea) && isWin a.ea.toNat && !isTarnWin a.ea.toNat &&
        (s.winTeam a.ea.toNat).any (fun p => p.1.id == e.t.id)
    let glob : Check := chk cPERM (fun a => (dat a).tag && !(dat a).has pGLOBAL && !ownBlock a)
    let cs := capSteps s e.ctx kindOk perms n
    let l := e.shapeLbl f.c k ks
    match firstFail (cs.take 5 ++ [glob] ++ cs.drop 5 ++ [alignStep (sizeAlign size) n] ++ storeSteps s l n) as with
    | some x => .exc x
    | none =>
      match unpopulatedAt as with
      | some a => .bad (.unpopulated a)
      | none =>
        match e.hostStep s as n with
        | some o => o
        | none =>
          match as.findSome? (fun a =>
            if isWin a.ea.toNat then
              (s.winFault a.ea.toNat n true none).map (fun c =>
                ({ code := c, fthread := some a.i, faddr := s.winFaddr (s.winTgt a.ea.toNat) a.ea.toNat n c } : Exc))
            else none) with
          | some x => .exc x
          | none =>
            let (as1, s1) := s.anyOrder (anyOverlap n (as.map (fun a => a.ea.toNat))) as
            .next (as1.foldl (fun s a =>
              let bs := storeBytes size f.pos (e.data f.c size a.i)
              let tag := if capk then some (s.storedTag (dat a) && !isHost a.ea.toNat) else none
              e.storeElem s a bs l tag)
              (e.clearRefused s1)))

/-- `st` (13 R278). -/
def execSt (f : Fields) (s : State) : Host.Outcome State Fault Refusal :=
  issue Row.st f false (fun e s => e.store s false) s

/-- `stk` (13 R277). -/
def execStk (f : Fields) (s : State) : Host.Outcome State Fault Refusal :=
  issue Row.stk f false (fun e s => e.store s true) s

/-! ### The tarn (13 R279 to R281) -/

/-- The window address of a team's tarn on a core, from bit 38 up (03 R61). -/
def State.tarnPrefix (s : State) (core slot : Nat) : Nat :=
  2 ^ 13 + s.blockPrefix core slot

/-- The checks of `ldt` and `stt` on their capability (13 R272). -/
def Env.tarnChecks (e : Env) (s : State) (r : CoreRes) (perm n al : Nat) : List Check :=
  let own (a : MemAcc) : Bool :=
    decide (a.ea.toNat / 2 ^ 38 = s.tarnPrefix r.core r.slot) && decide (a.ea.toNat % 2 ^ 38 + n ≤ e.gr.tarn * 4096)
  capSteps s e.ctx (fun a => a.k.kind == 3) (fun _ => [perm]) n ++
    [chk cBOUND (fun a => !own a), alignStep al n]

/-- The absent lines that accesses meet, on a core. -/
def absentLines (r : CoreRes) (as : List MemAcc) (n : Nat) : List (Nat × Nat) :=
  ((as.flatMap (fun a => tarnLines (a.ea.toNat % 2 ^ 38) n)).filter r.absent).eraseDups.map (fun l => (r.core, l))

/-- The resources of the executing group's core. -/
def Env.coreRes (e : Env) : CoreRes :=
  (e.t.core? e.g.core).getD ⟨e.g.core, 0, [], [], [], [], [], [], []⟩

/-- Write a multi-register result: `k` v registers per thread, or s registers (13 R269). -/
def Env.writeWide (e : Env) (size : Nat) (vals : List (Nat × Nat)) (tn : Taint) (l : Label) : Group :=
  match e.f.dst, vals with
  | .v n, vs =>
    (List.range (sizeRegs size).1).foldl (fun g j =>
      g.writeV (n.val + j) (vs.map (fun p => (p.1, BitVec.ofNat 32 (p.2 / 2 ^ (32 * j))))) tn l) e.g
  | .s n, (_, x) :: _ =>
    (List.range (sizeRegs size).2).foldl (fun g j =>
      g.writeS (n.val + j) (BitVec.ofNat 64 (x / 2 ^ (64 * j))) tn l) e.g
  | _, _ => e.g

/-- An access of the group through a window to its team's tarn on a core is still to be performed: its program order comes first (00
R2, 12 R265). -/
def Env.tarnQueued (e : Env) (s : State) (at_ : Nat) : Bool :=
  s.wins.any (fun p => p.2.byTeam == e.g.team && p.2.byGid == e.g.gid &&
    (match s.winTgt p.2.addr with
      | some (.tarn team core _) => team == e.t.id && core == at_
      | _ => false))

/-- An instruction that reaches tarns of its team: it parks at an absent line that it touches (13 R281); the group's own earlier
accesses to those tarns are performed first, and while one cannot be it waits at issue (12 R265). -/
def Env.tarnFirst (e : Env) (s : State) (gone : List (Nat × Nat)) (cores : List Nat) (k : State → Out) : Out :=
  if !gone.isEmpty then .stop s .parked (.park gone)
  else
    let s1 := s.drainTarn e.g.team e.g.gid
    if cores.any (e.tarnQueued s1) then .stall s1 else k s1

/-- The resources of the executing group's core, as a state holds them. -/
def Env.coreResIn (e : Env) (s : State) : CoreRes := ((s.team? e.t.id).bind (fun t => t.core? e.g.core)).getD e.coreRes

/-- `ldt` (13 R279). A uniform destination and address load once (R269); the captured latch of every taking-part thread holds the
value (04 R84). -/
def execLdt (f : Fields) (s : State) : Host.Outcome State Fault Refusal :=
  issue Row.ldt f (f.size != 3 && f.size != 4) (fun e s =>
    let n := sizeBytes f.size
    let (k, ks) := sizeRegs f.size
    let dstOk := match f.dst with
      | .v d => vShape e.gr.vregs k d.val
      | .s d => d.val % ks == 0 && e.uniform f.a && e.uniform f.b
      | .lat _ => true
      | .none => asksCapture f
      | _ => false
    if e.capPend f.a || e.pendSrc f.b || e.shapePendDst f.dst k ks then .fail cEARLY
    else if !(f.sizeOk true && f.qualOk false && e.capSrcOk f.a && dstOk) then .fail cILOPER
    else if !e.any then .next (s.setGroup (e.writeResult [] 0 0 false e.isUniform))
    else e.gate s (
      let as := e.accs (e.actors f.dst.isS)
      let r := e.coreRes
      match firstFail (e.tarnChecks s r pLD n (sizeAlign f.size)) as with
      | some x => .exc x
      | none =>
        let off (a : MemAcc) : Nat := a.ea.toNat % 2 ^ 38
        e.tarnFirst s (absentLines r as n) [r.core] (fun s =>
        let r := e.coreResIn s
        if let some x := as.findSome? (fun a => (badIn r.tbad (off a) n).map (fun w => (a.i, w))) then
          .exc { code := cUNCORR, fthread := some x.1, faddr := s.blockAt r true (4 * x.2) }
        else
          let l := as.foldl (fun l a => (tarnLines (off a) n).foldl (fun l j =>
            Label.max l (mget TLine.clear r.tline j).lbl) l) (Label.max (e.capLbl f.a) (e.lblOf f.b))
          let tn := e.capTaint f.a ||| e.taintOf f.b
          let got := as.map (fun a => (a.i, elemValue f.size f.pos f.sx (natOfBytes (bytesAt r.tarn (off a) n))))
          let vals := if f.dst.isS then e.parts.map (fun i => (i, ((got.head?).map (·.2)).getD 0)) else got
          let g := if f.size = 3 ∨ f.size = 4 then e.writeWide f.size vals tn l
            else e.writeResult (vals.map (fun p => (p.1, BitVec.ofNat 64 p.2))) tn l false e.isUniform
          .next (s.setGroup g)))) s

/-- `stt` (13 R279). -/
def execStt (f : Fields) (s : State) : Host.Outcome State Fault Refusal :=
  issue Row.stt f false (fun e s =>
    let n := sizeBytes f.size
    let (k, ks) := sizeRegs f.size
    if e.capPend f.a || e.pendSrc f.b || e.shapePend f.c k ks then .fail cEARLY
    else if !(f.sizeOk false && f.qualOk false && e.capSrcOk f.a && e.dataOk f.c f.size) then .fail cILOPER
    else if !e.any then .next s
    else e.gate s (
      let as := e.accs e.parts
      let r := e.coreRes
      let l := e.shapeLbl f.c k ks
      match firstFail (e.tarnChecks s r pST n (sizeAlign f.size) ++ (storeSteps s l n).take 1) as with
      | some x => .exc x
      | none =>
        e.tarnFirst s (absentLines r as n) [r.core] (fun s =>
          let (as1, s1) := s.anyOrder (anyOverlap n (as.map (fun a => a.ea.toNat))) as
          .next (s1.modCore e.t.id e.g.core (fun r =>
            as1.foldl (fun r a => r.tarnWrite (a.ea.toNat % 2 ^ 38) (storeBytes f.size f.pos (e.data f.c f.size a.i)) l) r))))) s

/-! ### Fences before an operation (12 R255, R258; 13 R274, R282) -/

/-- What the first steps of a scoped atomic come to. -/
inductive Pre where
  /-- They have been taken. -/
  | go (s : State)
  /-- The instruction waits or faults. -/
  | stop (o : Out)

/-- The sources whose packets the events of a group gather markers for. -/
def Env.sources (e : Env) (s : State) : List Source := s.sourcesOf e.g.core

/-- Steps 1 to 3 of a fence before an atomic with SCOPE ≠ 0 (13 R282): the request leaves once the markers are in. -/
def Env.fenceFirst (e : Env) (s : State) (scope : Nat) : Pre :=
  if scope = 0 then .go s
  else
    match e.firstStep s (e.groupIn s).nextIseq s.nextId with
    | some o => .stop o
    | none =>
      let s2 := s.flushWritten e.g.team e.g.gid scope
      if scope ≥ 6 && !(s2.markersOf (e.sources s2) (scope == 7)).isEmpty then
        .stop (.stall (s2.syncIssue e.g.team e.g.gid .gather scope (e.groupIn s2).nextIseq (e.sources s2)))
      else .go s2

/-! ### Atomics (13 R282 to R288) -/

/-- Issue the requests of an atomic: the elements that address one engine together (13 R283). -/
def Env.addAtoms (e : Env) (s : State) (op : AtomOp) (width iseq : Nat) (xs : List AtomElem) : State :=
  let cls := (xs.map (fun x => s.homeCluster x.addr)).eraseDups
  cls.foldl (fun s c =>
    let (id, s1) := s.fresh
    let r : AtomReq := ⟨id, e.g.team, e.g.gid, iseq, op, width, c, xs.filter (fun x => s.homeCluster x.addr == c)⟩
    { s1 with atoms := mput s1.atoms id r }) s

/-- The shared part of `atom`, `atomf` and `cas`: `wide` is the 64-bit width, `once` says that it executes once. -/
def Env.atomic (e : Env) (s : State) (ok : Bool) (op : AtomOp) (srcs : List Src) (wide once : Bool) : Out :=
  let f := e.f
  let n := if wide then 8 else 4
  let dstOk := match f.dst with
    | .v d => !wide && decide (d.val < e.gr.vregs)
    | .s _ => e.uniform f.a && e.uniform f.b && srcs.all e.uniform
    | .none => true
    | _ => false
  let wideOk := !wide || (isSPair f.a && e.uniform f.b && srcs.all e.uniform)
  if e.capPend f.a || e.pendSrc f.b || srcs.any e.pendSrc || e.pendDst f.dst then .fail cEARLY
  else if !(ok && f.scope != 3 && f.qualOk true && e.capSrcOk f.a && dstOk && wideOk) then .fail cILOPER
  else if !e.any then .next s
  else e.gate s (
    let as := e.accs (e.actors (once || f.dst.isS))
    let kindOk (a : MemAcc) : Bool := a.k.kind == 0 && decide (0 ≤ a.ea) && isDev a.ea.toNat
    let l := e.lbls srcs
    let written := e.lbls (srcs.drop (srcs.length - 1))
    match firstFail (capSteps s e.ctx kindOk (fun _ => [pLD, pST]) n ++ [alignStep n n] ++ storeSteps s written n) as with
    | some x => .exc x
    | none =>
      match unpopulatedAt as with
      | some a => .bad (.unpopulated a)
      | none =>
        match e.fenceFirst s f.scope with
        | .stop o => o
        | .go s1 =>
          let s2 := as.foldl (fun s a => s.programOrder e.g.team e.g.gid a.i a.ea.toNat n true) s1
          let s3 := as.foldl (fun s a =>
            let s1 := s.writeBackAll e.g.core (a.ea.toNat / 128) a.k.col
            (s1.dropCopy (.l1 e.g.core) (a.ea.toNat / 128) a.k.col).dropCopy (.rdc (s.dieOfCore e.g.core))
              (a.ea.toNat / 128) a.k.col) s2
          let tn := e.capTaint f.a ||| e.taintOf f.b
          let ld := Label.max (Label.max (e.capLbl f.a) (e.lblOf f.b)) l
          let iseq := (e.groupIn s3).nextIseq
          let s4 := e.addLoad s3 (.atomic n) 1 1 tn ld (as.map (fun a =>
            ⟨a.i, a.ea.toNat, n, [], false, a.k.col, .waiting⟩))
          let val (x : Option Src) (i : Nat) : DWord :=
            match x with
            | some x => if wide then e.read x i else (e.read32 x i).setWidth 64
            | none => 0
          let xs : List AtomElem := as.map (fun a =>
            match op with
            | .cas => ⟨a.i, a.ea.toNat, val srcs[1]? a.i, val srcs[0]? a.i, written, a.k.col⟩
            | _ => ⟨a.i, a.ea.toNat, val srcs[0]? a.i, 0, written, a.k.col⟩)
          .next (e.addAtoms s4 op n iseq xs))

/-- `atom` (13 R284). -/
def execAtom (f : Fields) (s : State) : Host.Outcome State Fault Refusal :=
  issue Row.atom f false (fun e s =>
    let op : AtomOp := match f.op2 with | 0 => .add | 1 => .exch | 2 => .maxu | _ => .orr
    e.atomic s (!f.mod.getLsbD 3) op [f.c] f.c.isS f.c.isS) s

/-- `atomf` with every operand uniform executes once (13 R285). -/
def Env.atomfOnce (e : Env) : Bool :=
  e.uniform e.f.a && e.uniform e.f.b && e.uniform e.f.c && (match e.f.dst with | .v _ => false | _ => true)

/-- `atomf` other than `.add.ord` (13 R285). -/
def execAtomf (f : Fields) (s : State) : Host.Outcome State Fault Refusal :=
  issue Row.atomf f false (fun e s =>
    let op : AtomOp := match f.op2 with | 0 => .fadd | 2 => .fmin | _ => .fmax
    e.atomic s (!f.mod.getLsbD 3 && f.op2 != 1) op [f.c] false e.atomfOnce) s

/-- `atomf.add.ord` (13 R285, R287). -/
def execAtomfAddOrd (f : Fields) (s : State) : Host.Outcome State Fault Refusal :=
  issue Row.atomf f false (fun e s =>
    e.atomic s (!f.mod.getLsbD 3 && f.op2 == 1 && f.dst == .none) .ord [f.c] false e.atomfOnce) s

/-- `cas` (13 R286). -/
def execCas (f : Fields) (s : State) : Host.Outcome State Fault Refusal :=
  issue Row.cas f false (fun e s =>
    e.atomic s (f.mod.extractLsb' 3 3 == 0#3 && f.c.isS == f.d.isS) .cas [f.c, f.d] (f.c.isS && f.d.isS)
      (f.c.isS && f.d.isS)) s

/-! ### Sync objects (13 R291 to R295) -/

/-- The binding entry named, when it is within the allocation. -/
def Env.entryOk (e : Env) : Bool := e.f.qual.extractLsb' 4 4 == 0#4 && decide (e.f.qual.toNat < e.gr.binds)

/-- The first failing check of a capability, reported with its ADDR (19 R419). -/
def capExc (k : TCap) (cs : List (Byte × Bool)) : Option Exc :=
  (cs.find? (·.2)).map (fun c => { code := c.1, faddr := k.addr })

/-- What an access to a sync object requires of its capability, in the order of 13 R271 steps 3 to 9 (13 R292; 17 R370); the party says
whether the tag and the colour are good. -/
def syncChecks (k : TCap) (tagged coloured : Bool) : List (Byte × Bool) :=
  [(cTAG, !tagged), (cSEAL, k.otype != 0), (cKIND, k.kind != 4), (cCOLOUR, !coloured), (cPERM, !(k.has pLD && k.has pST)),
    (cBOUND, !(k.inBounds k.addr 8 && isDev k.addr)), (cALIGN, k.addr % 8 != 0)]

/-- The fault of a thread's access to a sync object (13 R292 to R294; 18 R405). -/
def Env.syncExc (e : Env) (s : State) (k : TCap) : Option Exc := capExc k (syncChecks k k.tag (s.permits e.ctx k.col))

/-- `bind` (13 R292). The sync object is checked whole before the region: the spec gives no order between the two (DESIGN CHOICE, log
entry 105). -/
def execBind (f : Fields) (s : State) : Host.Outcome State Fault Refusal :=
  issue Row.bind f false (fun e s =>
    let hasR := f.b != .zero
    if !(f.mod == 0 && e.entryOk && isSPair f.a && (!hasR || isSPair f.b)) then .fail cILOPER
    else if e.capPend f.a || e.capPend f.b then .fail cEARLY
    else if !e.any then .next s
    else
      let k := e.cap f.a 0
      let r := if hasR then e.cap f.b 0 else TCap.null
      match e.syncExc s k with
      | some x => .exc x
      | none =>
        match (if hasR then capExc r [(cTAG, !r.tag), (cSEAL, r.otype != 0), (cKIND, r.kind != 0),
            (cCOLOUR, !s.permits e.ctx r.col)] else none) with
        | some x => .exc x
        | none => .next (s.modTeam e.t.id (fun t =>
            { t with binds := mput t.binds f.qual.toNat ⟨k, r, s.now, s.now⟩ }))) s

/-- `unbind` (13 R292). -/
def execUnbind (f : Fields) (s : State) : Host.Outcome State Fault Refusal :=
  issue Row.unbind f false (fun e s =>
    if !(f.mod == 0 && e.entryOk && f.a == .zero && f.b == .zero) then .fail cILOPER
    else if !e.any then .next s
    else .next (s.modTeam e.t.id (fun t => { t with binds := mdel t.binds f.qual.toNat }))) s

/-- The binding entry named. -/
def Env.entry (e : Env) : Binding := mget Binding.empty e.t.binds e.f.qual.toNat

/-- Why the sync object of the entry named may not be accessed: the entry holds none that is tagged (13 R293, R294), or its colour
has lost its key since the `bind` (17 R370, 18 R405). -/
def Env.entryFault (e : Env) (s : State) : Option Exc := e.syncExc s e.entry.sync

/-- V in an uncorrectable sector raises UNCORRECTABLE at the instruction that reads it (00 R5, 01 R19). -/
def State.vFault (s : State) (a : Nat) : Option Exc :=
  (s.badSec? a 8).map (fun sec => { code := cUNCORR, faddr := 32 * sec })

/-- `acq` (13 R294). -/
def execAcq (f : Fields) (s : State) : Host.Outcome State Fault Refusal :=
  issue Row.acq f false (fun e s =>
    if !(f.syncScope && f.mod.extractLsb' 4 2 == 0#2 && e.entryOk && f.a == .zero && f.b == .zero) then .fail cILOPER
    else if !e.any then .next s
    else
      match e.entryFault s with
      | some x => .exc x
      | none => e.gate s (
        match s.vFault e.entry.sync.addr with
        | some x => .exc x
        | none => .next (s.acquired e.t.id e.entry.sync.addr f.scope))) s

/-- `acq.ge` (13 R294). -/
def execAcqGe (f : Fields) (s : State) : Host.Outcome State Fault Refusal :=
  issue Row.acq f false (fun e s =>
    if !(f.syncScope && f.mod.extractLsb' 4 2 == 0#2 && e.entryOk && e.uniform f.a && f.b == .zero) then .fail cILOPER
    else if e.pendSrc f.a then .fail cEARLY
    else if !e.any then .next s
    else
      match e.entryFault s with
      | some x => .exc x
      | none => e.gate s (
        let a := e.entry.sync.addr
        let thr := e.read f.a e.first
        if let some x := s.vFault a then .exc x
        else if (s.syncV a).toNat ≥ thr.toNat then .next (s.acquired e.t.id a f.scope)
        else .suspend s .waiting (.acqGe f.qual.toNat f.scope thr))) s

/-- `rel` (13 R293). -/
def execRel (f : Fields) (s : State) : Host.Outcome State Fault Refusal :=
  issue Row.rel f false (fun e s =>
    if !(f.syncScope && !f.mod.getLsbD 3 && f.op2 != 3 && e.entryOk && e.uniform f.a && f.b == .zero) then .fail cILOPER
    else if e.pendSrc f.a then .fail cEARLY
    else if !e.any then .next s
    else
      match e.entryFault s with
      | some x => .exc x
      | none => e.gate s (e.hostFirst s (fun s =>
        match s.vFault e.entry.sync.addr with
        | some x => .excIn s x
        | none =>
          .next (s.syncIssue e.g.team e.g.gid (.rel e.entry.sync.addr f.op2 (e.read f.a e.first)) f.scope e.g.nextIseq
            (e.sources s))))) s

/-- `fence` (13 R295). -/
def execFence (f : Fields) (s : State) : Host.Outcome State Fault Refusal :=
  issue Row.fence f false (fun e s =>
    if !(f.scope != 3 && f.mod.extractLsb' 3 3 == 0#3 && f.qual == 0) then .fail cILOPER
    else if !e.any then .next s
    else e.gate s (e.hostFirst s (fun s =>
      .next (s.syncIssue e.g.team e.g.gid .fence f.scope e.g.nextIseq (e.sources s))))) s

/-- The checks of `ordflush`, `l2pin` and `l2unpin` on their capability (13 R290, R296). -/
def Env.rangeFault (e : Env) (s : State) (k : TCap) (perm : Nat) : Option Exc :=
  capExc k [(cTAG, !k.tag), (cSEAL, k.otype != 0), (cKIND, k.kind != 0), (cCOLOUR, !s.permits e.ctx k.col),
    (cPERM, !k.has perm)]

/-- `ordflush` (13 R290): the group's contributions arrive, every target of the grid in range is summed, and the
markers of SCOPE are gathered before a later access. -/
def execOrdflush (f : Fields) (s : State) : Host.Outcome State Fault Refusal :=
  issue Row.ordflush f false (fun e s =>
    if !(f.syncScope && f.mod.extractLsb' 3 3 == 0#3 && f.qual == 0 && isSPair f.a && f.b == .zero) then .fail cILOPER
    else if e.capPend f.a then .fail cEARLY
    else if !e.any then .next s
    else
      let k := e.cap f.a 0
      match e.rangeFault s k pST with
      | some x => .exc x
      | none => e.gate s (
        let s1 := s.applyAtoms e.g.team e.g.gid (fun r => r.op == .ord)
        let s2 := s1.sumTargets e.gr.id (fun t => k.inBounds t 4)
        .next (s2.syncIssue e.g.team e.g.gid .gather f.scope 0 (e.sources s2)))) s

/-- Remove [b, t) from a list of pinned ranges. -/
def unpinRange (b t : Nat) (ps : List (Nat × Nat × Nat)) : List (Nat × Nat × Nat) :=
  ps.flatMap (fun p =>
    let (lo, hi, c) := p
    (if lo < min hi b then [(lo, min hi b, c)] else []) ++ (if max lo t < hi then [(max lo t, hi, c)] else []))

/-- The lines that meet the bounds of a capability in device memory, as a byte range. -/
def TCap.lineRange (k : TCap) : Nat × Nat :=
  let (b, t) := k.bounds
  (b.toNat / 128 * 128, (t.toNat + 127) / 128 * 128)

/-- The lines pinned on a die by a list of pins, each of one line, over all contexts (13 R296). -/
def State.pinnedOn (s : State) (ps : List (Nat × Nat × Nat)) (die : Nat) : Nat :=
  (((ps.map (·.1)).eraseDups).filter (fun a => s.homeDie a == die)).length

/-- Pin one line for a colour: a line that no context has pinned takes its place in the 24 MiB of its die, 196,608 lines, while there
is room (13 R296). -/
def State.pinLine (s : State) (col : Nat) (ps : List (Nat × Nat × Nat)) (a : Nat) : List (Nat × Nat × Nat) :=
  if ps.contains (a, a + 128, col) then ps
  else if ps.any (fun p => p.1 == a) || decide (s.pinnedOn ps (s.homeDie a) < 196608) then ps ++ [(a, a + 128, col)]
  else ps

/-- Pin the lines of [b, t) in ascending address. -/
def State.pinRange (s : State) (b t col : Nat) : State :=
  { s with pins := ((List.range ((t - b) / 128)).map (fun i => b + 128 * i)).foldl (s.pinLine col) s.pins }

/-- `l2pin` (13 R296): the lines that meet the range are pinned in ascending address up to each die's budget, which affects timing
only. -/
def execL2pin (f : Fields) (s : State) : Host.Outcome State Fault Refusal :=
  issue Row.l2pin f false (fun e s =>
    if !(f.mod == 0 && f.qual == 0 && isSPair f.a && f.b == .zero) then .fail cILOPER
    else if e.capPend f.a then .fail cEARLY
    else if !e.any then .next s
    else
      let k := e.cap f.a 0
      match e.rangeFault s k pLD with
      | some x => .exc x
      | none =>
        let (b, t) := k.lineRange
        if b < t ∧ isDev b then .next (s.pinRange b t e.ctx.colour) else .next s) s

/-- `l2unpin` (13 R296). -/
def execL2unpin (f : Fields) (s : State) : Host.Outcome State Fault Refusal :=
  issue Row.l2unpin f false (fun e s =>
    if !(f.mod == 0 && f.qual == 0 && isSPair f.a && f.b == .zero) then .fail cILOPER
    else if e.capPend f.a then .fail cEARLY
    else if !e.any then .next s
    else
      let k := e.cap f.a 0
      match e.rangeFault s k pLD with
      | some x => .exc x
      | none =>
        let (b, t) := k.lineRange
        .next { s with pins := unpinRange b t s.pins }) s

/-- `prefetch` (13 R297). -/
def execPrefetch (f : Fields) (s : State) : Host.Outcome State Fault Refusal :=
  issue Row.prefetch f false (fun e s =>
    if e.capPend f.a || e.pendSrc f.b then .fail cEARLY
    else if !(f.mod == 0 && f.qualOk false && e.capSrcOk f.a) then .fail cILOPER
    else
      let good (a : MemAcc) : Bool :=
        (firstFail (capSteps s e.ctx (fun a => a.k.kind == 0) (fun _ => [pLD]) 4 ++ [alignStep 4 4]) [a]).isNone &&
          !s.coAt a.ea.toNat 4
      .next ((e.accs e.parts).foldl (fun s a =>
        if !good a then s
        else
          let ea := a.ea.toNat
          if isDev ea then (s.l1Line e.g.core (ea / 128) a.k.col none s.now s.now).1
          else if isHost ea then
            match s.translate e.ctx.fn a.k.col ea false with
            | .ok h => (s.l1Line e.g.core (ea / 128) a.k.col (some (h - ea % 128)) s.now s.now).1
            | .ask p pg => s.askAts e.ctx.fn p pg false true
            | _ => s
          else s) s)) s

/-- `tclr` (12 R262). -/
def execTclr (f : Fields) (s : State) : Host.Outcome State Fault Refusal :=
  issue Row.tclr f false (fun e s =>
    let dstOk := match f.dst with | .v _ => true | .s _ => true | _ => false
    if !(f.mod == 0 && dstOk) then .fail cILOPER
    else if e.pendDst f.dst then .fail cEARLY
    else if !e.any then .next s
    else
      let clr (d : Side) : Side := { d with taint := d.taint &&& f.qual }
      match f.dst with
      | .v n => .next (s.setGroup (e.g.setVsd n.val (clr (e.g.vsd n.val))))
      | .s n => .next (s.setGroup (e.g.setSsd n.val (clr (e.g.ssd n.val))))
      | _ => .next s) s

/-- `qwait` (13 R275). -/
def execQwait (f : Fields) (s : State) : Host.Outcome State Fault Refusal :=
  issue Row.qwait f false (fun e s =>
    if !(f.mod.extractLsb' 1 5 == 0#5 && f.qual.extractLsb' 3 5 == 0#5 && (!f.mod.getLsbD 0 || f.qual == 0)) then
      .fail cILOPER
    else if !e.any then .next s
    else if !e.g.qwaitReady f.qset then .suspend s .waiting (.qwait f.qset)
    else
      match e.g.qwaitFault f.qset with
      | some d =>
        if d.2.2.1 = cHPAGE then .exc (qwaitExc d)
        else .excIn (s.setGroup (e.g.dropFailing d.1.iseq)) (qwaitExc d)
      | none => .next (s.setGroup (e.g.qwaitDone f.qset s.now))) s

end Sys2Proof.Machine
end

