-- ==== Sys2Proof/Machine/Capability.lean ====
section
/-! DEFINITION. Machine/Capability.lean: the capability class (17 R376 to R389): roots, bounds, permissions, seals,
reading and comparing, delegation and revocation; and the label instructions (18 R396 to R399). -/

namespace Sys2Proof.Machine

open Sys2Proof

/-! ### Shared rules (17 R377, R378) -/

/-- A check of a capability instruction: its code, and the address it reports for a thread that fails it. -/
abbrev CapCheck := Byte × (Nat → Option Nat)

/-- A check on a capability, reported at its cursor. -/
def capChk (c : Byte) (k : Nat → TCap) (bad : TCap → Bool) : CapCheck :=
  (c, fun i => if bad (k i) then some (k i).addr else none)

/-- The lowest failing thread decides the fault, by the first check that it fails (17 R378; log entry 14). -/
def Env.capFault (e : Env) (cs : List CapCheck) : Option Exc :=
  e.parts.findSome? (fun i => cs.findSome? (fun c =>
    (c.2 i).map (fun a => { code := c.1, fthread := some i, faddr := a })))

/-- An "int" operand of thread i (17 R377). -/
def Env.capInt (e : Env) (x : Src) (signed : Bool) (i : Nat) : Int :=
  match x with
  | .s n => if signed then (e.g.sget n.val).toInt else ((e.g.sget n.val).toNat : Int)
  | y => if signed then (e.read32 y i).toInt else ((e.read32 y i).toNat : Int)

/-- A capability result: operand rules, pending sources, the checks, and the value of each thread (17 R378). -/
def Env.capResult (e : Env) (s : State) (ok pend : Bool) (us : List Src) (tn : Taint) (l : Label) (cs : List CapCheck)
    (v : Nat → TCap) : Out :=
  if pend || e.shapePendDst e.f.dst 4 2 then .fail cEARLY
  else if !(ok && e.f.qual == 0 && e.capDstOk e.f.dst && e.dstOk false us) then .fail cILOPER
  else
    match e.capFault cs with
    | some x => .exc x
    | none => .next (s.setGroup (e.writeCap (e.parts.map (fun i => (i, v i))) tn l))

/-- The instructions on a capability A and an int B (17 R379, R380). -/
def Env.capInstr (e : Env) (s : State) (modOk : Bool) (cs : List CapCheck) (v : Nat → TCap) : Out :=
  e.capResult s (modOk && e.capSrcOk e.f.a) (e.capPend e.f.a || e.pendSrc e.f.b) [e.f.a, e.f.b]
    (e.capTaint e.f.a ||| e.taintOf e.f.b) (Label.max (e.capLbl e.f.a) (e.lblOf e.f.b)) cs v

/-- A capability with exact bounds [b, b + n) and cursor b. -/
def rootCap (kind : Nat) (lbl : Label) (col : Nat) (perms : List Nat) (b n : Nat) : TCap :=
  let p : BitVec 12 := perms.foldl (fun p j => p ||| (1#12 <<< j)) 0
  match roundBounds b (b + n) with
  | some (ex, bb, bt, _, _) => ⟨capBits kind 0 lbl col p bt bb ex b, true⟩
  | none => ⟨capBits kind 0 lbl col p 0 0 0 b, true⟩

/-- The sealer of a context (17 R376): base 1, top 62. -/
def sealerCap (col : Nat) : TCap := rootCap 0 0 col [pSEAL, pUNSEAL, pGLOBAL] 1 61

/-- The window of a team's block on the executing core (17 R376, 03 R61). -/
def Env.winCap (e : Env) (s : State) : TCap :=
  let r := e.coreRes
  rootCap 3 3 e.ctx.colour [pLD, pST, pLDCAP, pSTCAP, pTILE, pGLOBAL]
    ((s.tarnPrefix r.core r.slot - 2 ^ 13) * 2 ^ 38) (0xA00000 + e.gr.mscr * 16384)

/-- The window of a team's tarn on the executing core. -/
def Env.tarnCap (e : Env) (s : State) : TCap :=
  let r := e.coreRes
  rootCap 3 3 e.ctx.colour [pLD, pST, pGLOBAL] (s.tarnPrefix r.core r.slot * 2 ^ 38) (e.gr.tarn * 4096)

/-- `kmov` (17 R376). -/
def execKmov (f : Fields) (s : State) : Host.Outcome State Fault Refusal :=
  issue Row.kmov f false (fun e s =>
    let root (k : TCap) : Out :=
      e.capResult s (f.a == .zero && f.b == .zero) false [] 0 0 [] (fun _ => k)
    match f.mod.toNat with
    | 0 => e.capResult s (e.capSrcOk f.a && f.b == .zero) (e.capPend f.a) [f.a] (e.capTaint f.a) (e.capLbl f.a) []
        (e.cap f.a)
    | 1 => root (e.winCap s)
    | 2 => root (e.tarnCap s)
    | 3 => root (sealerCap e.ctx.colour)
    | _ => .fail cILOPER) s

/-- A tagged A must be unsealed and of a kind that has bounds (17 R379). -/
def Env.derivable (e : Env) : List CapCheck :=
  [capChk cSEAL (e.cap e.f.a) (fun k => k.tag && k.otype != 0),
   capChk cKIND (e.cap e.f.a) (fun k => k.tag && (k.kind == 2 || k.kind == 5))]

/-- The result of `kbound` and whether its bounds are refused (17 R379). -/
def boundCap (k : TCap) (len : Nat) (exact : Bool) : TCap × Bool :=
  let b := k.addr
  let t := b + len
  match roundBounds b t with
  | none => (k, true)
  | some (ex, bb, bt, nb, nt) =>
    let (lo, hi) := k.bounds
    (k.withBounds ex bb bt, decide ((nb : Int) < lo) || decide ((nt : Int) > hi) || (exact && (nb != b || nt != t)))

/-- `kbound` (17 R379). -/
def execKbound (f : Fields) (s : State) : Host.Outcome State Fault Refusal :=
  issue Row.kbound f false (fun e s =>
    let r (i : Nat) : TCap × Bool := boundCap (e.cap f.a i) (e.capInt f.b false i).toNat (f.mod.getLsbD 0)
    e.capInstr s (decide (f.mod.toNat < 2))
      (e.derivable ++ [(cBOUND, fun i => if (e.cap f.a i).tag && (r i).2 then some (e.cap f.a i).addr else none)])
      (fun i => (r i).1)) s

/-- A with its cursor moved to n: the tag stays while n is representable (17 R379). -/
def cursorCap (k : TCap) (n : Int) : TCap :=
  (k.withAddr (bitsOf 56 n)).withTag
    (k.tag && decide (0 ≤ n) && decide (n < ((2 ^ 56 : Nat) : Int)) && k.representable n)

/-- `kaddr` (17 R379). -/
def execKaddr (f : Fields) (s : State) : Host.Outcome State Fault Refusal :=
  issue Row.kaddr f false (fun e s =>
    e.capInstr s (f.mod == 0) e.derivable
      (fun i => let k := e.cap f.a i; cursorCap k (k.bounds.1 + e.capInt f.b false i))) s

/-- `kadd` (17 R379). -/
def execKadd (f : Fields) (s : State) : Host.Outcome State Fault Refusal :=
  issue Row.kadd f false (fun e s =>
    e.capInstr s (f.mod == 0) e.derivable
      (fun i => let k := e.cap f.a i; cursorCap k ((k.addr : Int) + e.capInt f.b true i))) s

/-- `kperm` (17 R380). -/
def execKperm (f : Fields) (s : State) : Host.Outcome State Fault Refusal :=
  issue Row.kperm f false (fun e s =>
    let setl := f.mod.getLsbD 0
    let m (i : Nat) : Nat := (e.capInt f.b false i).toNat
    e.capInstr s (decide (f.mod.toNat < 2))
      [(cILOPER, fun i => if m i ≥ (if setl then 2 ^ 14 else 2 ^ 12) then some 0 else none),
       capChk cSEAL (e.cap f.a) (fun k => k.tag && k.otype != 0)]
      (fun i =>
        let k := e.cap f.a i
        let k1 := k.withPerm (k.perm &&& BitVec.ofNat 12 (m i))
        if setl then k1.withLbl (if k.lbl.toNat ≤ m i / 2 ^ 12 % 4 then k.lbl else BitVec.ofNat 2 (m i / 2 ^ 12)) else k1)) s

/-- The cursor of a sealer lies in its bounds and names a software type (17 R381). -/
def TCap.sealType (k : TCap) : Bool := k.inBounds k.addr 1 && decide (1 ≤ k.addr) && decide (k.addr ≤ 61)

/-- `kseal` (17 R381). -/
def execKseal (f : Fields) (s : State) : Host.Outcome State Fault Refusal :=
  issue Row.kseal f false (fun e s =>
    let a := e.cap f.a
    let b := e.cap f.b
    if f.mod.getLsbD 0 then
      e.capResult s (f.mod == 1 && e.capSrcOk f.a && f.b == .zero) (e.capPend f.a) [f.a] (e.capTaint f.a) (e.capLbl f.a)
        [capChk cTAG a (fun k => !k.tag), capChk cSEAL a (fun k => k.otype != 0), capChk cKIND a (fun k => k.kind != 1),
         capChk cPERM a (fun k => !k.has pEXEC)]
        (fun i => (a i).withOtype 63)
    else
      e.capResult s (f.mod == 0 && e.capSrcOk f.a && e.capSrcOk f.b) (e.capPend f.a || e.capPend f.b) [f.a, f.b]
        (e.capTaint f.a ||| e.capTaint f.b) (Label.max (e.capLbl f.a) (e.capLbl f.b))
        [capChk cTAG a (fun k => !k.tag), capChk cTAG b (fun k => !k.tag), capChk cSEAL a (fun k => k.otype != 0),
         capChk cSEAL b (fun k => k.otype != 0), capChk cKIND b (fun k => k.kind != 0),
         capChk cCOLOUR b (fun k => !e.ctx.permits k.col), capChk cPERM b (fun k => !k.has pSEAL),
         capChk cBOUND b (fun k => !k.sealType)]
        (fun i => (a i).withOtype (b i).addr)) s

/-- `kunseal` (17 R381). -/
def execKunseal (f : Fields) (s : State) : Host.Outcome State Fault Refusal :=
  issue Row.kunseal f false (fun e s =>
    let a := e.cap f.a
    let b := e.cap f.b
    e.capResult s (f.mod == 0 && e.capSrcOk f.a && e.capSrcOk f.b) (e.capPend f.a || e.capPend f.b) [f.a, f.b]
      (e.capTaint f.a ||| e.capTaint f.b) (Label.max (e.capLbl f.a) (e.capLbl f.b))
      [capChk cTAG a (fun k => !k.tag), capChk cTAG b (fun k => !k.tag),
       capChk cSEAL a (fun k => !(decide (1 ≤ k.otype) && decide (k.otype ≤ 61))),
       (cSEAL, fun i => if (b i).otype != 0 || (b i).addr != (a i).otype then some (b i).addr else none),
       capChk cKIND b (fun k => k.kind != 0),
       capChk cCOLOUR b (fun k => !e.ctx.permits k.col), capChk cPERM b (fun k => !k.has pUNSEAL),
       capChk cBOUND b (fun k => !k.sealType)]
      (fun i => (a i).withOtype 0)) s

/-! ### Delegation (17 R384 to R386) -/

/-- The generation after one of R299: 0xFFFF is followed by 1. -/
def nextGen (g : Nat) : Nat := if g ≥ 65535 then 1 else g + 1

/-- The live entry that a grant token names (17 R384). -/
def State.tokenEntry (s : State) (k : TCap) : Option (TCap × Recipient × Nat) :=
  match s.ctx? k.col with
  | none => none
  | some c =>
    let sl := mget GrantSlot.free c.grants (k.addr % 4096)
    if sl.gen = k.addr / 4096 % 65536 then sl.entry else none

/-- Withdraw an entry of a grant table (17 R384, R386). -/
def Ctx.withdrawGrant (c : Ctx) (slot : Nat) : Ctx :=
  { c with grants := mmod GrantSlot.free c.grants slot (fun sl =>
      if sl.entry.isSome then ⟨nextGen sl.gen, none⟩ else sl) }

/-- The executing team is the recipient of an entry (17 R386). -/
def Env.isRecipient (e : Env) (p : TCap × Recipient × Nat) : Bool :=
  match p.2.1 with
  | .team grid kid => grid == e.gr.id && kid == e.t.kid
  | .context col => col == e.ctx.colour
  | .peer _ => false

/-- `kunseal.grant` (17 R386). -/
def execKunsealGrant (f : Fields) (s : State) : Host.Outcome State Fault Refusal :=
  issue Row.kunseal f false (fun e s =>
    let a := e.cap f.a
    let d (i : Nat) : TCap := match s.tokenEntry (a i) with | some p => p.1 | none => TCap.null
    e.capResult s (f.mod == 1 && e.capSrcOk f.a && f.b == .zero) (e.capPend f.a) [f.a] (e.capTaint f.a) (e.capLbl f.a)
      [capChk cTAG a (fun k => !k.tag || (k.otype == 62 && (s.tokenEntry k).isNone)),
       capChk cSEAL a (fun k => k.otype != 62 || decide (k.kind > 4) || !(s.tokenEntry k).any e.isRecipient),
       capChk cCOLOUR a (fun k => !e.ctx.permits k.col)]
      (fun i => (d i).withTag ((d i).tag && !s.isRevoked (d i)))) s

/-- The recipient that a word names (17 R385); none when the word is bad. -/
def Env.recipient (e : Env) (s : State) (w : Nat) : Option Recipient :=
  let id := w / 16 % 2 ^ 32
  if w / 4 % 4 != 0 || w / 2 ^ 36 != 0 then none
  else
    match w % 4 with
    | 0 => if id < e.gr.nteams then some (.team e.gr.id id) else none
    | 1 => if id < 4096 then some (.context id) else none
    | 2 =>
      match s.devgroup with
      | some dg => if id < dg.hashes.length ∧ id ≠ dg.own then some (.peer id) else none
      | none => none
    | _ => none

/-- The lowest free slot of a grant table. -/
def Ctx.freeGrant (c : Ctx) : Option Nat :=
  (List.range 4096).find? (fun k => (mget GrantSlot.free c.grants k).entry.isNone)

/-- The token of an entry (17 R384). -/
def grantToken (d : TCap) (col slot gen : Nat) (r : Recipient) (own : Nat) : TCap :=
  let peer := match r with | .peer _ => true | _ => false
  ⟨capBits (if peer then 5 else d.kind) 62 d.lbl col d.perm 0 0 0 (slot + 4096 * gen + (if peer then own * 2 ^ 28 else 0)),
   true⟩

/-- `kdeleg` (17 R385). -/
def execKdeleg (f : Fields) (s : State) : Host.Outcome State Fault Refusal :=
  issue Row.kdeleg f false (fun e s =>
    let dstOk := match f.dst with | .s n => n.val % 2 == 0 | _ => false
    let xs := [f.b, f.c, f.d]
    if e.capPend f.a || xs.any e.pendSrc || e.shapePendDst f.dst 4 2 then .fail cEARLY
    else if !(f.mod == 0 && f.qual == 0 && isSPair f.a && dstOk && xs.all e.uniform) then .fail cILOPER
    else if !e.any then .next s
    else
      let k := e.cap f.a 0
      let w := (e.capInt f.b false e.first).toNat
      let m := (e.capInt f.c false e.first).toNat
      let len := (e.capInt f.d false e.first).toNat
      match e.recipient s w with
      | none => .fail cILOPER
      | some r =>
        if m ≥ 4096 then .fail cILOPER
        else
          let ranged := k.kind == 0 || k.kind == 1 || k.kind == 3
          let (nb, out) := boundCap k len false
          let colBad := match r with
            | .context col => (match s.ctx? col with | some c => !c.shared.contains k.col | none => true)
            | _ => false
          match capExc k [(cTAG, !k.tag), (cSEAL, k.otype != 0), (cKIND, decide (k.kind > 4)),
              (cCOLOUR, !e.ctx.permits k.col), (cPERM, !(k.has pDELEG && k.has pGLOBAL)), (cCOLOUR, colBad),
              (cBOUND, ranged && out), (cILOPER, !ranged && len != 0)] with
          | some x => .exc x
          | none =>
            let d0 := if ranged then nb else k
            let d := d0.withPerm (d0.perm &&& BitVec.ofNat 12 m)
            let tn := e.capTaint f.a ||| e.taints xs
            let l := Label.max (e.capLbl f.a) (e.lbls xs)
            match e.ctx.freeGrant with
            | none => .next (s.setGroup (e.writeCap [(e.first, TCap.null)] tn l))
            | some slot =>
              let gen := (mget GrantSlot.free e.ctx.grants slot).gen
              let own := match s.devgroup with | some dg => dg.own | none => 0
              let c1 : Ctx := { e.ctx with grants := mput e.ctx.grants slot ⟨gen, some (d, r, e.gr.id)⟩ }
              .next ((s.setCtx c1).setGroup (e.writeCap [(e.first, grantToken d e.ctx.colour slot gen r own)] tn l))) s

/-! ### Reading and comparing (17 R382, R383) -/

/-- A field of a capability as 64 bits (17 R382). -/
def State.capField (s : State) (k : TCap) (n : Nat) : DWord :=
  let (b, t) := k.bounds
  match n with
  | 0 => BitVec.ofInt 64 b
  | 1 => BitVec.ofInt 64 t
  | 2 => BitVec.ofInt 64 (if t < b then 0 else t - b)
  | 3 => BitVec.ofNat 64 k.addr
  | 4 => BitVec.ofInt 64 ((k.addr : Int) - b)
  | 5 => k.perm.setWidth 64
  | 6 => BitVec.ofNat 64 k.col
  | 7 => k.lbl.setWidth 64
  | 8 => BitVec.ofNat 64 k.otype
  | 9 => BitVec.ofNat 64 k.kind
  | 10 => if k.tag then 1 else 0
  | _ => if s.isRevoked k then 1 else 0

/-- `kget` (17 R382). -/
def execKget (f : Fields) (s : State) : Host.Outcome State Fault Refusal :=
  issue Row.kget f true (fun e s =>
    let n := (f.mod.extractLsb' 0 4).toNat
    let hi := f.mod.getLsbD 4 && !f.dst.isS
    let dstOk := match f.dst with | .c _ => false | _ => true
    if e.capPend f.a || e.pendDst f.dst then .fail cEARLY
    else if !(decide (n < 12) && !f.mod.getLsbD 5 && f.qual == 0 && e.capSrcOk f.a && f.b == .zero && dstOk &&
        e.dstOk false [f.a]) then .fail cILOPER
    else
      let v (i : Nat) : DWord :=
        let w := s.capField (e.cap f.a i) n
        if hi then (w.extractLsb' 32 32).setWidth 64 else w
      .next (s.setGroup (e.writeResult (e.parts.map (fun i => (i, v i))) (e.capTaint f.a) (e.capLbl f.a) true e.isUniform))) s

/-- `ktest.sub` (17 R383). -/
def capSub (a b : TCap) : Bool :=
  let (la, ha) := a.bounds
  let (lb, hb) := b.bounds
  a.tag && b.tag && a.otype == 0 && b.otype == 0 && a.kind == b.kind && a.col == b.col && decide (la ≤ lb) &&
    decide (hb ≤ ha) && (b.perm &&& ~~~a.perm) == 0 && decide (b.lbl.toNat ≤ a.lbl.toNat)

/-- `ktest` (17 R383). -/
def execKtest (f : Fields) (s : State) : Host.Outcome State Fault Refusal :=
  issue Row.ktest f true (fun e s =>
    if e.capPend f.a || e.capPend f.b || e.pendDst f.dst then .fail cEARLY
    else if !(decide (f.mod.toNat < 2) && f.qual == 0 && e.capSrcOk f.a && e.capSrcOk f.b && e.dstOk false [f.a, f.b]) then
      .fail cILOPER
    else
      let v (i : Nat) : DWord :=
        let a := e.cap f.a i
        let b := e.cap f.b i
        if (if f.mod.getLsbD 0 then a == b else capSub a b) then 1 else 0
      .next (s.setGroup (e.writeResult (e.parts.map (fun i => (i, v i))) (e.capTaint f.a ||| e.capTaint f.b)
        (Label.max (e.capLbl f.a) (e.capLbl f.b)) false e.isUniform))) s

/-! ### Revocation (17 R388, R389) -/

/-- First byte of the memory that Wellhead reserves (17 R374). -/
def State.reservedBase (s : State) : Nat := 0x8000000000 - s.part.reserved

/-- Set the revocation bits of the granules that meet [b, t). -/
def State.revokeRange (s : State) (b t : Nat) : State :=
  { s with revoked := (List.range ((t + 63) / 64 - b / 64)).foldl (fun m j => mset false m (b / 64 + j) true) s.revoked }

/-- A token that names a live entry. -/
def State.isToken (s : State) (k : TCap) : Bool := k.otype == 62 && (s.tokenEntry k).isSome

/-- `krevoke` of one capability (17 R386, R389). -/
def State.revokeCap (s : State) (k : TCap) : State :=
  if k.otype = 62 then
    match s.ctx? k.col with
    | some c => s.setCtx (c.withdrawGrant (k.addr % 4096))
    | none => s
  else s.revokeRange k.bounds.1.toNat k.bounds.2.toNat

/-- `krevoke` (17 R389). -/
def execKrevoke (f : Fields) (s : State) : Host.Outcome State Fault Refusal :=
  issue Row.krevoke f false (fun e s =>
    let a := e.cap f.a
    let range (p : TCap → Bool) : TCap → Bool := fun k => k.otype != 62 && p k
    if e.capPend f.a then .fail cEARLY
    else if !(f.mod == 0 && f.qual == 0 && e.capSrcOk f.a && f.b == .zero) then .fail cILOPER
    else
      match e.capFault
        [capChk cTAG a (fun k => !k.tag || (k.otype == 62 && !s.isToken k)),
         capChk cSEAL a (fun k => k.otype != 0 && k.otype != 62),
         capChk cKIND a (range (fun k => !(k.kind == 0 || k.kind == 1 || k.kind == 4))),
         capChk cCOLOUR a (fun k => k.col != e.ctx.colour),
         capChk cALIGN a (range (fun k => k.bounds.1 % 64 != 0 || k.bounds.2 % 64 != 0)),
         capChk cBOUND a (range (fun k => decide (k.bounds.1 < 0) || decide (k.bounds.2 > (s.reservedBase : Int))))] with
      | some x => .exc x
      | none => .next ((e.actors f.a.isS).foldl (fun s i => s.revokeCap (a i)) s)) s

/-! ### Labels (18 R396 to R399) -/

/-- "Uniform" of 18 R396 and 14 R310. -/
def uniformArg : Src → Bool
  | .s _ => true
  | .imm _ => true
  | .zero => true
  | .gid => true
  | .kid => true
  | .width => true
  | _ => false

/-- The label that a level operand gives. -/
def levelOf (w : Word) : Label := BitVec.ofNat 2 w.toNat

/-- The smaller of two labels. -/
def Label.min (a b : Label) : Label := if a.toNat < b.toNat then a else b

/-- `lblup` (18 R397). -/
def execLblup (f : Fields) (s : State) : Host.Outcome State Fault Refusal :=
  issue Row.lblup f true (fun e s =>
    let dstOk := match f.dst with | .c _ => false | .none => f.lat != 0 | _ => true
    if e.pendSrc f.a || e.pendSrc f.b || e.pendDst f.dst then .fail cEARLY
    else if !(f.mod == 0 && f.qual == 0 && dstOk && uniformArg f.b && e.dstOk false [f.a]) then .fail cILOPER
    else
      let lv := e.read32 f.b e.first
      if e.any && decide (lv.toNat > 3) then .fail cILOPER
      else
        .next (s.setGroup (e.writeResult (e.parts.map (fun i => (i, e.read f.a i))) (e.taints [f.a, f.b])
          (Label.max (Label.max (e.lblOf f.a) (levelOf lv)) (e.lblOf f.b)) (f.a.isS && f.dst.isS) e.isUniform))) s

/-- `lbldn` (18 R398). -/
def execLbldn (f : Fields) (s : State) : Host.Outcome State Fault Refusal :=
  issue Row.lbldn f false (fun e s =>
    let ok := match f.dst, f.a with
      | .v _, .v _ => true
      | .v _, .s _ => true
      | .s _, .s _ => true
      | _, _ => false
    if e.pendSrc f.a || e.capPend f.b || e.pendSrc f.c || e.pendDst f.dst then .fail cEARLY
    else if !(f.mod == 0 && f.qual == 0 && ok && isSPair f.b && uniformArg f.c) then .fail cILOPER
    else if !e.any then .next s
    else
      let lv := e.read32 f.c e.first
      let k := e.cap f.b 0
      if lv.toNat > 3 then .fail cILOPER
      else
        match capExc k [(cTAG, !k.tag), (cSEAL, k.otype != 0), (cKIND, k.kind != 0), (cCOLOUR, !e.ctx.permits k.col),
            (cPERM, !k.has pDECLASS || decide ((e.lblOf f.a).toNat > k.lbl.toNat))] with
        | some x => .exc x
        | none =>
          .next (s.setGroup (e.writeResult (e.parts.map (fun i => (i, e.read f.a i))) (e.taints [f.a, f.c])
            (Label.max (Label.min (e.lblOf f.a) (levelOf lv)) (e.lblOf f.c)) (f.a.isS && f.dst.isS) e.isUniform))) s

/-- The state of a tile register as `lblget.tile` gives it (18 R399). -/
def Tile.word (t : Tile) : Nat := t.lbl.toNat + (if t.co then 4 else 0) + t.keycol % 4096 * 65536

/-- `lblget` (18 R399). -/
def execLblget (f : Fields) (s : State) : Host.Outcome State Fault Refusal :=
  issue Row.lblget f (!f.mod.getLsbD 0) (fun e s =>
    let dstOk := match f.dst with | .c _ => false | _ => true
    let write (vals : List (Nat × DWord)) (tn : Taint) (l : Label) : Out :=
      .next (s.setGroup (e.writeResult vals tn l true e.isUniform))
    let all (w : Nat) : List (Nat × DWord) := e.parts.map (fun i => (i, BitVec.ofNat 64 w))
    match f.mod.toNat with
    | 0 =>
      if e.pendSrc f.a || e.pendDst f.dst then .fail cEARLY
      else if !(f.qual == 0 && f.b == .zero && dstOk && e.dstOk false [f.a]) then .fail cILOPER
      else write (all (e.lblOf f.a).toNat) 0 0
    | 1 =>
      if e.capPend f.a || e.pendDst f.dst then .fail cEARLY
      else if !(f.qual == 0 && f.b == .zero && dstOk && e.capSrcOk f.a && e.dstOk false [f.a]) then .fail cILOPER
      else
        let as : List MemAcc := (e.actors f.a.isS).map (fun i => ⟨i, e.cap f.a i, ((e.cap f.a i).addr : Int)⟩)
        match firstFail (capSteps s e.ctx (fun a => a.k.kind == 0 && isDev a.ea.toNat) (fun _ => [pLD]) 1) as with
        | some x => .exc x
        | none =>
          match as.findSome? (fun a => (s.badSec? a.ea.toNat 1).map (fun sec =>
              ({ code := cUNCORR, fthread := some a.i, faddr := 32 * sec } : Exc))) with
          | some x => .exc x
          | none =>
          let v (i : Nat) : DWord := BitVec.ofNat 64 ((s.sideAt ((e.cap f.a i).addr / 32)).toNat % 32)
          write (e.parts.map (fun i => (i, v i))) (e.capTaint f.a) (e.capLbl f.a)
    | 2 =>
      if e.pendDst f.dst then .fail cEARLY
      else if !(decide (f.qual.toNat < 8) && f.a == .zero && f.b == .zero && dstOk) then .fail cILOPER
      else if f.qual.toNat ≥ e.gr.tiles then .fail cILOPER
      else write (all (mget Tile.zero e.coreRes.tiles f.qual.toNat).word) 0 0
    | m =>
      if (match m % 4 with | 1 => e.capPend f.a | 2 => false | _ => e.pendSrc f.a) || e.pendDst f.dst then .fail cEARLY
      else .fail cILOPER) s

end Sys2Proof.Machine
end

