-- ==== Sys2Proof/Machine/Engines.lean ====
section
/-! DEFINITION. Machine/Engines.lean: shape records (14 R299 to R303), guard slots (R309), the instructions that issue,
await, install and query engine commands (R310 to R319), and `dredge` (17 R392). -/

namespace Sys2Proof.Machine

open Sys2Proof

/-! ### Shape records -/

/-- Bytes of an element (14 R300). -/
def Shape.esize (r : Shape) : Nat := match r.fmt with | 0 => 1 | 1 => 4 | 4 => 4 | _ => 2

/-- Elements of a shard (14 R302). -/
def Shape.elems (r : Shape) : Nat := r.dims.foldl (fun n d => n * d.extent) r.x0

/-- Extent of a grid axis (14 R300): the field holds one less. -/
def Shape.ext (r : Shape) (a : Nat) : Nat := (r.gridExt.extractLsb' (4 * a) 4).toNat + 1

/-- The device's coordinate on an axis (14 R303). -/
def Shape.coord (r : Shape) (a : Nat) : Nat := (r.coords.extractLsb' (4 * a) 4).toNat

/-- The axes over which the collective runs. -/
def Shape.axes (r : Shape) : List Nat := (List.range 4).filter (fun a => r.rmask / 2 ^ a % 2 == 1)

/-- Size of the ring (14 R303); 1 for a local command. -/
def Shape.ringSize (r : Shape) : Nat := r.axes.foldl (fun n a => n * r.ext a) 1

/-- Ring position of the device (14 R303): the lowest axis varies fastest. -/
def Shape.ringPos (r : Shape) : Nat := r.axes.reverse.foldl (fun p a => p * r.ext a + r.coord a) 0

/-- Grid rank of coordinates (14 R303). -/
def Shape.rankOf (r : Shape) (c : Nat → Nat) : Nat :=
  c 0 + r.ext 0 * (c 1 + r.ext 1 * (c 2 + r.ext 2 * c 3))

/-- The grid ranks of the ring, in position order. -/
def Shape.ringRanks (r : Shape) : List Nat :=
  (List.range r.ringSize).map (fun p =>
    let cs := r.axes.foldl (fun (st : Nat × List (Nat × Nat)) a => (st.1 / r.ext a, st.2 ++ [(a, st.1 % r.ext a)])) (p, [])
    r.rankOf (fun a => match cs.2.find? (fun x => x.1 == a) with | some x => x.2 | none => r.coord a))

/-- The base of an address computation (14 R302; 17 R387 for KIND 5). -/
def capBase (k : TCap) : Int := if k.kind = 5 then 0 else (k.addr : Int)

/-- Address of element `j` of a shard at offset `o` (14 R302, R314): `src` chooses the side, `idx` replaces the row. -/
def Shape.addr (r : Shape) (src : Bool) (step : Nat) (o : Int) (idx : Option (Nat → Int)) (j : Nat) : Int :=
  let b := if src then capBase r.src + step * r.advs else capBase r.dst + step * r.advd
  let row := j / r.x0
  let go (st : Int × Nat × Nat) (d : Dim) : Int × Nat × Nat :=
    let i := st.2.1 % d.extent
    let stride := if src then d.srcStride else d.dstStride
    let n : Int := match idx with | some h => if st.2.2 = 1 then h i else (i : Int) | none => (i : Int)
    (st.1 + n * stride, st.2.1 / d.extent, st.2.2 + 1)
  b + o + ((j % r.x0 * r.esize : Nat) : Int) + (r.dims.foldl go (0, row, 1)).1

/-- The footprint [Low, High) (14 R302); `skip1` leaves dimension 1 out (R314). -/
def Shape.footprint (r : Shape) (src : Bool) (step : Nat) (o : Int) (skip1 : Bool) : Int × Int :=
  let b := (if src then capBase r.src + step * r.advs else capBase r.dst + step * r.advd) + o
  let go (st : Int × Int × Nat) (d : Dim) : Int × Int × Nat :=
    let s := if src then d.srcStride else d.dstStride
    let e : Int := if skip1 && st.2.2 == 1 then 0 else ((d.extent : Int) - 1) * s
    (st.1 + min 0 e, st.2.1 + max 0 e, st.2.2 + 1)
  let f := r.dims.foldl go (b, b, 1)
  (f.1, f.2.1 + ((r.x0 * r.esize : Nat) : Int))

/-- The first misaligned element address (14 R302), if any. For `gx` the test is made on SSD1 at issue and not on the gathered
addresses: the spec does not say which addresses check 9 of R311 tests there (DESIGN CHOICE, log entry 106). -/
def Shape.misaligned (r : Shape) (src : Bool) (step : Nat) (o : Int) : Option Int :=
  let es : Int := (r.esize : Int)
  let b := (if src then capBase r.src + step * r.advs else capBase r.dst + step * r.advd) + o
  if b % es ≠ 0 then some b
  else
    (r.dims.find? (fun d => decide (d.extent > 1) && (if src then d.srcStride else d.dstStride) % es != 0)).map
      (fun d => b + (if src then d.srcStride else d.dstStride))

/-- Shard offsets used on a side (14 R304). -/
def Shape.offsets (r : Shape) (src : Bool) : List Int :=
  let many : List Int := (List.range r.ringSize).map (fun (q : Nat) => (q : Int) * r.shs)
  if src then (if r.coll = 2 ∨ r.coll = 3 then many else [0]) else (if r.coll = 1 ∨ r.coll = 3 then many else [0])

/-- A signed field of an image. -/
def imgInt (b : List Byte) (o n : Nat) : Int := intOf true (8 * n) (natOfBytes ((b.drop o).take n))

/-- An unsigned field of an image. -/
def imgNat (b : List Byte) (o n : Nat) : Nat := natOfBytes ((b.drop o).take n)

/-- A capability of an image, loaded as by `ldk` (14 R317, 13 R277). -/
def State.imgCap (s : State) (k : TCap) (b : List Byte) (o : Nat) : TCap :=
  let c : TCap := ⟨BitVec.ofNat 128 (imgNat b o 16), true⟩
  c.withTag (k.has pLDCAP && s.tagAt (k.addr + o) && !s.isRevoked c)

/-- A flag field of an image: EN, SCOPE and OP (14 R300). -/
def flagOk (f : Nat) (op : Bool) (v : Nat) : Bool :=
  let sc := f / 2 % 8
  if f % 2 = 1 then (sc == 6 || sc == 7) && (if op then f / 16 != 3 && decide (f < 64) else decide (f < 16))
  else f == 0 && v == 0

/-- The record of an image, when every field holds a valid value and combination (14 R300, R301, R303). -/
def shapeOf (b : List Byte) (cap : Nat → TCap) (coords : Nat) : Option Shape :=
  let u := imgNat b
  let dims : List Dim := (List.range 4).map (fun d =>
    ⟨u (0x68 + 24 * d) 4, imgInt b (0x70 + 24 * d) 8, imgInt b (0x78 + 24 * d) 8⟩)
  let x0 := u 0x60 4
  let fmt := u 0xD8 1
  let red := u 0xD9 1
  let coll := u 0xDA 1
  let rmask := u 0xDB 1
  let acq := u 0xDE 1
  let rel := u 0xDF 1
  let swf := u 0xF0 1
  let clog2 := u 0xF1 1
  let extOk (n : Nat) : Bool := decide (1 ≤ n) && decide (n ≤ 2 ^ 24)
  let zero (k : TCap) : Bool := !k.tag && k.bits == 0
  let r : Shape :=
    { src := cap 0, dst := cap 0x10, synca := cap 0x20, syncr := cap 0x30, cmpl := cap 0x40, idx := cap 0x50, x0 := x0,
      dims := dims, advs := imgInt b 0xC8 8, advd := imgInt b 0xD0 8, fmt := fmt, red := red, coll := coll,
      rmask := rmask, gridExt := BitVec.ofNat 16 (u 0xDC 2),
      acq := if acq % 2 = 1 then some (acq / 2) else none,
      rel := if rel % 2 = 1 then some (rel / 2 % 8, rel / 16) else none,
      acqv := BitVec.ofNat 64 (u 0xE0 8), relv := BitVec.ofNat 64 (u 0xE8 8), sw := swf % 2 == 1,
      fallback := swf / 2 == 1, clog2 := clog2, cid := u 0xF4 4, shs := imgInt b 0xF8 8,
      coords := BitVec.ofNat 32 coords, swstate := 0 }
  let ok :=
    extOk x0 && dims.all (fun d => extOk d.extent) && u 0x64 4 == 0 && (List.range 4).all (fun d => u (0x6C + 24 * d) 4 == 0) &&
    decide (fmt ≤ 4) && decide (red ≤ 3) && decide (coll ≤ 3) && decide (rmask < 16) && flagOk acq false (u 0xE0 8) &&
    flagOk rel true (u 0xE8 8) && decide (swf < 4) && decide (clog2 ≤ 8) && u 0xF2 2 == 0 &&
    (acq % 2 == 1 || zero r.synca) && (rel % 2 == 1 || zero r.syncr) && (r.cmpl.tag || zero r.cmpl) &&
    (r.idx.tag || zero r.idx) && (r.cmpl.tag || clog2 == 0) &&
    (coll != 1 || red == 0) && (decide (coll < 2) || red != 0) && (red == 0 || fmt != 0) &&
    (coll != 0 || (rmask == 0 && !r.sw)) && (coll == 0 || rmask != 0) && (!r.sw || decide (coll ≥ 2)) &&
    (!r.fallback || r.sw) && (coll == 0 || !(r.src.tag && r.src.kind == 5 || r.dst.tag && r.dst.kind == 5)) &&
    (List.range 4).all (fun a => decide (r.coord a < r.ext a))
  if ok then some r else none

/-- The capabilities of a record that are in use: SRC, DST, SYNCA, SYNCR, CMPL, IDX, each with its permitted kinds and
required permissions (14 R300, R301; 17 R370). -/
def Shape.caps (r : Shape) : List (TCap × List Nat × List Nat) :=
  [(r.src, [0, 3, 5], [pLD]), (r.dst, [0, 3, 5], [pST])] ++
  (if r.acq.isSome then [(r.synca, [4], [pLD, pST])] else []) ++
  (if r.rel.isSome then [(r.syncr, [4], [pLD, pST])] else []) ++
  (if r.cmpl.tag then [(r.cmpl, [0], [pST])] else []) ++
  (if r.idx.tag then [(r.idx, [0], [pLD])] else [])

/-- The capability checks of an image, in the order of 14 R317 step 5. -/
def Env.shapeFault (e : Env) (r : Shape) : Option Exc :=
  let find (c : Byte) (p : TCap × List Nat × List Nat → Bool) : Option Exc :=
    (r.caps.find? p).map (fun x => { code := c, faddr := x.1.addr })
  match find cTAG (fun x => !x.1.tag) with
  | some x => some x
  | none =>
    match find cKIND (fun x => !x.2.1.contains x.1.kind) with
    | some x => some x
    | none =>
      match find cPERM (fun x => x.1.kind != 5 && x.2.2.any (fun p => !x.1.has p)) with
      | some x => some x
      | none =>
        match find cSEAL (fun x => x.1.otype != (if x.1.kind = 5 then 62 else 0)) with
        | some x => some x
        | none => find cCOLOUR (fun x => !e.ctx.permits x.1.col)

/-- A live handle in a shape table (14 R299). -/
def Ctx.shape? (c : Ctx) (h : Nat) : Option Shape :=
  let sl := mget ShapeSlot.free c.shapes (h % 65536)
  if sl.gen = h / 65536 % 65536 then sl.rcd else none

/-- The handle of a slot. -/
def handleOf (slot gen : Nat) : Nat := slot + 65536 * gen

/-- Change the record of a live handle. -/
def State.modShape (s : State) (col h : Nat) (f : Shape → Shape) : State :=
  match s.ctx? col with
  | none => s
  | some c =>
    match c.shape? h with
    | none => s
    | some r =>
      let sl := mget ShapeSlot.free c.shapes (h % 65536)
      s.setCtx { c with shapes := mput c.shapes (h % 65536) { sl with rcd := some (f r) } }

/-- A 32-bit result that an instruction executed once writes (14 R310). -/
def Env.once (e : Env) (s : State) (w : Nat) (tn : Taint) (l : Label) : Out :=
  .next (s.setGroup (e.writeResult (e.parts.map (fun i => (i, BitVec.ofNat 64 w))) tn l true e.isUniform))

/-- A v or s destination. -/
def dstVorS : Dst → Bool
  | .v _ => true
  | .s _ => true
  | _ => false

/-- `shp` (14 R317). -/
def execShp (f : Fields) (s : State) : Host.Outcome State Fault Refusal :=
  issue Row.shp f false (fun e s =>
    if e.capPend f.a || e.pendSrc f.b || e.pendSrc f.c || e.pendDst f.dst then .fail cEARLY
    else if !(f.mod == 0 && f.qual == 0 && isSPair f.a && uniformArg f.b && uniformArg f.c && dstVorS f.dst) then
      .fail cILOPER
    else if !e.any then .next s
    else
      let k := e.cap f.a 0
      let old := (e.read32 f.b e.first).toNat
      let coords := (e.read32 f.c e.first).toNat
      if coords ≥ 65536 then .fail cILOPER
      else e.gate s (
        match firstFail (capSteps s e.ctx (fun a => a.k.kind == 0 && isDev a.ea.toNat) (fun _ => [pLD]) 256 ++
            [chk cALIGN (fun a => a.ea.toNat % 256 != 0)]) [⟨e.first, k, (k.addr : Int)⟩] with
        | some x => .exc { x with fthread := none }
        | none =>
          if old ≠ 0 ∧ (e.ctx.shape? old).isNone then .exc { code := cSTALE, aux := BitVec.ofNat 64 old }
          else
            let b := bytesAt s.mem k.addr 256
            match shapeOf b (s.imgCap k b) coords with
            | none => .fail cILOPER
            | some r =>
              match e.shapeFault r with
              | some x => .exc x
              | none =>
                match s.badSec? k.addr 256 with
                | some sec => .exc { code := cUNCORR, faddr := 32 * sec }
                | none =>
                  if s.coAt k.addr 256 then .exc { code := cCOREAD, faddr := k.addr }
                  else
                    let l := Label.max (e.capLbl f.a) (e.lbls [f.b, f.c])
                    let put (slot gen : Nat) : Out :=
                      e.once (s.setCtx { e.ctx with shapes := mput e.ctx.shapes slot ⟨gen, some r⟩ }) (handleOf slot gen) 0 l
                    if old ≠ 0 then put (old % 65536) (nextGen (old / 65536))
                    else
                      match (List.range 65536).find? (fun n => (mget ShapeSlot.free e.ctx.shapes n).rcd.isNone) with
                      | none => e.once s 0 0 l
                      | some n => put n (mget ShapeSlot.free e.ctx.shapes n).gen)) s

/-- The fault of a handle that is not live. -/
def staleExc (h : Nat) : Exc := { code := cSTALE, aux := BitVec.ofNat 64 h }

/-- `shpfree` (14 R318). -/
def execShpfree (f : Fields) (s : State) : Host.Outcome State Fault Refusal :=
  issue Row.shpfree f false (fun e s =>
    if !(f.mod == 0 && f.qual == 0 && uniformArg f.a && f.b == .zero) then .fail cILOPER
    else if e.pendSrc f.a then .fail cEARLY
    else if !e.any then .next s
    else
      let h := (e.read32 f.a e.first).toNat
      match e.ctx.shape? h with
      | none => .exc (staleExc h)
      | some _ =>
        .next (s.setCtx { e.ctx with shapes := mset ShapeSlot.free e.ctx.shapes (h % 65536) ⟨nextGen (h / 65536), none⟩ })) s

/-- A command has completed (14 R315). -/
def Cmd.isDone (c : Cmd) : Bool := match c.state with | .done _ _ => true | _ => false

/-- INFLIGHT (14 R319). -/
def State.inflight (s : State) (ctx h : Nat) : Nat :=
  min 65535 (s.cmds.filter (fun p => p.2.ctx == ctx && p.2.handle.toNat == h && !p.2.isDone)).length

/-- `eqry` (14 R319). -/
def execEqry (f : Fields) (s : State) : Host.Outcome State Fault Refusal :=
  issue Row.eqry f false (fun e s =>
    if !(f.mod == 0 && f.qual == 0 && uniformArg f.a && f.b == .zero && dstVorS f.dst) then .fail cILOPER
    else if e.pendSrc f.a || e.pendDst f.dst then .fail cEARLY
    else if !e.any then .next s
    else
      let h := (e.read32 f.a e.first).toNat
      let w := match e.ctx.shape? h with
        | none => 0
        | some r => 1 + 2 * r.swstate + 65536 * s.inflight e.ctx.colour h
      e.once s w (e.taintOf f.a) (e.lblOf f.a)) s

/-- `swslot` (14 R319). -/
def execSwslot (f : Fields) (s : State) : Host.Outcome State Fault Refusal :=
  issue Row.swslot f false (fun e s =>
    let dstOk := match f.dst with | .none => true | d => dstVorS d
    if !(decide (f.mod.toNat < 2) && f.qual == 0 && uniformArg f.a && f.b == .zero && dstOk) then .fail cILOPER
    else if e.pendSrc f.a || e.pendDst f.dst then .fail cEARLY
    else if !e.any then .next s
    else
      let h := (e.read32 f.a e.first).toNat
      match e.ctx.shape? h with
      | none => .exc (staleExc h)
      | some r =>
        if f.mod.getLsbD 0 then
          e.once (s.modShape e.ctx.colour h (fun r => { r with swstate := if r.swstate = 1 then 0 else r.swstate }))
            1 (e.taintOf f.a) (e.lblOf f.a)
        else e.once s (1 + 2 * r.swstate) (e.taintOf f.a) (e.lblOf f.a)) s

/-! ### Guard slots (14 R309) -/

/-- The checks of `gset` and `gclr`; N when they pass. -/
def Env.guardSlot (e : Env) (aOk : Bool) : Bool :=
  e.f.mod == 0 && decide (e.f.qual.toNat < 16) && e.f.b == .zero && aOk

/-- A slot's value decides the undecided commands of a team that name it (14 R309). -/
def State.decideGuards (s : State) (team slot : Nat) (b : Bool) : State :=
  let h (c : Cmd) : Cmd :=
    match c.guard with
    | some (n, neg) => if c.team = team ∧ n = slot ∧ c.decided.isNone then { c with decided := some (b != neg) } else c
    | none => c
  { s with cmds := mmap h s.cmds }

/-- `gset` (14 R309): it resolves the slot and decides the commands that wait on it. -/
def execGset (f : Fields) (s : State) : Host.Outcome State Fault Refusal :=
  issue Row.gset f false (fun e s =>
    if !(e.guardSlot (e.uniform f.a) && decide (f.qual.toNat < e.gr.guards)) then .fail cILOPER
    else if e.pendSrc f.a then .fail cEARLY
    else if !e.any then .next s
    else
      let b := e.read32 f.a e.first != 0
      let s1 := s.modTeam e.t.id (fun t => { t with guards := mput t.guards f.qual.toNat (.known b) })
      .next (s1.decideGuards e.t.id f.qual.toNat b)) s

/-- `gclr` (14 R309). -/
def execGclr (f : Fields) (s : State) : Host.Outcome State Fault Refusal :=
  issue Row.gclr f false (fun e s =>
    if !e.guardSlot (f.a == .zero) then .fail cILOPER
    else if f.qual.toNat ≥ e.gr.guards then .fail cILOPER
    else if !e.any then .next s
    else .next (s.modTeam e.t.id (fun t => { t with guards := mdel t.guards f.qual.toNat }))) s

/-! ### Issuing commands (14 R310 to R312) -/

/-- The record that a command names: its context's colour, its handle and the record; or the fault (14 R311 steps 3
and 4; 17 R386). -/
def Env.named (e : Env) (s : State) : Sum Exc (Nat × Nat × Shape) :=
  if e.f.mod.getLsbD 0 then
    let k := e.cap e.f.a 0
    let tok := k.otype == 62
    let ent := s.tokenEntry k
    let sealBad := if tok then !ent.any e.isRecipient else k.otype != 0
    match capExc k [(cTAG, !k.tag || (tok && ent.isNone)), (cSEAL, sealBad), (cKIND, k.kind != 2),
        (cCOLOUR, !s.permits e.ctx k.col), (cPERM, !k.has pENG)] with
    | some x => .inl x
    | none =>
      let d : TCap := if tok then (match ent with | some p => p.1 | none => k) else k
      let h := d.addr % 2 ^ 32
      match (s.ctx? d.col).bind (fun c => c.shape? h) with
      | some r => .inr (d.col, h, r)
      | none => .inl (staleExc h)
  else
    let h := (e.read32 e.f.a e.first).toNat
    match e.ctx.shape? h with
    | some r => .inr (e.ctx.colour, h, r)
    | none => .inl (staleExc h)

/-- The members of the device group, 1 without one (14 R311). -/
def State.members (s : State) : Nat := match s.devgroup with | some d => d.hashes.length | none => 1

/-- [lo, hi) within the bounds of a capability: none, or the lowest failing address. -/
def outside (k : TCap) (lo hi : Int) : Option Int :=
  let (b, t) := k.bounds
  if b < 0 ∨ t > ((2 ^ 56 : Nat) : Int) ∨ lo < b then some lo
  else if hi > t then some (max lo t) else none

/-- The footprints of a command with their capabilities (14 R311 step 7). -/
def Shape.foots (r : Shape) (step : Nat) (gather : Bool) : List (TCap × Int × Int) :=
  (r.offsets true).map (fun o => let p := r.footprint true step o gather; (r.src, p.1, p.2)) ++
  (r.offsets false).map (fun o => let p := r.footprint false step o false; (r.dst, p.1, p.2))

/-- The issue checks 5 to 9 of 14 R311 on a record. -/
def State.recordFault (s : State) (r : Shape) (step : Nat) (gather : Bool) : Option Exc :=
  let ill := (if gather then r.coll != 0 || !r.idx.tag else r.idx.tag) ||
    decide ((List.range 4).foldl (fun n a => n * r.ext a) 1 > s.members)
  let ranges : List (TCap × Int × Int) :=
    (r.foots step gather).filter (fun p => p.1.kind != 5) ++
    (if gather then
      let x1 := ((r.dims.head?.map (·.extent)).getD 1 : Nat)
      let b : Int := (r.idx.addr : Int) + 4 * step * x1
      [(r.idx, b, b + 4 * x1)] else []) ++
    (if r.cmpl.tag then [(r.cmpl, (r.cmpl.addr : Int), (r.cmpl.addr : Int) + 16 * 2 ^ r.clog2)] else [])
  let tile (p : TCap × Int × Int) : Option Int :=
    let a := p.1.addr
    let lim : Int := ((a / 2 ^ 38 * 2 ^ 38 + 0x400000 : Nat) : Int)
    if p.1.kind = 3 ∧ isWin a ∧ !isTarnWin a ∧ !p.1.has pTILE ∧ p.2.2 > lim then some (max p.2.1 lim) else none
  let mis : Option Int :=
    ((r.offsets true).findSome? (fun o => r.misaligned true step o)).or
      (((r.offsets false).findSome? (fun o => r.misaligned false step o)).or
        (if r.cmpl.tag ∧ r.cmpl.addr % 16 ≠ 0 then some r.cmpl.addr
         else if gather ∧ r.idx.addr % 4 ≠ 0 then some r.idx.addr else none))
  if ill then some { code := cILOPER }
  else
    match r.caps.find? (fun x => s.isRevoked x.1) with
    | some x => some { code := cTAG, faddr := x.1.addr }
    | none =>
      match ranges.findSome? (fun p => outside p.1 p.2.1 p.2.2) with
      | some a => some { code := cBOUND, faddr := bitsOf 56 a }
      | none =>
        match ranges.findSome? tile with
        | some a => some { code := cPERM, faddr := bitsOf 56 a }
        | none => mis.map (fun a => { code := cALIGN, faddr := bitsOf 56 a })

/-- The team that a window capability names, if it is resident, and which of its cores. -/
def State.capTeam (s : State) (k : TCap) : Option (Nat × Nat) :=
  if k.kind = 3 ∧ isWin k.addr then
    (s.winTeam k.addr).map (fun p => (p.1.id, p.1.cores.findIdx (fun r => r.core == p.2.core)))
  else none

/-- The elements that a command writes on this device, as (position in the command, address) (14 R304). -/
def Cmd.writes (c : Cmd) : List (Nat × Int) :=
  let n := c.rcd.elems
  let step := c.step.toNat
  let one (q : Nat) (o : Int) : List (Nat × Int) :=
    (List.range n).map (fun j => (q * n + j, c.rcd.addr false step o none j))
  if c.rcd.coll = 1 ∨ c.rcd.coll = 3 then (List.range c.ringSize).flatMap (fun q => one q ((q : Int) * c.rcd.shs))
  else if c.rcd.coll = 2 then one c.ringPos 0
  else one 0 0

/-- The tarn lines of a team that element writes touch, as (core, line). -/
def State.tarnTouched (s : State) (es : Nat) (as : List Int) : List (Nat × Nat × Nat) :=
  (as.flatMap (fun (a : Int) =>
    match (if 0 ≤ a then s.winTgt a.toNat else none) with
    | some (.tarn team core o) => (tarnLines o es).map (fun l => (team, core, l))
    | _ => [])).eraseDups

/-- The tarn destination lines of a command become absent (13 R280). -/
def State.holdLines (s : State) (c : Cmd) : State :=
  if c.rcd.dst.kind = 3 ∧ isTarnWin c.rcd.dst.addr then
    (s.tarnTouched c.rcd.esize (c.writes.map (·.2))).foldl (fun s p =>
      s.modCore p.1 p.2.1 (fun r =>
        { r with tline := mmod TLine.clear r.tline p.2.2 (fun x => { x with awaits := x.awaits ++ [c.id] }) })) s
  else s

/-- A command still holds one of the 64 places of its queue (14 R306, R320). Whether a command in progress holds one R320 does not say:
those queued, those that acquire and the active ones that are no collective count (DESIGN CHOICE, log entry 129). -/
def Cmd.inQueue (c : Cmd) : Bool :=
  match c.state with
  | .queued => true
  | .acquiring => true
  | .active => c.rcd.coll == 0
  | _ => false

/-- The commands of one queue: a function's at a core's TXE or GXE (14 R320). -/
def State.engQueue (s : State) (core fn : Nat) (gather : Bool) : List Cmd :=
  (s.cmds.map (·.2)).filter (fun c => c.core == core && c.fn == fn && c.gather == gather && c.inQueue)

/-- The shared part of `tx` and `gx` (14 R311, R312). -/
def Env.command (e : Env) (s : State) (gather : Bool) : Out :=
  let f := e.f
  let caph := f.mod.getLsbD 0
  let guarded := f.qual.getLsbD 4
  let gn := (f.qual.extractLsb' 0 4).toNat
  let pend := if caph then e.capPend f.a else e.pendSrc f.a
  if pend || e.pendSrc f.b then .fail cEARLY
  else if !(decide (f.mod.toNat < 4) && f.qual.extractLsb' 5 3 == 0#3 && (guarded || gn == 0) &&
      (!guarded || decide (gn < e.gr.guards)) && (if caph then isSPair f.a else uniformArg f.a) && uniformArg f.b) then
    .fail cILOPER
  else if !e.any then .next s
  else
    match e.named s with
    | .inl x => .exc x
    | .inr (ctx, h, r) =>
      let step := e.read32 f.b e.first
      match s.recordFault r step.toNat gather with
      | some x => .exc x
      | none => e.gate s (
        if (s.engQueue e.g.core e.ctx.fn gather).length ≥ 64 then .stall s
        else
          let (id, s1) := s.fresh
          let neg := f.mod.getLsbD 1
          let decided : Option Bool :=
            if !guarded then some true
            else match mfind e.t.guards gn with | some (.known b) => some (b != neg) | _ => none
          let c : Cmd :=
            { id := id, team := e.g.team, gid := e.g.gid, fn := e.ctx.fn, colour := e.ctx.colour, core := e.g.core,
              gather := gather, handle := BitVec.ofNat 32 h, step := step, rcd := r, shapeSlot := h % 65536, ctx := ctx,
              guard := if guarded then some (gn, neg) else none, srcTeam := s.capTeam r.src, dstTeam := s.capTeam r.dst,
              decided := decided, state := .queued, chunks := 0, pos := 0, flags := 0, lbl := 0, peers := [],
              ringSize := r.ringSize, ringPos := r.ringPos, switched := false, faddr := 0,
              page := none, lost := false, rows := [], reported := false, waited := false, asked := false }
          .next ({ s1 with cmds := mput s1.cmds id c }.holdLines c))

/-- `tx` (14 R311, R312). -/
def execTx (f : Fields) (s : State) : Host.Outcome State Fault Refusal :=
  issue Row.tx f false (fun e s => e.command s false) s

/-- `gx` (14 R311, R312, R314). -/
def execGx (f : Fields) (s : State) : Host.Outcome State Fault Refusal :=
  issue Row.gx f false (fun e s => e.command s true) s

/-! ### ewait (14 R316) -/

/-- The commands of a group that an `ewait n` covers, oldest first. -/
def State.ewaited (s : State) (team gid n : Nat) : List Cmd :=
  let cs := (s.cmds.map (·.2)).filter (fun c => c.team == team && c.gid == gid)
  cs.take (cs.length - n)

/-- The fault that an `ewait` raises: that of the earliest command that ended FAULT and was not reported. -/
def ewaitFault (cs : List Cmd) : Option (Cmd × Byte) :=
  cs.findSome? (fun c => match c.state with
    | .done 3 code => if c.reported then none else some (c, code)
    | _ => none)

/-- The fault as taken at the `ewait` (14 R316, 19 R419). -/
def ewaitExc (c : Cmd × Byte) : Exc :=
  { code := c.2, faddr := if c.2 = cCOCOPY ∨ c.2 = cCOSTORE then 0 else c.1.faddr, aux := BitVec.ofNat 64 (c.1.handle.toNat + 2 ^ 32 * c.1.step.toNat) }

/-- The destination ranges of a command, as byte ranges. -/
def Cmd.destRanges (c : Cmd) : List (Nat × Nat) :=
  (c.rcd.offsets false).map (fun o =>
    let p := c.rcd.footprint false c.step.toNat o false
    (p.1.toNat, p.2.toNat))

/-- The effect of a completed `ewait`: the destinations of the commands that ended DONE are acquired (12 R263). The commands stay
among those of the group, for a later `ewait` acquires them again (14 R316). -/
def State.ewaitDone (s : State) (team gid : Nat) (cs : List Cmd) : State :=
  let rs := cs.flatMap (fun c => match c.state with
    | .done 0 _ => c.destRanges.map (fun r => (r.1, r.2, s.now))
    | _ => [])
  s.modGroup team gid (fun g =>
    { g with acquiredRanges := g.acquiredRanges.filter (fun r => !rs.any (fun x => x.1 == r.1 && x.2.1 == r.2.1)) ++ rs })

/-- Mark a command's fault reported. -/
def State.markReported (s : State) (id : Nat) : State :=
  match mfind s.cmds id with
  | some c => { s with cmds := mput s.cmds id { c with reported := true } }
  | none => s

/-- `ewait` (14 R316). -/
def execEwait (f : Fields) (s : State) : Host.Outcome State Fault Refusal :=
  issue Row.ewait f false (fun e s =>
    if !(f.mod == 0 && f.qual == 0 && uniformArg f.a) then .fail cILOPER
    else if e.pendSrc f.a then .fail cEARLY
    else if !e.any then .next s
    else
      let n := (e.read32 f.a e.first).toNat
      let cs := s.ewaited e.g.team e.g.gid n
      if !cs.all (·.isDone) then .suspend s .waiting (.ewait n)
      else
        match ewaitFault cs with
        | some c => .excIn (s.markReported c.1.id) (ewaitExc c)
        | none => .next (s.ewaitDone e.g.team e.g.gid cs)) s

/-! ### dredge (17 R392) -/

/-- A `dredge` that writes a pass number. -/
def Env.dredgeResult (e : Env) (s : State) (w : Nat) : Out :=
  .next (s.setGroup (e.writeResult (e.parts.map (fun i => (i, BitVec.ofNat 64 w))) 0 0 true e.isUniform))

/-- A v, s or 475 destination. -/
def dstVSnone : Dst → Bool
  | .v _ => true
  | .s _ => true
  | .none => true
  | _ => false

/-- `dredge.start` (17 R392): the group's earlier `krevoke` have performed when they committed. -/
def execDredgeStart (f : Fields) (s : State) : Host.Outcome State Fault Refusal :=
  issue Row.dredge f false (fun e s =>
    if !(f.mod == 0 && f.qual == 0 && f.a == .zero && dstVSnone f.dst) then .fail cILOPER
    else if e.pendDst f.dst then .fail cEARLY
    else if !e.any then .next s
    else
      let n := if s.dredge.state = .idle then s.dredge.completed + 1 else s.dredge.completed + 2
      e.dredgeResult { s with dredge := { s.dredge with requested := max s.dredge.requested n } } n) s

/-- `dredge.wait` (17 R392). -/
def execDredgeWait (f : Fields) (s : State) : Host.Outcome State Fault Refusal :=
  issue Row.dredge f false (fun e s =>
    if !(f.mod == 1 && f.qual == 0 && e.uniform f.a && f.dst == .none) then .fail cILOPER
    else if e.pendSrc f.a then .fail cEARLY
    else if !e.any then .next s
    else
      let n := (e.read f.a e.first).toNat
      if n > s.dredge.requested then .fail cILOPER
      else if s.dredge.completed ≥ n then .next s
      else .suspend s .waiting (.dredge n)) s

/-- `dredge.query` (17 R392). -/
def execDredgeQuery (f : Fields) (s : State) : Host.Outcome State Fault Refusal :=
  issue Row.dredge f false (fun e s =>
    if !(f.mod == 2 && f.qual == 0 && f.a == .zero && dstVSnone f.dst) then .fail cILOPER
    else if e.pendDst f.dst then .fail cEARLY
    else if !e.any then .next s
    else e.dredgeResult s s.dredge.completed) s

/-! ### rfe (19 R430) -/

/-- A window access of a group can be performed at an `rfe` of that group, in the middle of its run. -/
def State.ownReady (s : State) (w : WinAcc) (team gid : Nat) : Bool :=
  match s.winGroup w.addr with
  | some (t, g) => if t = team ∧ g = gid then s.winFirst w else s.winReady w
  | none => s.winReady w

/-- The window accesses of a group that can be performed now. -/
def State.performOwn (s : State) (team gid : Nat) : State :=
  s.wins.foldl (fun s p =>
    match mfind s.wins p.1 with
    | some w => if w.byTeam = team ∧ w.byGid = gid ∧ s.ownReady w team gid then s.winPerform w else s
    | none => s) s

/-- `rfe` (19 R430). -/
def execRfe (f : Fields) (s : State) : Host.Outcome State Fault Refusal :=
  issue Row.rfe f false (fun e s =>
    if !e.plain then .fail cILOPER
    else if !e.any then .next s
    else
      let s1 := (s.performOwn e.g.team e.g.gid).syncSweep
      if s1.wins.any (fun p => p.2.byTeam == e.g.team && p.2.byGid == e.g.gid) then .stall s1
      else
        let g := e.groupIn s1
        let fr := g.frame
        if !fr.active || g.run.subset != fr.subset then .excIn s1 { code := cILOPER }
        else
          match targetFault e.gr.native (fr.rpc.toNat : Int) with
          | some x => .excIn s1 x
          | none =>
            let same := e.gr.native || fr.rpc == fr.fpc
            let ts := if same then g.threads else sinceUpdate fr.subset g.threads
            let g1 : Group := { g with
              threads := ts
              kcode := fr.kcode
              frame := { fr with active := false, kcode := TCap.null }
              run := { g.run with resumed := same } }
            .jump (s1.setGroup (g1.setPcs fr.rpc.toNat)) none) s

end Sys2Proof.Machine
end

