-- ==== Sys2Proof/Machine/Matrix.lean ====
section
/-! DEFINITION. Machine/Matrix.lean: the paired matrix array (09): operand geometry (R196 to R200), the sums of R202 and
R203, issue and checks (R193 to R209, R466), `mwait` (R206), and drain-add (R213 to R215). -/

namespace Sys2Proof.Machine

open Sys2Proof

/-! ### Geometry (09 R196 to R200) -/

/-- N of 09 R199, 0 for a dense B. -/
def slotKept (sl : Word) : Nat := if slotSparse sl = 0 then 0 else 2 ^ slotSparse sl

/-- Offset of the MX scale bytes in a B chunk (09 R199, R200). -/
def geoScaleAt (sl : Word) : Nat :=
  if slotSparse sl ≠ 0 then 8192 else 16 * geoKc (slotFmt sl) * geoW (slotFmt sl)

/-- Bytes of the B chunk (09 R196, R199). -/
def geoChunk (sl : Word) : Nat :=
  if slotBpi sl then 1024 * slotPlanes sl + 32
  else geoScaleAt sl + (if geoMx (slotFmt sl) then 512 else 0)

/-- The bytes [o, o + n) of a memory as an array. -/
def cellArray (m : List Host.Cell) (o n : Nat) : Array Byte :=
  m.foldl (fun (a : Array Byte) p => if o ≤ p.1 then a.setIfInBounds (p.1 - o) p.2 else a) (Array.replicate n 0)

/-- Element `i` of `w` bits packed by 07 R133 from an offset of a chunk. -/
def packed (bs : Array Byte) (off w i : Nat) : Nat :=
  let b := w * i
  ((bs.getD (off + b / 8) 0).toNat + 256 * (bs.getD (off + b / 8 + 1) 0).toNat) / 2 ^ (b % 8) % 2 ^ w

/-- Element `i` of `w` bits of the row-major A array in slab words (09 R197). -/
def packedW (ws : Array Word) (w i : Nat) : Nat :=
  let b := w * i
  ((ws.getD (b / 32) 0).toNat + 2 ^ 32 * (ws.getD (b / 32 + 1) 0).toNat) / 2 ^ (b % 32) % 2 ^ w

/-- The E8M0 scale of row r and block j of A (09 R197). -/
def scaleA (c : Nat) (ws : Array Word) (r j : Nat) : Nat := (ws.getD (geoData c + r) 0).toNat / 2 ^ (8 * j) % 256

/-- The E8M0 scale of column c and block j of B (09 R200). -/
def scaleB (sl : Word) (bs : Array Byte) (c j : Nat) : Nat := (bs.getD (geoScaleAt sl + 4 * c + j) 0).toNat

/-- The pattern of BPI element (k, c) (09 R200, 07 R136). -/
def bpiPat (planes : Nat) (bs : Array Byte) (k c : Nat) : Nat :=
  let i := c % 4 * 64 + k
  (List.range planes).foldl (fun v p =>
    v + (bs.getD (c / 4 * planes * 32 + 32 * p + i / 8) 0).toNat / 2 ^ (i % 8) % 2 * 2 ^ (7 - p)) 0

/-- The scale of the BPI block of a column. -/
def bpiScale (planes : Nat) (bs : Array Byte) (c : Nat) : Nat := (bs.getD (1024 * planes + c / 4) 0).toNat

/-- The kept elements of column c in the K block j, as (k, pattern), in ascending k and then slot order (09 R198,
R199). -/
def columnBlock (sl : Word) (bs : Array Byte) (c j : Nat) : List (Nat × Nat) :=
  let kc := geoKc (slotFmt sl)
  let w := geoW (slotFmt sl)
  let n := slotKept sl
  if slotBpi sl then (List.range 32).map (fun i => (32 * j + i, bpiPat (slotPlanes sl) bs (32 * j + i) c))
  else if n = 0 then (List.range 32).map (fun i => (32 * j + i, packed bs 0 w (c * kc + 32 * j + i)))
  else
    [2 * j, 2 * j + 1].flatMap (fun g =>
      sortBy (fun a b : Nat × Nat => decide (a.1 ≤ b.1)) ((List.range n).map (fun x =>
        let i := (c * (kc / 16) + g) * n + x
        (16 * g + packed bs 4096 4 i, packed bs 0 w i))))

/-! ### Floating-point sums (09 R202) -/

/-- RoundSig24 of mag × 2^e: mantissa, exponent, inexact. -/
def roundSig24 (mag : Nat) (e : Int) : Nat × Int × Bool :=
  let bl := Nat.log2 mag + 1
  if bl ≤ 24 then (mag, e, false)
  else (roundMag .rne false mag (bl - 24) 0, e + (bl - 24 : Nat), mag % 2 ^ (bl - 24) != 0)

/-- The sum of one block: v and its flags. `anyNan` says that an operand element or a scale of the block is NaN, `sc` is
the sum of the unbiased scales. -/
def blockSum (anyNan : Bool) (sc : Int) (ps : List (Fp × Fp)) : Word × Flags :=
  let prods := ps.map (fun p => mulFp p.1 p.2)
  let zeroInf := prods.any (fun p => p.2 != 0)
  let infP := prods.any (fun p => p.1 == .inf false)
  let infN := prods.any (fun p => p.1 == .inf true)
  if anyNan || zeroInf || (infP && infN) then
    (rn .nan, if zeroInf || (infP && infN) then fIV else 0)
  else if infP then (rn (.inf false), 0)
  else if infN then (rn (.inf true), 0)
  else
    let fs := prods.filterMap (fun p => match p.1 with | .fin s m e => if m = 0 then none else some (s, m, e) | _ => none)
    match fs with
    | [] => (0, 0)
    | f :: _ =>
      let emax := fs.foldl (fun (a : Int) x => max a (lg2 x.2.1 x.2.2)) (lg2 f.2.1 f.2.2)
      let u := emax - 48
      let fl (m : Nat) (e : Int) : Nat := if e ≥ u then m * 2 ^ (e - u).toNat else m / 2 ^ (u - e).toNat
      let lost (m : Nat) (e : Int) : Bool := decide (e < u) && m % 2 ^ (u - e).toNat != 0
      let sum := fs.foldl (fun (a : Int) x => a + signedMant x.1 (fl x.2.1 x.2.2)) 0
      let nx := fs.any (fun x => lost x.2.1 x.2.2)
      if sum = 0 then (0, if nx then fNX else 0)
      else
        let (m, e, nx2) := roundSig24 sum.natAbs u
        let (b, g) := roundToFormat (.fin (decide (sum < 0)) m (e + sc)) FP32 .rne true 0
        (BitVec.ofNat 32 b, g ||| (if nx || nx2 then fNX else 0))

/-- Change every element of a tile: the new value and flags from row, column and old value. -/
def Acc.mapEl (a : Acc) (h : Nat → Nat → Word → Word × Flags) : Acc × Flags :=
  let old := a.el.foldl (fun (v : Array Word) p => v.setIfInBounds p.1 p.2) (Array.replicate 20480 0)
  let r := (List.range 20480).foldr (fun k (st : List (Nat × Word) × Flags) =>
    let x := h (k / 128) (k % 128) (old.getD k 0)
    (if x.1 = 0 then st.1 else (k, x.1) :: st.1, st.2 ||| x.2)) ([], 0)
  ({ a with el := r.1 }, r.2)

/-- `mma` of a floating-point format on one tile (09 R202). -/
def mmaFp (sl : Word) (F : Fmt) (slab : Array Word) (bs : Array Byte) (a : Acc) : Acc × Flags :=
  let c := slotFmt sl
  let kc := geoKc c
  let w := geoW c
  let av (r k : Nat) : Fp := F.value (packedW slab w (r * kc + k))
  let rows : Array (Array Fp) := Array.ofFn (n := 160) (fun r => Array.ofFn (n := kc) (fun k => av r.val k.val))
  let cols : Array (Array (List (Nat × Fp))) := Array.ofFn (n := 128) (fun cc =>
    Array.ofFn (n := kc / 32) (fun j => (columnBlock sl bs cc.val j.val).map (fun p => (p.1, F.value p.2))))
  let rowNan (r j : Nat) : Bool :=
    (List.range 32).any (fun i => ((rows.getD r #[]).getD (32 * j + i) .nan).isNan) || (geoMx c && scaleA c slab r j == 255)
  let rn : Array (Array Bool) := Array.ofFn (n := 160) (fun r => Array.ofFn (n := kc / 32) (fun j => rowNan r.val j.val))
  a.mapEl (fun r cc x =>
    (List.range (kc / 32)).foldl (fun (st : Word × Flags) j =>
      let bl := (cols.getD cc #[]).getD j []
      let nanB := bl.any (fun p => p.2.isNan) || (geoMx c && scaleB sl bs cc j == 255)
      let sc : Int := if geoMx c then (scaleA c slab r j : Int) - 127 + ((scaleB sl bs cc j : Int) - 127) else 0
      let row := rows.getD r #[]
      let v := blockSum ((rn.getD r #[]).getD j true || nanB) sc (bl.map (fun p => (row.getD p.1 .nan, p.2)))
      let t := faddRne st.1 v.1
      (t.1, st.2 ||| v.2 ||| t.2)) (x, 0))

/-! ### Integer sums (09 R203) -/

/-- Clamp to 32 bits, with ACCSAT. -/
def clamp32 (v : Int) : Int × Flags :=
  if v > 2147483647 then (2147483647, fACCSAT) else if v < -2147483648 then (-2147483648, fACCSAT) else (v, 0)

/-- The products of an integer `mma` added into the inner tile. -/
def mmaInner (sl : Word) (slab : Array Word) (bs : Array Byte) (a : Acc) : Acc × Flags :=
  let c := slotFmt sl
  let kc := geoKc c
  let w := geoW c
  let rows : Array (Array Int) := Array.ofFn (n := 160) (fun r =>
    Array.ofFn (n := kc) (fun k => intOf true w (packedW slab w (r.val * kc + k.val))))
  let bval (p : Nat) : Int := if slotBpi sl then bpiQ (c == 14) (slotPlanes sl) p else intOf true w p
  let cols : Array (List (Nat × Int)) := Array.ofFn (n := 128) (fun cc =>
    (List.range (kc / 32)).flatMap (fun j => (columnBlock sl bs cc.val j).map (fun p => (p.1, bval p.2))))
  a.mapEl (fun r cc x =>
    let row := rows.getD r #[]
    let z := (cols.getD cc []).foldl (fun (st : Int × Flags) p =>
      let y := clamp32 (st.1 + row.getD p.1 0 * p.2)
      (y.1, st.2 ||| y.2)) (x.toInt, 0)
    (BitVec.ofInt 32 z.1, z.2))

/-- The promotion of an inner tile into aN. -/
def mmaPromote (sl : Word) (bs : Array Byte) (inner a : Acc) : Acc × Flags :=
  let iv := inner.el.foldl (fun (v : Array Word) p => v.setIfInBounds p.1 p.2) (Array.replicate 20480 0)
  a.mapEl (fun r cc x =>
    let i := (iv.getD (128 * r + cc) 0).toInt
    if slotBpi sl then
      let g := bpiScale (slotPlanes sl) bs cc
      if g = 255 then (rn .nan, 0)
      else
        let y := addFp false (val32 x) (Fp.ofInt false i ((g : Int) - 127))
        let z := roundToFormat y.1 FP32 .rne true 0
        (BitVec.ofNat 32 z.1, y.2 ||| z.2)
    else
      let z := clamp32 (x.toInt + i)
      (BitVec.ofInt 32 z.1, z.2))

/-! ### Operations of a team -/

end Sys2Proof.Machine

namespace Sys2Proof

/-- N, QUAL[3:0] (09 R193). -/
def Fields.accN (f : Fields) : Nat := (f.qual.extractLsb' 0 4).toNat
/-- The format slot of QUAL[6:4] (09 R207). -/
def Fields.mslot (f : Fields) : Nat := (f.qual.extractLsb' 4 3).toNat
/-- MOD[2:0] (09 R207). -/
def Fields.tileN (f : Fields) : Nat := (f.mod.extractLsb' 0 3).toNat
/-- BSRC (09 R207). -/
def Fields.bsrc (f : Fields) : Bool := f.mod.getLsbD 3
/-- PAIR, or FOL (09 R207). -/
def Fields.pairBit (f : Fields) : Bool := f.mod.getLsbD 4

end Sys2Proof

namespace Sys2Proof.Machine

open Sys2Proof

/-- The operation is an `mdrain` or an `mrecv`. -/
def ArrKind.isDrain : ArrKind → Bool
  | .mdrain _ _ _ => true
  | .mrecv _ _ => true
  | _ => false

/-- The operation is an integer `mma` of a grid. -/
def ArrKind.isInt (k : ArrKind) (gr : Grid) : Bool :=
  match k with
  | .mma slot _ _ => decide (slotFmt (gr.slot slot) ≥ 12)
  | _ => false

/-- The same for an issued operation. -/
def ArrOp.isInt (o : ArrOp) (gr : Grid) : Bool := o.kind.isInt gr

/-- The accumulators that an operation named for aN reads or writes: an integer `mma` aN+1 too (09 R203). -/
def ArrKind.accs (k : ArrKind) (gr : Grid) (n : Nat) : List Nat := if k.isInt gr then [n, n + 1] else [n]

/-- The accumulators that an issued operation reads or writes. -/
def ArrOp.touches (o : ArrOp) (gr : Grid) : List Nat := o.kind.accs gr o.acc

/-- The operations of a team, in issue order. -/
def State.teamOps (s : State) (team : Nat) : List ArrOp :=
  (s.arrops.map (·.2)).filter (fun o => o.team == team)

/-- The hold of 09 R466: an `mdrain` or `mrecv` on one of the accumulators has not completed. -/
def State.held (s : State) (team : Nat) (ns : List Nat) : Bool :=
  (s.teamOps team).any (fun o => ns.contains o.acc && o.kind.isDrain && !o.done)

/-- The limit of 09 R195 is reached. -/
def State.arrFull (s : State) (team : Nat) : Bool :=
  decide (((s.teamOps team).filter (fun o => !o.kind.isDrain && !o.done)).length ≥ 2)

/-- Write an operation back. -/
def State.setOp (s : State) (o : ArrOp) : State := { s with arrops := mput s.arrops o.id o }

/-- Change the matrix record of an accumulator. -/
def State.modRec (s : State) (team n : Nat) (h : MRec → MRec) : State :=
  s.modTeam team (fun t => { t with mrecs := mmod MRec.zero t.mrecs n h })

/-- Change the accumulator tile of a team on a core. -/
def CoreRes.modAcc (r : CoreRes) (n : Nat) (h : Acc → Acc) : CoreRes := { r with accs := mmod Acc.zero r.accs n h }

/-- The cores of an operation of the executing team: both with PAIR, else the leader's. -/
def Team.opCores (t : Team) (pair : Bool) : List CoreRes := if pair then t.cores else t.cores.take 1

/-- Some tile aN of these cores satisfies a test. -/
def accAny (rs : List CoreRes) (n : Nat) (p : Acc → Bool) : Bool := rs.any (fun r => p (mget Acc.zero r.accs n))

/-- Issue an array operation (09 R193, R205). -/
def Env.issueOp (e : Env) (s : State) (n : Nat) (pair : Bool) (kind : ArrKind) (l : Label) : State :=
  let (id, s1) := s.fresh
  let o : ArrOp := ⟨id, e.t.id, n, pair, kind, l, none, false, false, 0, []⟩
  let int := o.isInt e.gr
  let cs := (e.t.opCores pair).map (·.core)
  let mark (r : CoreRes) : CoreRes :=
    if !cs.contains r.core then r
    else
      let r1 := r.modAcc n (fun a => { a with unwaited := true })
      if int then r1.modAcc (n + 1) (fun a => { a with unwaited := true, inner := true }) else r1
  let s2 := s1.modTeam e.t.id (fun t =>
    { t with
      cores := t.cores.map mark
      mrecs := if int || kind.isDrain then mmod MRec.zero t.mrecs n (fun m => { m with owed := true }) else t.mrecs })
  s2.setOp o

/-- The executing group is not the issuing group (02 R32). -/
def Env.notIssuer (e : Env) : Bool := e.gr.issuer != some e.g.gid

/-- A uniform operand as SInt of bits [31:0] (09 R207). -/
def Env.sarg (e : Env) (x : Src) : Int := (e.read32 x e.first).toInt

/-- A v register number. -/
def vNum : Src → Option Nat
  | .v n => some n.val
  | _ => none

/-- Steps 1 to 3 of 09 R208 and 10 R224 after the decode checks `ok`: PRIV, EARLY_READ, ILLEGAL_OPERAND. -/
def Env.issuerChecks (e : Env) (ok pend bad : Bool) : Option Byte :=
  if !ok then some cILOPER
  else if e.notIssuer then some cPRIV
  else if pend then some cEARLY
  else if bad then some cILOPER
  else none

/-- The last steps of an array operation: PARKED, the hold, taking part, the limit of 09 R195 and the issue. The hold covers every
accumulator that the operation touches, so that none is queued behind an untaken contribution (09 R466). `bad` is a sector of an
operand read at issue that holds an uncorrectable error (09 R218). -/
def Env.queueOp (e : Env) (s : State) (n : Nat) (pair : Bool) (gone : List (Nat × Nat)) (hold : Bool) (kind : ArrKind)
    (l : Label) (bad : Option Nat) : Out :=
  if !gone.isEmpty then .stop s .parked (.park gone)
  else if hold && s.held e.t.id (kind.accs e.gr n) then .stop s .waiting (.hold (kind.accs e.gr n))
  else if !e.any then .next s
  else if !kind.isDrain && s.arrFull e.t.id then .stall s
  else
    let s1 := e.issueOp s n pair kind l
    match bad with
    | none => .next s1
    | some a => .next { s1 with arrops := s1.arrops.map (fun p => (p.1, if p.1 = s.nextId then { p.2 with bad := some a } else p.2)) }

/-- The words of a slab of v registers in the layout of 09 R197. -/
def Env.slab (e : Env) (v words : Nat) : List Word :=
  (List.range words).map (fun w => e.g.vget (v + w / e.gr.width) (w % e.gr.width))

/-- The largest label of a slab of `k` registers. -/
def Env.slabLbl (e : Env) (v k : Nat) : Label :=
  (List.range k).foldl (fun l j => Label.max l (e.g.vsd (v + j)).lbl) 0

/-- The sector of the first of the given slab words with an uncorrectable error. -/
def Env.slabBadIn (e : Env) (s : State) (v : Nat) (ws : List Nat) : Option Nat :=
  if e.g.vbad.isEmpty then none
  else
    (ws.find? (fun w => e.g.vbad.contains (64 * (v + w / e.gr.width) + w % e.gr.width))).map (fun w =>
      s.vSector e.t e.g (some (v + w / e.gr.width, w % e.gr.width)))

/-- The same for a slab of `words` words. -/
def Env.slabBad (e : Env) (s : State) (v words : Nat) : Option Nat := e.slabBadIn s v (List.range words)

/-- The sector of the first tarn word of a range with an uncorrectable error, on each of the cores. -/
def State.tarnBad (s : State) (rs : List CoreRes) (o n : Nat) : Option Nat :=
  rs.findSome? (fun r => (badIn r.tbad o n).map (fun w => s.blockAt r true (4 * w)))

/-- The absent tarn lines of a range on each of the cores. -/
def goneLines (rs : List CoreRes) (o n : Nat) : List (Nat × Nat) :=
  rs.flatMap (fun r => ((tarnLines o n).filter r.absent).map (fun l => (r.core, l)))

/-- The largest label of the tarn lines of a range. -/
def tarnLbl (rs : List CoreRes) (o n : Nat) : Label :=
  rs.foldl (fun l r => (tarnLines o n).foldl (fun l j => Label.max l (mget TLine.clear r.tline j).lbl) l) 0

/-- The team of the executing group, as a state holds it. -/
def Env.teamIn (e : Env) (s : State) : Team := (s.team? e.t.id).getD e.t

/-- An array operation that reads or writes tarns goes on behind a fence of the group (12 R258) and behind the group's own accesses to
them (12 R265), parked while a line that it touches is absent (09 R208). -/
def Env.tarnBehind (e : Env) (s : State) (cores : List Nat) (gone : List (Nat × Nat)) (k : State → Out) : Out :=
  if cores.isEmpty then k s else e.gate s (e.tarnFirst s gone cores k)

/-- The B source of an operation at its issue (09 R198, R201). -/
def bSource (rs : List CoreRes) (bsrc : Bool) (tile o n : Nat) : BSource :=
  if bsrc then
    let b (i : Nat) : List Byte := match rs[i]? with | some r => bytesAt r.tarn o n | none => []
    .bytes (b 0) (b 1)
  else .tile tile o

/-- The shared part of `mma` and `mscale`: checks 1 to 8 of 09 R208 and the issue. `words` is the slab's length,
`chunk` the bytes read from B, `bad` the further conditions of step 3. The CO_READ of `mscale` reports FADDR 0: 19 R419 gives an EA for
it, and a tile register has none (DESIGN CHOICE, log entry 127). -/
def Env.slabOp (e : Env) (s : State) (ok : Bool) (words chunk : Nat) (bad : List CoreRes → Bool) (co : Bool)
    (kind : List Word → BSource → ArrKind) : Out :=
  let f := e.f
  let n := f.accN
  let v := (vNum f.a).getD 0
  let na := (words + e.gr.width - 1) / e.gr.width
  let off := e.sarg f.b
  let o := 128 * off.toNat
  let rs := e.t.opCores f.pairBit
  let ok1 := ok && !f.qual.getLsbD 7 && (!f.bsrc || f.tileN == 0) && (vNum f.a).isSome && uniformArg f.b &&
    decide (n < e.gr.accs) && (f.bsrc || decide (f.tileN < e.gr.tiles))
  let bad1 := (f.pairBit && !e.gr.pair) || decide (v + na > e.gr.vregs) || decide (off < 0) ||
    (!f.bsrc && decide (o + chunk > 65536)) || bad rs
  match e.issuerChecks ok1 (e.g.vPend v na || e.pendSrc f.b) bad1 with
  | some c => .fail c
  | none =>
    if f.bsrc && decide (o + chunk > e.gr.tarn * 4096) then .fail cBOUND
    else if co && !f.bsrc && rs.any (fun r => (mget Tile.zero r.tiles f.tileN).co) then .fail cCOREAD
    else
      let gone := if f.bsrc then goneLines rs o chunk else []
      e.tarnBehind s (if f.bsrc && e.any then rs.map (·.core) else []) gone (fun s =>
        let rs := (e.teamIn s).opCores f.pairBit
        let l := Label.max (Label.max (e.slabLbl v na) (e.lblOf f.b)) (if f.bsrc then tarnLbl rs o chunk else 0)
        let bad2 := (e.slabBad s v words).or (if f.bsrc then s.tarnBad rs o chunk else none)
        e.queueOp s n f.pairBit gone true (kind (e.slab v words) (bSource rs f.bsrc f.tileN o chunk)) l bad2)

/-- `mma` (09 R209). The STREAM check of step 3 covers aN alone: whether it covers aN+1, which an integer `mma` writes too, R208
does not say (DESIGN CHOICE, log entry 108). -/
def execMma (f : Fields) (s : State) : Host.Outcome State Fault Refusal :=
  issue Row.mma f false (fun e s =>
    let sl := e.gr.slot f.mslot
    let int := decide (slotFmt sl ≥ 12)
    e.slabOp s true (geoWords (slotFmt sl)) (geoChunk sl)
      (fun rs => (slotBpi sl && slotSparse sl != 0) ||
        (int && (f.accN % 2 != 0 || decide (f.accN + 1 ≥ e.gr.accs) || accAny rs f.accN (·.stream))))
      false (fun ws b => .mma f.mslot ws b)) s

/-- `mscale` (09 R211). -/
def execMscale (f : Fields) (s : State) : Host.Outcome State Fault Refusal :=
  issue Row.mscale f false (fun e s =>
    e.slabOp s (!f.mod.getLsbD 5 && f.mslot == 0) 160 128 (fun rs => accAny rs f.accN (·.stream)) true
      (fun ws b => .mscale ws b)) s

/-- `mzero` (09 R210). -/
def execMzero (f : Fields) (s : State) : Host.Outcome State Fault Refusal :=
  issue Row.mzero f false (fun e s =>
    let ok := f.mod &&& 0x2F == 0 && decide (f.qual.toNat < 16) && decide (f.accN < e.gr.accs)
    match e.issuerChecks ok false ((f.pairBit && !e.gr.pair) || accAny (e.t.opCores f.pairBit) f.accN (·.stream)) with
    | some c => .fail c
    | none => e.queueOp s f.accN f.pairBit [] true .mzero 0 none) s

/-- ClusterInGang of a team (02 R41). -/
def clusterInGang (gr : Grid) (kid : Nat) : Nat := kid / gr.vcl % gr.gang

/-- `mdrain` (09 R213). -/
def execMdrain (f : Fields) (s : State) : Host.Outcome State Fault Refusal :=
  issue Row.mdrain f false (fun e s =>
    let ok := f.mod &&& 0x2F == 0 && decide (f.qual.toNat < 16) && decide (f.accN < e.gr.accs) && uniformArg f.a
    let w := (e.read32 f.a e.first).toNat
    let tcig := w % 64
    let tteam := w / 64 % 16
    let tacc := w / 1024 % 16
    let bad := (f.pairBit && !e.gr.pair) || e.gr.vcl == 0 || decide (tcig ≥ e.gr.gang) ||
      tcig == clusterInGang e.gr e.t.kid || decide (tteam ≥ e.gr.vcl) || decide (tacc ≥ e.gr.accs) ||
      w / 2 ^ 14 != 0 || f.pairBit != e.gr.pair || accAny (e.t.opCores f.pairBit) f.accN (·.stream)
    match e.issuerChecks ok (e.pendSrc f.a) bad with
    | some c => .fail c
    | none => e.queueOp s f.accN f.pairBit [] true (.mdrain tcig tteam tacc) (e.lblOf f.a) none) s

/-- `mrecv` (09 R214). -/
def execMrecv (f : Fields) (s : State) : Host.Outcome State Fault Refusal :=
  issue Row.mrecv f false (fun e s =>
    let ok := f.mod &&& 0x2F == 0 && !f.qual.getLsbD 7 && decide (f.accN < e.gr.accs) && uniformArg f.a
    let n := e.sarg f.a
    let rs := e.t.opCores f.pairBit
    let bad := e.gr.vcl == 0 || decide (n < 1) || decide (n > (e.gr.gang : Int) - 1) || f.pairBit != e.gr.pair ||
      accAny rs f.accN (·.stream)
    match e.issuerChecks ok (e.pendSrc f.a) bad with
    | some c => .fail c
    | none =>
      if accAny rs f.accN (·.unwaited) then .fail cEARLYACC
      else e.queueOp s f.accN f.pairBit [] false (.mrecv n.toNat f.mslot) (e.lblOf f.a) none) s

/-! ### mrd and mwr (09 R212) -/

/-- The checks that `mrd` and `mwr` share; the core whose tile is moved, row0 when they pass. -/
def Env.bandChecks (e : Env) (x : Src) (v : Option Nat) : Sum Byte (CoreRes × Nat) :=
  let f := e.f
  let k := 2048 / e.gr.width
  let row := e.sarg x
  let ok := f.mod &&& 0x2F == 0 && decide (f.qual.toNat < 16) && decide (f.accN < e.gr.accs) && v.isSome && uniformArg x
  let rs := if f.pairBit then e.t.cores.drop 1 else e.t.cores.take 1
  let bad := (f.pairBit && !e.gr.pair) || decide (v.getD 0 + k > e.gr.vregs) || row % 16 != 0 || decide (row < 0) ||
    decide (row ≥ 160) || accAny rs f.accN (·.stream)
  match e.issuerChecks ok (e.g.vPend (v.getD 0) k || e.pendSrc x) bad with
  | some c => .inl c
  | none =>
    if accAny rs f.accN (·.unwaited) then .inl cEARLYACC
    else match rs with
      | r :: _ => .inr (r, row.toNat)
      | [] => .inl cILOPER

/-- The words of a slab register that the taking-part threads move: (thread, word number). -/
def Env.slabWords (e : Env) (j : Nat) : List (Nat × Nat) := e.parts.map (fun i => (i, j * e.gr.width + i))

/-- The words of a tile that the taking-part threads move, for the band from `row`. -/
def Env.bandWords (e : Env) (row : Nat) : List Nat :=
  (List.range (2048 / e.gr.width)).flatMap (fun j => (e.slabWords j).map (fun p => 128 * row + p.2))

/-- `mrd` (09 R212): a thread reads, and meets an error in, its own words alone. -/
def execMrd (f : Fields) (s : State) : Host.Outcome State Fault Refusal :=
  issue Row.mrd f false (fun e s =>
    let vd := match f.dst with | .v n => some n.val | _ => none
    match e.bandChecks f.a vd with
    | .inl c => .fail c
    | .inr (r, row) =>
      let a := mget Acc.zero r.accs f.accN
      let l := Label.max a.lbl (e.lblOf f.a)
      let wr (g : Group) (j : Nat) : Group :=
        g.writeV (vd.getD 0 + j) ((e.slabWords j).map (fun p => (p.1, mget 0 a.el (128 * row + p.2)))) (e.taintOf f.a) l
      match a.bad.find? (e.bandWords row).contains with
      | some w => .exc { code := cUNCORR, faddr := s.blockAt r false (0x800000 + f.accN * 0x20000 + 4 * w) }
      | none => .next (s.setGroup ((List.range (2048 / e.gr.width)).foldl wr e.g))) s

/-- `mwr` (09 R212): a thread reads, and meets an error in, its own words alone. -/
def execMwr (f : Fields) (s : State) : Host.Outcome State Fault Refusal :=
  issue Row.mwr f false (fun e s =>
    let vs := vNum f.a
    match e.bandChecks f.b vs with
    | .inl c => .fail c
    | .inr (r, row) =>
      if !e.any then .next s
      else
        let k := 2048 / e.gr.width
        let l := Label.max (e.slabLbl (vs.getD 0) k) (e.lblOf f.b)
        let put (m : List (Nat × Word)) (j : Nat) : List (Nat × Word) :=
          (e.slabWords j).foldl (fun m p => mset 0 m (128 * row + p.2) (e.g.vget (vs.getD 0 + j) p.1)) m
        let own := e.bandWords row
        match e.slabBadIn s (vs.getD 0) (own.map (fun w => w - 128 * row)) with
        | some a => .exc { code := cUNCORR, faddr := a }
        | none =>
          .next (s.modCore e.t.id r.core (fun r => r.modAcc f.accN (fun a =>
            { a with el := (List.range k).foldl put a.el, lbl := Label.max a.lbl l, bad := a.bad.filter (fun w => !own.contains w) })))) s

/-! ### mwait (09 R206) -/

/-- The accumulators of a mask. -/
def accList (mask : BitVec 16) : List Nat := (List.range 16).filter (fun n => mask.getLsbD n)

/-- Every operation of a team on a set has completed. -/
def State.mwaitReady (s : State) (t : Team) (mask : BitVec 16) : Bool :=
  (s.teamOps t.id).all (fun o =>
    o.done || (match s.grid? t.grid with
      | some gr => !(o.touches gr).any (fun n => mask.getLsbD n)
      | none => !mask.getLsbD o.acc))

/-- A failure that a covering `mwait` raises (09 R218, 10 R231): the accumulator, the code and the address. -/
def Team.mwaitFault (t : Team) (mask : BitVec 16) : Option (Nat × Byte × Nat) :=
  (accList mask).findSome? (fun n =>
    let m := mget MRec.zero t.mrecs n
    if m.err = 0 then none else some (n, m.err, m.errAt))

/-- The failure has been raised. -/
def State.clearErr (s : State) (team n : Nat) : State := s.modRec team n (fun m => { m with err := 0, errAt := 0 })

/-- The failure of an operation on aN, which the covering `mwait` raises; an earlier one is kept. -/
def State.setOpErr (s : State) (team n : Nat) (c : Byte) (a : Nat) : State :=
  s.modRec team n (fun m => if m.err = 0 then { m with err := c, errAt := a } else m)

/-- The label of tiles aN of some cores. -/
def accLbl (rs : List CoreRes) (ns : List Nat) : Label :=
  rs.foldl (fun l r => ns.foldl (fun l n => Label.max l (mget Acc.zero r.accs n).lbl) l) 0

/-- The label with which flags in PFLAGS reach `sr.sat`: the record of R217 does not hold which tiles their operations wrote, and the
model takes every UNWAITED aN and inner aN+1 of the team, so an aN that a non-promoting integer `mma` left unwritten counts too (DESIGN
CHOICE, log entry 126). -/
def Team.unwaitedLbl (t : Team) (n : Nat) : Label :=
  t.cores.foldl (fun l r =>
    let lb (k : Nat) (b : Acc → Bool) : Label := let a := mget Acc.zero r.accs k; if b a then a.lbl else 0
    Label.max l (Label.max (lb n (·.unwaited)) (lb (n + 1) (·.inner)))) 0

/-- The flags that an `mwait` on a set moves to `sr.sat`, each with the label of the tiles that its operation wrote (09 R204). The
label is read when the `mwait` completes (which instant R204 means is DEDUCED, log entry 109). An `mwait` that names only the inner
tile of an integer `mma` waits for it and moves no flags of it: they stay for the `mwait` that covers aN (DESIGN CHOICE, log entry
110). -/
def State.mwaitFlags (s : State) (t : Team) (mask : BitVec 16) : List (Flags × Label) :=
  (accList mask).flatMap (fun n =>
    ((mget MRec.zero t.mrecs n).pflags, t.unwaitedLbl n) ::
      ((s.teamOps t.id).filter (fun o => o.acc == n)).map (fun o => (o.flags, accLbl (t.opCores o.pair) o.wrote)))

/-- The effect of a completed `mwait` on a set. One that names only the inner tile a(N+1) of an integer `mma` clears its UNWAITED
and retires nothing of aN (DESIGN CHOICE, log entry 110). -/
def State.mwaitDone (s : State) (t : Team) (gid : Nat) (mask : BitVec 16) : State :=
  let fls := s.mwaitFlags t mask
  let clrAcc (r : CoreRes) (n : Nat) : CoreRes := r.modAcc n (fun a => { a with unwaited := false, inner := false })
  let s1 := s.modTeam t.id (fun t =>
    { t with
      cores := t.cores.map (fun r => (accList mask).foldl clrAcc r)
      mrecs := (accList mask).foldl (fun m n => mmod MRec.zero m n (fun x => { x with owed := false, pflags := 0 })) t.mrecs })
  let s2 := { s1 with arrops := s1.arrops.filter (fun p => !(p.2.team == t.id && mask.getLsbD p.2.acc)) }
  s2.modGroup t.id gid (fun g => fls.foldl (fun g p => g.orFlags p.1 p.2) g)

/-- The set of an `mwait aN`: aN, and aN+1 while an integer `mma` on aN keeps it UNWAITED. -/
def Team.mwaitSet (t : Team) (n : Nat) : BitVec 16 :=
  let own : BitVec 16 := 1#16 <<< n
  if accAny t.cores (n + 1) (·.inner) then own ||| (1#16 <<< (n + 1)) else own

/-- `mwait` (09 R206). -/
def execMwait (f : Fields) (s : State) : Host.Outcome State Fault Refusal :=
  issue Row.mwait f false (fun e s =>
    let all := f.mod.getLsbD 0
    let ok := decide (f.mod.toNat < 2) && (if all then f.qual == 0 else decide (f.qual.toNat < 16)) &&
      (all || decide (f.accN < e.gr.accs))
    match e.issuerChecks ok false false with
    | some c => .fail c
    | none =>
      if !e.any then .next s
      else
        let mask := if all then 0xFFFF else e.t.mwaitSet f.accN
        if !s.mwaitReady e.t mask then .suspend s .waiting (.mwait mask)
        else
          match e.t.mwaitFault mask with
          | some x => .excIn (s.clearErr e.t.id x.1) { code := x.2.1, faddr := x.2.2 }
          | none => .next (s.mwaitDone e.t e.g.gid mask)) s

/-! ### Execution of the operations of this chapter -/

/-- An operation may begin: every earlier operation on its accumulators has completed (09 R194). -/
def State.opReady (s : State) (gr : Grid) (o : ArrOp) : Bool :=
  (s.teamOps o.team).all (fun x => x.id ≥ o.id || x.done || !(x.touches gr).any (fun n => (o.touches gr).contains n))

/-- The B bytes of an operation on the core of member `i` (09 R201). -/
def BSource.read (b : BSource) (r : CoreRes) (i n : Nat) : Array Byte :=
  match b with
  | .tile t o => cellArray (mget Tile.zero r.tiles t).bytes o n
  | .bytes b0 b1 => (if i = 0 then b0 else b1).toArray

/-- The label of the tile registers that an operation reads on its cores (09 R204). -/
def BSource.lbl (b : BSource) (rs : List CoreRes) : Label :=
  match b with
  | .tile t _ => rs.foldl (fun l r => let x := mget Tile.zero r.tiles t; if x.co then l else Label.max l x.lbl) 0
  | .bytes _ _ => 0

/-- The sector of the first word of a tile register with an uncorrectable error that an operation reads. -/
def State.tileBad (s : State) (rs : List CoreRes) (t o n : Nat) : Option Nat :=
  rs.findSome? (fun r => (badIn (mget Tile.zero r.tiles t).bad o n).map (fun w => s.blockAt r false (0x400000 + t * 0x10000 + 4 * w)))

/-- The same for the B source of an operation; a tarn source was tested at issue. -/
def BSource.bad (b : BSource) (s : State) (rs : List CoreRes) (n : Nat) : Option Nat :=
  match b with
  | .tile t o => s.tileBad rs t o n
  | .bytes _ _ => none

/-- The sector of the first element of accumulator tiles with an uncorrectable error. -/
def State.accBad (s : State) (rs : List CoreRes) (ns : List Nat) : Option Nat :=
  rs.findSome? (fun r => ns.findSome? (fun n =>
    ((mget Acc.zero r.accs n).bad.head?).map (fun w => s.blockAt r false (0x800000 + n * 0x20000 + 4 * w))))

/-- The NaN that an operation with an uncorrectable operand writes (09 R218). -/
def nanWord : Word := 0x7FC00000

/-- Every element of a tile is that NaN (09 R218). -/
def Acc.poison (a : Acc) : Acc := { a with el := (List.range 20480).map (fun k => (k, nanWord)), bad := [] }

/-- Raise the label of aN. -/
def Acc.raise (a : Acc) (l : Label) : Acc := { a with lbl := Label.max a.lbl l }

/-- `mscale` on one tile (09 R211). -/
def mscaleTile (er : Array Word) (ec : Array Byte) (a : Acc) : Acc × Flags :=
  a.mapEl (fun r c x =>
    match val32 x with
    | .fin s m e =>
      if m = 0 then (x, 0)
      else
        let k : Int := ((er.getD r 0).setWidth 8 : BitVec 8).toInt + (ec.getD c 0).toInt
        let z := roundToFormat (.fin s m (e + k)) FP32 .rne true 0
        (BitVec.ofNat 32 z.1, z.2)
    | _ => (x, 0))

/-- `mma` on one core: the resources after it and its flags. `promote` says that KCOUNT reaches the interval; `l1` is the label of
the operands that the operation reads. A promotion adds the label of this core's inner tile alone: whether a tile of a pair operation
takes the label of the other core's inner tile too, 09 R204 does not say (DESIGN CHOICE, log entry 126). -/
def mmaCore (sl : Word) (n : Nat) (slab : List Word) (b : BSource) (l1 : Label) (promote : Bool) (i : Nat) (r : CoreRes) :
    CoreRes × Flags :=
  let bs := b.read r i (geoChunk sl)
  match fmtOfCode (slotFmt sl) with
  | some F =>
    let (a, fl) := mmaFp sl F slab.toArray bs (mget Acc.zero r.accs n)
    (r.modAcc n (fun _ => a.raise l1), fl)
  | none =>
    let (inner, fl) := mmaInner sl slab.toArray bs (mget Acc.zero r.accs (n + 1))
    let inner1 := inner.raise l1
    if !promote then (r.modAcc (n + 1) (fun _ => inner1), fl)
    else
      let (a, fl2) := mmaPromote sl bs inner1 (mget Acc.zero r.accs n)
      ((r.modAcc n (fun _ => a.raise inner1.lbl)).modAcc (n + 1) (fun _ => { inner1 with el := [] }), fl ||| fl2)

/-- Apply a change of one core's resources to the cores of an operation; the flags are collected. -/
def Team.onCores (t : Team) (pair : Bool) (h : Nat → CoreRes → CoreRes × Flags) : Team × Flags :=
  let rs := t.cores.zipIdx.map (fun p => if pair || p.2 = 0 then h p.2 p.1 else (p.1, 0))
  ({ t with cores := rs.map (·.1) }, rs.foldl (fun fl p => fl ||| p.2) 0)

/-- An operation has completed with flags, and wrote these accumulators (09 R204, R205). -/
def State.opWrote (s : State) (o : ArrOp) (fl : Flags) (ns : List Nat) : State :=
  s.setOp { o with done := true, flags := o.flags ||| fl, wrote := ns }

/-- The same for one that wrote aN. -/
def State.opDone (s : State) (o : ArrOp) (fl : Flags) : State := s.opWrote o fl [o.acc]

/-- An operation of the matrix array that met an uncorrectable operand: NaN in every element that it would have written, on each of
its cores, and the failure for the covering `mwait` (09 R218). The elements that `mscale` keeps (NaN, infinities, zeros) count among
those that it would have written (DESIGN CHOICE, log entry 127). -/
def State.opPoison (s : State) (t : Team) (o : ArrOp) (l : Label) (ns : List Nat) (a : Nat) : State :=
  let (t1, _) := t.onCores o.pair (fun _ r => (ns.foldl (fun r n => r.modAcc n (fun x => x.poison.raise l)) r, 0))
  ((s.setTeam t1).setOpErr t.id o.acc cUNCORR a).opWrote o 0 ns

/-- The receiver of a drain (09 R213): the team of the sender's gang, unless it has retired. -/
def State.receiver (s : State) (gr : Grid) (kid tcig tteam : Nat) : Option Team :=
  let rk := (kid / gr.vcl / gr.gang * gr.gang + tcig) * gr.vcl + tteam
  (s.teams.map (·.2)).find? (fun t => t.grid == gr.id && t.kid == rk && t.status != .retired)

/-- A sender notifies its receiver (09 R213, R217): it is held once. -/
def State.notify (s : State) (gr : Grid) (t : Team) (o : ArrOp) (tcig tteam tacc : Nat) : State :=
  match s.receiver gr t.kid tcig tteam with
  | none => (s.modRec t.id o.acc (fun m => { m with draining := false })).opDone o 0
  | some rt =>
    let x := (clusterInGang gr t.kid, t.id, o.acc)
    (s.modRec rt.id tacc (fun m => if m.notified.contains x then m else { m with notified := m.notified ++ [x] })).setOp
      { o with begun := true }

/-- The array executes an operation of this chapter whose turn has come (09 R194, R201). -/
def State.runMatrix (s : State) (t : Team) (gr : Grid) (o : ArrOp) : State :=
  match o.kind with
  | .mma slot slab b =>
    let sl := gr.slot slot
    let rs := t.opCores o.pair
    let m := mget MRec.zero t.mrecs o.acc
    let kc := m.kcount + geoKc (slotFmt sl)
    let int := decide (slotFmt sl ≥ 12)
    let promote := int && decide (kc ≥ 2 ^ slotPromo sl)
    let ns := if !int then [o.acc] else if promote then [o.acc, o.acc + 1] else [o.acc + 1]
    let l := Label.max o.lbl (b.lbl rs)
    let counted (t : Team) : Team := if int then
        { t with mrecs := mmod MRec.zero t.mrecs o.acc (fun m => { m with kcount := if promote then 0 else kc }) }
      else t
    match (o.bad.or (b.bad s rs (geoChunk sl))).or (s.accBad rs ns) with
    | some a => s.opPoison (counted t) o l ns a
    | none =>
      let (t1, fl) := t.onCores o.pair (mmaCore sl o.acc slab b l promote)
      (s.setTeam (counted t1)).opWrote o fl ns
  | .mzero =>
    let (t1, _) := t.onCores o.pair (fun _ r => (r.modAcc o.acc (fun a => { a with el := [], lbl := 0, bad := [] }), 0))
    ((s.setTeam t1).modRec t.id o.acc (fun m => { m with kcount := 0 })).opDone o 0
  | .mscale slab b =>
    let rs := t.opCores o.pair
    let l := Label.max o.lbl (b.lbl rs)
    match (o.bad.or (b.bad s rs 128)).or (s.accBad rs [o.acc]) with
    | some a => s.opPoison t o l [o.acc] a
    | none =>
      let (t1, fl) := t.onCores o.pair (fun i r =>
        let (a, fl) := mscaleTile slab.toArray (b.read r i 128) (mget Acc.zero r.accs o.acc)
        (r.modAcc o.acc (fun _ => a.raise l), fl))
      (s.setTeam t1).opDone o fl
  | .mdrain tcig tteam tacc =>
    if o.begun then s
    else (s.modRec t.id o.acc (fun m =>
      { m with draining := true, tacc := tacc, tteam := tteam, tcig := tcig })).notify gr t o tcig tteam tacc
  | .mrecv count slot =>
    if o.begun then s
    else (s.modRec t.id o.acc (fun m => { m with armed := true, expect := count, rslot := slot, done := 0 })).setOp
      { o with begun := true }
  | _ => s

/-! ### Taking a contribution (09 R214) -/

/-- The senders of one arming: the first `count` distinct ClusterInGang values to notify, without those already added. -/
def MRec.heldFor (m : MRec) : List (Nat × Nat × Nat) :=
  let fresh := m.notified.foldl (fun (a : List (Nat × Nat × Nat)) x =>
    if m.done.getLsbD x.1 || a.any (fun y => y.1 == x.1) then a else a ++ [x]) []
  fresh.take (m.expect - ((List.range 48).filter (fun j => m.done.getLsbD j)).length)

/-- All the contributions of an arming are held or already added. -/
def MRec.allHeld (m : MRec) : Bool :=
  m.heldFor.length + ((List.range 48).filter (fun j => m.done.getLsbD j)).length == m.expect

/-- The held sender with the lowest ClusterInGang. -/
def MRec.nextSender (m : MRec) : Option (Nat × Nat × Nat) :=
  m.heldFor.foldl (fun (a : Option (Nat × Nat × Nat)) x =>
    match a with | some y => if x.1 < y.1 then some x else a | none => some x) none

/-- AddBySlot over a whole tile (09 R214). -/
def addTile (int : Bool) (a c : Acc) : Acc × Flags :=
  let cv := c.el.foldl (fun (v : Array Word) p => v.setIfInBounds p.1 p.2) (Array.replicate 20480 0)
  let (a1, fl) := a.mapEl (fun r cc x =>
    let y := cv.getD (128 * r + cc) 0
    if int then let z := clamp32 (x.toInt + y.toInt); (BitVec.ofInt 32 z.1, z.2) else faddRne x y)
  (a1.raise c.lbl, fl)

/-- An operation of a team on an accumulator that is still under way. -/
def State.openOp (s : State) (team n : Nat) (p : ArrKind → Bool) : Option ArrOp :=
  (s.teamOps team).find? (fun o => o.acc == n && !o.done && o.begun && p o.kind)

/-- The receiver takes the contribution of a sender that its arming holds, and the sender's `mdrain` completes. An uncorrectable
element of either tile makes the sum NaN throughout, whatever contributions follow it, and is a failure of the `mrecv`, and of the
`mdrain` when it stands in the sender's tile (09 R218). The label of `mrecv`'s count raises no tile: R214 names the
contributions alone, against R204's 'everything it reads' (DEDUCED, log entry 111). -/
def State.takeDrain (s : State) (rt : Team) (gr : Grid) (n : Nat) (x : Nat × Nat × Nat) (st : Team) : State :=
  let m := mget MRec.zero rt.mrecs n
  let int := slotFmt (gr.slot m.rslot) == 12 || slotFmt (gr.slot m.rslot) == 13
  let mine := s.openOp rt.id n (fun k => match k with | .mrecv _ _ => true | _ => false)
  let sent := s.accBad st.cores [x.2.2]
  let bad := ((mine.bind (·.bad)).or (s.accBad rt.cores [n])).or sent
  let (rt1, fl) := rt.onCores true (fun i r =>
    match st.cores[i]? with
    | some sr =>
      let c := mget Acc.zero sr.accs x.2.2
      if bad.isSome then (r.modAcc n (fun a => a.poison.raise c.lbl), 0)
      else
        let (a, fl) := addTile int (mget Acc.zero r.accs n) c
        (r.modAcc n (fun _ => a), fl)
    | none => (r, 0))
  let done1 := m.done ||| (1#48 <<< x.1)
  let last := decide (((List.range 48).filter (fun j => done1.getLsbD j)).length ≥ m.expect)
  let m1 : MRec := { m with
    notified := m.notified.filter (fun y => y != x)
    done := if last then 0 else done1
    armed := m.armed && !last }
  let s0 := s.setTeam { rt1 with mrecs := mset MRec.zero rt1.mrecs n m1 }
  let s1 := match bad with | some a => s0.setOpErr rt.id n cUNCORR a | none => s0
  let s1 := match sent with | some a => s1.setOpErr st.id x.2.2 cUNCORR a | none => s1
  let s2 := match mine with
    | some o => if last then s1.opDone { o with bad := bad } fl else s1.setOp { o with flags := o.flags ||| fl, bad := bad }
    | none => s1
  let s3 := s2.modRec st.id x.2.2 (fun m => { m with draining := false })
  match s3.openOp st.id x.2.2 (fun k => match k with | .mdrain _ _ _ => true | _ => false) with
  | some o => s3.opDone o 0
  | none => s3

/-- A team whose tiles are on its cores. -/
def Team.onCore (t : Team) : Bool :=
  match t.status with | .admitted => true | .saving => true | .draining => true | _ => false

/-- DRAIN_TAKE (09 R214): the event names the receiver, its accumulator and the sender's ClusterInGang. -/
def execDrainTake (team acc sender : Nat) (s : State) : Host.Outcome State Fault Refusal :=
  match s.team? team with
  | none => .next s
  | some rt =>
    match s.grid? rt.grid, (mget MRec.zero rt.mrecs acc).nextSender with
    | some gr, some x =>
      match s.team? x.2.1 with
      | some st =>
        let m := mget MRec.zero rt.mrecs acc
        if m.armed && m.allHeld && x.1 == sender && rt.onCore && st.onCore then .next (s.takeDrain rt gr acc x st)
        else .next s
      | none => .next s
    | _, _ => .next s

end Sys2Proof.Machine
end

