-- ==== Sys2Proof/Machine/Vocab.lean ====
section
/-! DEFINITION. Machine/Vocab.lean: the vocabulary stream (10): images (R220), the heap and normaliser orders (R221,
R222), `vinit`, `vfold`, `vfold.bwd`, `vmerge` and `vread` (R223 to R231), and the event in which an array executes an
issued operation (09 R194). -/

namespace Sys2Proof.Machine

open Sys2Proof

/-! ### Order and merge (10 R221, R222) -/

/-- A heap record: logit and vocabulary index. -/
abbrev HRec := Word × Nat

/-- The order of heap records. -/
def recBefore (a b : HRec) : Bool :=
  ltFp (val32 b.1) (val32 a.1) || (!ltFp (val32 a.1) (val32 b.1) && decide (a.2 < b.2))

/-- Equal records. -/
def recSame (a b : HRec) : Bool := eqFp (val32 a.1) (val32 b.1) && a.2 == b.2

/-- Insert a record into an ordered list as into a set. -/
def recInsert (x : HRec) : List HRec → List HRec
  | [] => [x]
  | y :: ys => if recSame x y then y :: ys else if recBefore x y then x :: y :: ys else y :: recInsert x ys

/-- A zero logit is stored as +0. -/
def plusZero (w : Word) : Word := if w = 0x80000000 then 0 else w

/-- TopK of the union of two lists of records, in whatever order they stand; a zero logit is stored as +0 (10 R221). -/
def topK (k : Nat) (h xs : List HRec) : List HRec :=
  ((h ++ xs).foldl (fun a x => recInsert (plusZero x.1, x.2) a) []).take k

/-- −Inf. -/
def negInf32 : Word := 0xFF800000

/-- Rn(x − y) (08 R185). -/
def sub32 (x y : Word) : Word := rn (addFp false (val32 x) (negFp (val32 y))).1

/-- E2: the result of `exp2` for an FP32 value. -/
def e2 (z : Word) : Word := BitVec.ofNat 32 (refResult false true (exp2Ref (val32 z))).1

/-- Merge of two normalisers. -/
def mergeNorm (a b : Word × Word) : Word × Word :=
  if a.1 = negInf32 ∧ b.1 = negInf32 then (negInf32, 0)
  else
    let m := fminmax32 true a.1 b.1
    (m, add32 (mul32 a.2 (e2 (sub32 a.1 m))) (mul32 b.2 (e2 (sub32 b.1 m))))

/-! ### Images (10 R220) -/

/-- A row of a stream image. -/
structure VRow where
  m : Word
  s : Word
  ncnt : Nat
  icnt : Nat
  lids : List Word
  llog : List Word
  found : Nat
  heap : List HRec
  deriving DecidableEq, Repr

/-- Little-endian words of bytes. -/
def wordsOf (bs : List Byte) (n : Nat) : List Word :=
  (List.range n).map (fun j => BitVec.ofNat 32 (natOfBytes ((bs.drop (4 * j)).take 4)))

/-- The bytes of words. -/
def bytesOfWords (ws : List Word) : List Byte := ws.flatMap (fun w => bytesOfNat 4 w.toNat)

/-- `n` heap records from bytes. -/
def recsOf (bs : List Byte) (n : Nat) : List HRec :=
  (List.range n).map (fun j =>
    (BitVec.ofNat 32 (natOfBytes ((bs.drop (8 * j)).take 4)), natOfBytes ((bs.drop (8 * j + 4)).take 4)))

/-- The pad record. -/
def padRec : HRec := (0x7FC00000, 0xFFFFFFFF)

/-- The bytes of a heap of capacity k. -/
def heapBytes (k : Nat) (h : List HRec) : List Byte :=
  ((h ++ List.replicate (k - h.length) padRec).take k).flatMap (fun x => bytesOfNat 4 x.1.toNat ++ bytesOfNat 4 x.2)

/-- HCNT of a row header. -/
def hcntOf (hdr : List Byte) : Nat := natOfBytes ((hdr.drop 0x32).take 2)

/-- A row from its header and its heap. -/
def rowOf (hdr heap : List Byte) : VRow :=
  let w (o : Nat) : Word := BitVec.ofNat 32 (natOfBytes ((hdr.drop o).take 4))
  ⟨w 0, w 4, (w 8).toNat, (w 12).toNat, wordsOf (hdr.drop 0x10) 4, wordsOf (hdr.drop 0x20) 4, (hdr.getD 0x30 0).toNat,
    recsOf heap (min (hcntOf hdr) (heap.length / 8))⟩

/-- The header of a row. -/
def VRow.header (r : VRow) : List Byte :=
  bytesOfNat 4 r.m.toNat ++ bytesOfNat 4 r.s.toNat ++ bytesOfNat 4 r.ncnt ++ bytesOfNat 4 r.icnt ++
  bytesOfWords (r.lids.take 4) ++ bytesOfWords (r.llog.take 4) ++ [BitVec.ofNat 8 r.found, 0] ++
  bytesOfNat 2 r.heap.length ++ List.replicate 12 0

/-- Cut a list into pieces of n. -/
def pieces {α : Type} (n : Nat) : Nat → List α → List (List α)
  | 0, _ => []
  | k + 1, xs => xs.take n :: pieces n k (xs.drop n)

/-- The rows of an image from its row headers and heaps. -/
def rowsOf (k : Nat) (hdrs heaps : List Byte) : List VRow :=
  ((pieces 64 160 hdrs).zip (pieces (8 * k) 160 heaps)).map (fun p => rowOf p.1 p.2)

/-- The stream header (10 R220). -/
def streamHeader (w : SWord) (spilled : Bool) (shlo shhi slbl : Nat) : List Byte :=
  bytesOfNat 2 w.k ++ [BitVec.ofNat 8 w.nlbl, BitVec.ofNat 8 ((if w.pairs then 1 else 0) + (if spilled then 2 else 0)),
    BitVec.ofNat 8 shlo, BitVec.ofNat 8 shhi, BitVec.ofNat 8 w.nsh, BitVec.ofNat 8 slbl] ++
  bytesOfNat 4 w.vlim ++ bytesOfNat 4 w.lscale.toNat ++ [1, 0] ++ List.replicate 46 0

/-- Replace the bytes [o, o + bs.length) of a memory. -/
def splice (m : List Host.Cell) (o : Nat) (bs : List Byte) : List Host.Cell :=
  m.filter (fun p => decide (p.1 < o)) ++ cellsOf o bs ++ m.filter (fun p => decide (o + bs.length ≤ p.1))

/-- [o, o + n) of a memory as a list. -/
def span (m : List Host.Cell) (o n : Nat) : List Byte := (cellArray m o n).toList

/-- The heaps lie in the spillway. -/
def SWord.spilled (w : SWord) : Bool := decide (w.k > 64)

/-- Image base in mere scratch. -/
def SWord.base (w : SWord) : Nat := w.sbase * 16384

/-- Base of the heaps in the spillway (10 R231). -/
def spillAt (gr : Grid) (w : SWord) : Int := gr.spill.bounds.1 + ((w.sbase * 0x80000 : Nat) : Int)

/-- SPILL does not cover the heaps of a stream (10 R231). -/
def spillBad (gr : Grid) (w : SWord) : Bool :=
  w.spilled && (!gr.spill.tag ||
    (let (b, t) := gr.spill.bounds
     decide (b < 0) || decide (spillAt gr w + ((1280 * w.k : Nat) : Int) > t)))

/-- Everything an image holds: the stream header, the row headers, the heaps inline. -/
structure Image where
  hdr : List Byte
  rows : List Byte
  heaps : List Byte

/-- The heaps of a stream lie in the host window (02 R36, check 5; 17 R369). -/
def SWord.hosted (gr : Grid) (w : SWord) : Bool := w.spilled && isHost (spillAt gr w).toNat

/-- The function through which a grid reaches the host window. -/
def State.fnOfGrid (s : State) (gr : Grid) : Nat := match s.ctx? gr.colour with | some c => c.fn | none => gr.fn

/-- The `n` bytes at an offset of the heaps in the host window, in pieces with their translations (18 R407, R408). -/
def State.heapPieces (s : State) (gr : Grid) (w : SWord) (o n : Nat) (write : Bool) : List (Nat × Nat × Trans) :=
  s.hostPieces (s.fnOfGrid gr) gr.spill.col ((spillAt gr w).toNat + o) n write

/-- All the heaps can be read (`rd`) and written (`wr`), in whatever memory they lie. -/
def State.heapReach (s : State) (gr : Grid) (w : SWord) (rd wr : Bool) : Reach :=
  if !w.hosted gr then .ok
  else
    let ts (write : Bool) : List Trans := (s.heapPieces gr w 0 (1280 * w.k) write).map (·.2.2)
    reachOf ((if rd then ts false else []) ++ (if wr then ts true else []))

/-- `n` bytes of the heaps of a spilled stream. -/
def State.heapRead (s : State) (gr : Grid) (w : SWord) (o n : Nat) : List Byte :=
  if w.hosted gr then
    (s.heapPieces gr w o n false).flatMap (fun p => match p.2.2 with | .ok h => span s.hostMem h p.2.1 | _ => List.replicate p.2.1 0)
  else span s.mem ((spillAt gr w).toNat + o) n

/-- The sector of the first byte of the heaps that cannot be read (00 R5, 20 R437). -/
def State.heapBad (s : State) (gr : Grid) (w : SWord) (o n : Nat) : Option Nat :=
  let a := (spillAt gr w).toNat + o
  if w.hosted gr then
    (s.heapPieces gr w o n false).findSome? (fun p => match p.2.2 with
      | .ok h => if s.hostLost h p.2.1 then some ((a + p.1 + s.hostLostAt h p.2.1) / 32 * 32) else none
      | _ => none)
  else (s.badSec? a n).map (32 * ·)

/-- Write the heaps of a spilled stream. -/
def State.heapWrite (s : State) (gr : Grid) (w : SWord) (bs : List Byte) (l : Label) : State :=
  if w.hosted gr then
    (s.heapPieces gr w 0 bs.length true).foldl (fun s p =>
      match p.2.2 with | .ok h => s.putHost h ((bs.drop p.1).take p.2.1) | _ => s) s
  else s.pointWrite (spillAt gr w).toNat (fullMask bs) l false

/-- The image of a stream (10 R220). -/
def State.image (s : State) (gr : Grid) (r : CoreRes) (w : SWord) : Image :=
  let b := span r.mscr w.base w.imageLen
  ⟨b.take 64, (b.drop 64).take 10240, if w.spilled then s.heapRead gr w 0 (1280 * w.k) else b.drop 10304⟩

/-- SHLO, SHHI and SLBL of an image. -/
def Image.cover (i : Image) : Nat × Nat × Label :=
  ((i.hdr.getD 4 0).toNat, (i.hdr.getD 5 0).toNat, (i.hdr.getD 7 0).extractLsb' 0 2)

/-- Write an image back (10 R220, R231). -/
def State.putImage (s : State) (team : Nat) (gr : Grid) (w : SWord) (shlo shhi : Nat) (slbl : Label) (rows : List VRow) :
    State :=
  let heaps := rows.flatMap (fun r => heapBytes w.k r.heap)
  let b := streamHeader w w.spilled shlo shhi slbl.toNat ++ rows.flatMap VRow.header ++ (if w.spilled then [] else heaps)
  let s1 := s.modTeam team (fun t =>
    { t with cores := t.cores.zipIdx.map (fun p => if p.2 = 0 then
      { p.1 with mscr := splice p.1.mscr w.base b, mbad := mendIn p.1.mbad w.base (fullMask b) } else p.1) })
  if w.spilled then s1.heapWrite gr w heaps slbl else s1

/-! ### vinit (10 R225) -/

/-- The stream of an accumulator. -/
def Team.stream (t : Team) (n : Nat) : SWord := mget SWord.none t.streams n

/-- The stream word that a `vinit` creates. -/
def Env.newStream (e : Env) (cfg : Nat) (lscale : Word) (va : Option Nat) : SWord :=
  let nlbl := cfg / 2 ^ 12 % 8
  let shard := cfg / 2 ^ 19 % 64
  let ws := match va with | some v => e.slab v 640 | none => []
  { live := true, pairs := e.f.pairBit, sbase := cfg / 2 ^ 15 % 16, k := cfg % 4096 + 1, nlbl := nlbl,
    nsh := cfg / 2 ^ 25 % 64 + 1, vlim := cfg / 2 ^ 32, lscale := lscale, shlo := shard, shhi := shard,
    lids := (List.range 640).map (fun i => if i % 4 < nlbl then ws.getD i 0 else 0xFFFFFFFF) }

/-- An FP32 pattern that is positive and finite. -/
def posFinite (w : Word) : Bool := match val32 w with | .fin false m _ => m != 0 | _ => false

/-- Another live stream of the team overlaps an image (10 R225). -/
def Team.imageClash (t : Team) (n : Nat) (w : SWord) : Bool :=
  t.streams.any (fun p => p.1 != n && p.2.live && overlaps p.2.base p.2.imageLen w.base w.imageLen)

/-- The tiles of a stream take or lose STREAM on the cores that it covers; with `keep` a follower that it does not cover keeps it. -/
def Team.setStream (t : Team) (n : Nat) (w : SWord) (keep : Bool) : Team :=
  let core (p : CoreRes × Nat) : CoreRes :=
    p.1.modAcc n (fun a => { a with stream := (w.live && (w.pairs || p.2 == 0)) || (keep && p.2 != 0 && a.stream) })
  { t with
    streams := mset SWord.none t.streams n w
    cores := t.cores.zipIdx.map core }

/-- `vinit` (10 R225). The stream lives, for the checks of later instructions, from its issue on. Where it ends a pair stream, the
follower's tile stays the stream's until the operation empties it. -/
def execVinit (f : Fields) (s : State) : Host.Outcome State Fault Refusal :=
  issue Row.vinit f false (fun e s =>
    let n := f.accN
    let va := vNum f.a
    let cfg := (e.read f.b e.first).toNat
    let lscale := e.read32 f.c e.first
    let w := e.newStream cfg lscale va
    let k := if va.isSome then (639 + e.gr.width) / e.gr.width else 0
    let ok := f.mod &&& 0x2F == 0 && decide (f.qual.toNat < 16) && decide (n < e.gr.accs) &&
      (va.isSome || f.a == .zero) && uniformArg f.b && uniformArg f.c
    let bad := decide (w.k > 256) || decide (w.nlbl > 4) || decide (w.shlo ≥ w.nsh) || cfg / 2 ^ 31 % 2 == 1 ||
      !posFinite lscale || va.isSome == (w.nlbl == 0) || decide (va.getD 0 + k > e.gr.vregs) ||
      (mget MRec.zero e.t.mrecs n).owed || (f.pairBit && !e.gr.pair) || e.t.imageClash n w
    match e.issuerChecks ok (e.g.vPend (va.getD 0) k || e.pendSrc f.b || e.pendSrc f.c) bad with
    | some c => .fail c
    | none =>
      if w.base + w.imageLen > e.gr.mscr * 16384 then .fail cBOUND
      else if spillBad e.gr w then .fail cHEAP
      else
        let l := Label.max (e.slabLbl (va.getD 0) k) (Label.max (e.lblOf f.b) (e.lblOf f.c))
        let drop := (e.t.stream n).pairs && !w.pairs
        let read := if va.isSome then (List.range 640).filter (fun i => decide (i % 4 < w.nlbl)) else []
        match e.queueOp s n f.pairBit [] true (.vinit w drop) l (e.slabBadIn s (va.getD 0) read) with
        | .next s1 => if e.any then .next (s1.modTeam e.t.id (fun t => t.setStream n w drop)) else .next s1
        | o => o) s

/-! ### vfold and vfold.bwd (10 R226, R227) -/

/-- The checks of `vfold` and `vfold.bwd` up to HEAP_SPILL. -/
def Env.foldChecks (e : Env) (ok bad : Bool) : Option Byte :=
  let w := e.t.stream e.f.accN
  let ok1 := ok && !e.f.mod.getLsbD 5 && !e.f.qual.getLsbD 7 && decide (e.f.accN < e.gr.accs) && uniformArg e.f.a
  match e.issuerChecks ok1 (e.pendSrc e.f.a) (!w.live || e.f.pairBit != w.pairs || bad) with
  | some c => some c
  | none => if spillBad e.gr w then some cHEAP else none

/-- `vfold` (10 R226). -/
def execVfold (f : Fields) (s : State) : Host.Outcome State Fault Refusal :=
  issue Row.vfold f false (fun e s =>
    match e.foldChecks (f.tileN == 0 && f.mslot == 0) false with
    | some c => .fail c
    | none => e.queueOp s f.accN f.pairBit [] true (.vfold (e.t.stream f.accN) (e.read32 f.a e.first)) 0 none) s

/-- `vfold.bwd` (10 R227). -/
def execVfoldBwd (f : Fields) (s : State) : Host.Outcome State Fault Refusal :=
  issue Row.vfold f false (fun e s =>
    let w := e.t.stream f.accN
    let sl := e.gr.slot f.mslot
    let bad := w.shlo != 0 || w.shhi + 1 != w.nsh || decide (slotFmt sl > 3) || slotSparse sl != 0 || slotRm sl == .stoch
    match e.foldChecks (decide (f.tileN < e.gr.tiles)) bad with
    | some c => .fail c
    | none =>
      if (e.t.opCores f.pairBit).any (fun r => (mget Tile.zero r.tiles f.tileN).co) then .fail cCOSTORE
      else e.queueOp s f.accN f.pairBit [] true (.vfoldBwd w f.mslot f.tileN (e.read32 f.a e.first)) 0 none) s

/-! ### vmerge (10 R228) -/

/-- The incoming image breaks a condition of 10 R228. -/
def incomingBad (w : SWord) (b : List Byte) : Bool :=
  let n (o k : Nat) : Nat := natOfBytes ((b.drop o).take k)
  let zero (o k : Nat) : Bool := ((b.drop o).take k).all (fun x => x == 0)
  let hdrs := pieces 64 160 ((b.drop 64).take 10240)
  let heaps := pieces (8 * w.k) 160 (b.drop 10304)
  let shlo := n 4 1
  let shhi := n 5 1
  n 0x10 2 != 1 || n 0 2 != w.k || n 2 1 != w.nlbl || n 6 1 != w.nsh || n 8 4 != w.vlim || n 12 4 != w.lscale.toNat ||
  decide (n 3 1 > 1) || decide (n 7 1 > 3) || !zero 0x12 46 ||
  hdrs.any (fun h => (h.getD 0x30 0).toNat ≥ 16 || (h.getD 0x31 0) != 0 || (h.drop 0x34).any (fun x => x != 0)) ||
  (hdrs.zip (pieces 4 160 w.lids)).any (fun p => wordsOf (p.1.drop 0x10) 4 != p.2) ||
  hdrs.any (fun h => decide (hcntOf h > w.k)) ||
  (hdrs.zip heaps).any (fun p => (recsOf p.2 (hcntOf p.1)).any (fun x =>
    (match val32 x.1 with | .fin _ _ _ => false | _ => true) || decide (x.2 ≥ w.vlim))) ||
  !((shhi + 1 == w.shlo && w.shlo == w.shhi) || (shhi + 1 != w.shlo && w.shhi + 1 == shlo && shlo == shhi))

/-- The shards that a stream covers after an image with SHLO `lo` and SHHI `hi` is merged: the lower run's first, the upper one's
last (10 R228). -/
def SWord.merged (w : SWord) (lo hi : Nat) : SWord :=
  if hi + 1 == w.shlo then { w with shlo := lo } else { w with shhi := hi }

/-- The same with the cover of an incoming image. -/
def SWord.mergedBy (w : SWord) (b : List Byte) : SWord := w.merged (b.getD 4 0).toNat (b.getD 5 0).toNat

/-- `vmerge` (10 R228); SRCB must be 475 (10 R223). The length of the image is that of the local K. -/
def execVmerge (f : Fields) (s : State) : Host.Outcome State Fault Refusal :=
  issue Row.vmerge f false (fun e s =>
    let n := f.accN
    let w := e.t.stream n
    let o := 128 * (e.read32 f.a e.first).toNat
    let len := 10304 + 1280 * w.k
    let rs := e.t.cores.take 1
    let ok := f.mod == 0 && f.b == .zero && decide (f.qual.toNat < 16) && decide (n < e.gr.accs) && uniformArg f.a
    match e.issuerChecks ok (e.pendSrc f.a) (!w.live) with
    | some c => .fail c
    | none =>
      if o + len > e.gr.tarn * 4096 then .fail cBOUND
      else if spillBad e.gr w then .fail cHEAP
      else
        e.tarnBehind s (rs.map (·.core)) (goneLines rs o len) (fun s =>
          let rs := (e.teamIn s).cores.take 1
          let b := match rs with | r :: _ => span r.tarn o len | [] => []
          if incomingBad w b then .excIn s { code := cILOPER }
          else
            match e.queueOp s n w.pairs [] true (.vmerge w b) (tarnLbl rs o len) (s.tarnBad rs o len) with
            | .next s1 =>
              if e.any then
                .next (s1.modTeam e.t.id (fun t => { t with streams := mput t.streams n (w.mergedBy b) }))
              else .next s1
            | out => out)) s

/-! ### vread (10 R229) -/

/-- The sector of the first word of mere scratch with an uncorrectable error in a range. -/
def State.scratchBad (s : State) (r : CoreRes) (o n : Nat) : Option Nat :=
  (badIn r.mbad o n).map (fun w => s.blockAt r false (0xA00000 + 4 * w))

/-- End a stream: its tiles are zeroed and it is forgotten. -/
def Team.endStream (t : Team) (n : Nat) : Team :=
  let w := t.stream n
  let t1 := t.setStream n SWord.none false
  let core (p : CoreRes × Nat) : CoreRes :=
    if w.pairs || p.2 == 0 then p.1.modAcc n (fun a => { a with el := [], lbl := 0, bad := [] }) else p.1
  { t1 with cores := t1.cores.zipIdx.map core }

/-- Write exported image bytes into the leader's tarn: the lines become present; a line wholly written takes the label, which may
lower it, another one the maximum (10 R229; 18 R395 lists no such fall: DEDUCED, log entry 113). -/
def CoreRes.exportImage (r : CoreRes) (o : Nat) (bs : List Byte) (l : Label) : CoreRes :=
  { r with
    tarn := splice r.tarn o bs
    tbad := mendIn r.tbad o (fullMask bs)
    tline := (tarnLines o bs.length).foldl (fun m j =>
      let whole := decide (o ≤ 128 * j) && decide (128 * j + 128 ≤ o + bs.length)
      mmod TLine.clear m j (fun x => ⟨[], if whole then l else Label.max x.lbl l⟩)) r.tline }

/-- The heaps that a `vread` reads in the host window are translated first, as a store's bytes are: it waits at issue, or raises
HOST_PAGE or HOST_DENIED at itself (18 R408, R409; that R409's rule for stores holds here is DEDUCED, log entry 131). -/
def Env.heapFirst (e : Env) (s : State) (w : SWord) (item row : Nat) : Option Out :=
  if item = 0 ∨ !w.hosted e.gr then none
  else
    let a := (spillAt e.gr w).toNat + (if item = 1 then 8 * w.k * row else 0)
    let n := if item = 1 then 8 * w.k else 1280 * w.k
    e.hostAccess s ((hostPages a n).map (fun x => ⟨e.first, e.gr.spill, ((max a x : Nat) : Int)⟩)) 1 false

/-- `vread` (10 R229). -/
def execVread (f : Fields) (s : State) : Host.Outcome State Fault Refusal :=
  issue Row.vread f false (fun e s =>
    let n := f.accN
    let w := e.t.stream n
    let sel := (e.read32 f.a e.first).toNat
    let row := sel % 256
    let item := sel / 256 % 16
    let arg := sel / 4096
    let vd := match f.dst with | .v d => some d.val | _ => none
    let k := if item = 0 then (15 + e.gr.width) / e.gr.width else if item = 1 then 64 / e.gr.width else 0
    let ok := decide (f.mod.toNat < 2) && decide (f.qual.toNat < 16) && decide (n < e.gr.accs) && uniformArg f.a &&
      (vd.isSome || f.dst == .none)
    let bad := !w.live || decide (item > 2) || (decide (item < 2) && decide (row > 159)) ||
      (item == 1 && decide (32 * arg ≥ w.k)) || decide (vd.getD 0 + k > e.gr.vregs) || (vd.isSome != decide (item < 2))
    let len := 10304 + 1280 * w.k
    match e.issuerChecks ok (e.pendSrc f.a || (vd.isSome && e.g.vPend (vd.getD 0) k)) bad with
    | some c => .fail c
    | none =>
      if item == 2 && decide (128 * arg + len > e.gr.tarn * 4096) then .fail cBOUND
      else if accAny e.t.cores n (·.unwaited) then .fail cEARLYACC
      else if !e.any then .next s
      else
        match e.t.cores with
        | [] => .next s
        | r :: _ =>
          let scr (o len : Nat) : Option Nat := s.scratchBad r (w.base + o) len
          let bad := (scr 0 64).or
            (if item = 0 then scr (64 + 64 * row) 64
            else if item = 1 then
              (if w.spilled then s.heapBad e.gr w (8 * w.k * row) (8 * w.k) else scr (10304 + 8 * w.k * row) (8 * w.k))
            else (scr 0 w.imageLen).or (if w.spilled then s.heapBad e.gr w 0 (1280 * w.k) else none))
          match e.heapFirst s w item row, bad with
          | some o, _ => o
          | none, some a => .exc { code := cUNCORR, faddr := a }
          | none, none =>
            let s := e.clearRefused s
            let img := s.image e.gr r w
            let slbl := img.cover.2.2
            let fin (s : State) : State := if f.mod.getLsbD 0 then s.modTeam e.t.id (fun t => t.endStream n) else s
            if item = 2 then
              let bs := (img.hdr.take 3 ++ [img.hdr.getD 3 0 &&& 1] ++ img.hdr.drop 4) ++ img.rows ++ img.heaps
              e.tarnBehind s [r.core] []
                (fun s => .next (fin (s.modCore e.t.id r.core (fun r => r.exportImage (128 * arg) bs slbl))))
            else
              let ws : List Word :=
                if item = 0 then wordsOf ((img.rows.drop (64 * row)).take 64) 16
                else
                  let all := wordsOf ((img.heaps.drop (8 * w.k * row)).take (8 * w.k)) (2 * w.k)
                  (List.range 32).flatMap (fun i =>
                    let x := 32 * arg + i
                    if x < w.k then [all.getD (2 * x) 0, all.getD (2 * x + 1) 0] else [padRec.1, 0xFFFFFFFF])
              let l := Label.max slbl (e.lblOf f.a)
              let wr (g : Group) (j : Nat) : Group :=
                g.writeV (vd.getD 0 + j) ((e.slabWords j).filterMap (fun p => ws[p.2]?.map (fun x => (p.1, x))))
                  (e.taintOf f.a) l
              .next (fin (s.setGroup ((List.range k).foldl wr (e.groupIn s))))) s

/-! ### Execution -/

/-- A count that saturates at 32 bits. -/
def satAdd32 (a b : Nat) : Nat := min 0xFFFFFFFF (a + b)

/-- The elements of row r as (column, value): the leader's, and with a pair stream the follower's. -/
def accArrays (t : Team) (n : Nat) (pairs : Bool) : List (Array Word) :=
  (if pairs then t.cores else t.cores.take 1).map (fun r =>
    (mget Acc.zero r.accs n).el.foldl (fun (v : Array Word) p => v.setIfInBounds p.1 p.2) (Array.replicate 20480 0))

/-- Fold one logit into the row being built: the row, C and Y, both newest first. -/
def foldCell (w : SWord) (v : Nat) (x : Word) (st : VRow × List HRec × List Word) : VRow × List HRec × List Word :=
  let (r, c, ys) := st
  if v ≥ w.vlim then st
  else
    let hit (j : Nat) : Bool := (r.lids.getD j 0).toNat == v
    let r1 := (List.range w.nlbl).foldl (fun (r : VRow) j =>
      if hit j then { r with llog := lset r.llog j x, found := r.found ||| 2 ^ j } else r) r
    let y := mul32 x w.lscale
    match val32 y with
    | .nan => ({ r1 with ncnt := satAdd32 r1.ncnt 1 }, c, ys)
    | .inf _ => ({ r1 with icnt := satAdd32 r1.icnt 1 }, c, ys)
    | .fin _ _ _ => (r1, (x, v) :: c, y :: ys)

/-- `vfold` of one row (10 R226): `xs` are the logits in ascending column. -/
def foldRow (w : SWord) (vbase : Nat) (xs : List Word) (r : VRow) : VRow :=
  let (r1, c, ys) := xs.zipIdx.foldl (fun st p => foldCell w (vbase + p.2) p.1 st) (r, [], [])
  match ys.reverse with
  | [] => r1
  | y :: rest =>
    let mt := rest.foldl (fun a b => fminmax32 true a b) y
    let st := (y :: rest).foldl (fun a b => add32 a (e2 (sub32 b mt))) 0
    let z := mergeNorm (r1.m, r1.s) (mt, st)
    { r1 with m := z.1, s := z.2, heap := topK w.k r1.heap c.reverse }

/-- The gradient of one element (10 R227). -/
def foldGrad (w : SWord) (row : VRow) (v : Nat) (x : Word) : Word :=
  if v ≥ w.vlim then 0
  else
    let y := mul32 x w.lscale
    match val32 y with
    | .fin _ _ _ =>
      if row.m = negInf32 then rn .nan
      else
        let rc := rn (rcpFp (val32 row.s)).1
        let p := mul32 (e2 (sub32 y row.m)) rc
        if w.nlbl ≥ 1 ∧ (row.lids.getD 0 0).toNat = v then sub32 p one32 else p
    | _ => rn .nan

/-- The bytes that `vfold.bwd` writes into a tile register, and its parameters (10 R227). -/
def gradBytes (w : SWord) (sl : Word) (rows : Array VRow) (vbase : Nat) (el : Array Word) : List Byte :=
  let c := slotFmt sl
  let kc := geoKc c
  let eb := geoW c / 8
  let F := (fmtOfCode c).getD BF16
  let none0 : VRow := ⟨0, 0, 0, 0, [], [], 0, []⟩
  (List.range ((160 + kc - 1) / kc * 8192 / eb)).flatMap (fun q =>
    let i := q % (8192 / eb)
    let r := q / (8192 / eb) * kc + i % kc
    let cc := i / kc
    let p := if r ≥ 160 then 0
      else
        let g := foldGrad w (rows.getD r none0) (vbase + cc) (el.getD (128 * r + cc) 0)
        (roundToFormat (val32 g) F (slotRm sl) (slotOvf sl) 0).1
    bytesOfNat eb p)

/-- Zero aN on the cores of a stream (10 R226). -/
def Team.zeroAcc (t : Team) (n : Nat) (pairs : Bool) : Team :=
  (t.onCores pairs (fun _ r => (r.modAcc n (fun a => { a with el := [], lbl := 0, bad := [] }), 0))).1

/-- The label of aN on the cores of a stream. -/
def Team.streamLbl (t : Team) (n : Nat) (pairs : Bool) : Label :=
  (if pairs then t.cores else t.cores.take 1).foldl (fun l r => Label.max l (mget Acc.zero r.accs n).lbl) 0

/-- Merge two rows, the left one first (10 R228); `own` is the local one, whose unused label logits stay. -/
def mergeRow (w : SWord) (own a b : VRow) : VRow :=
  let z := mergeNorm (a.m, a.s) (b.m, b.s)
  let ll (j : Nat) : Word :=
    if a.found / 2 ^ j % 2 = 1 then a.llog.getD j 0 else if b.found / 2 ^ j % 2 = 1 then b.llog.getD j 0 else 0
  { m := z.1, s := z.2, ncnt := satAdd32 a.ncnt b.ncnt, icnt := satAdd32 a.icnt b.icnt, lids := own.lids,
    llog := (List.range 4).map (fun j => if j < w.nlbl then ll j else own.llog.getD j 0),
    found := a.found ||| b.found, heap := topK w.k a.heap b.heap }

/-- A stream operation cannot use its image: the code and the address that the covering `mwait` raises (10 R231, R232). `len` bytes
of mere scratch are read, and spilled heaps with `rd` read and with `wr` written; heaps that the host refuses raise HOST_DENIED there
(DEDUCED, log entry 131). -/
def State.streamFault (s : State) (gr : Grid) (r : CoreRes) (w : SWord) (len : Nat) (rd wr : Bool) : Option (Byte × Nat) :=
  if w.spilled && s.isRevoked gr.spill then some (cHEAP, 0)
  else
    match s.heapReach gr w rd wr with
    | .bad code => some (code, (spillAt gr w).toNat)
    | _ =>
      ((s.scratchBad r w.base len).or (if rd && w.spilled then s.heapBad gr w 0 (1280 * w.k) else none)).map (fun a => (cUNCORR, a))

/-- aN after a stream operation that folds it: zero, or, when the operation met an uncorrectable error, the NaN of 09 R218 in every
element that it would have written (that a stream operation follows it is a DESIGN CHOICE, log entry 112). -/
def Team.folded (t : Team) (n : Nat) (pairs : Bool) (code : Option (Byte × Nat)) : Team :=
  if code.any (fun x => x.1 == cUNCORR) then (t.onCores pairs (fun _ r => (r.modAcc n (fun a => { a.poison with lbl := 0 }), 0))).1
  else t.zeroAcc n pairs

/-- The gradient bytes of an operation that met an uncorrectable error: NaN in every element of the chunks (09 R218). -/
def gradPoison (sl : Word) : List Byte :=
  let c := slotFmt sl
  let eb := geoW c / 8
  let F := (fmtOfCode c).getD BF16
  let p := (roundToFormat .nan F (slotRm sl) (slotOvf sl) 0).1
  (List.range ((160 + geoKc c - 1) / geoKc c * 8192 / eb)).flatMap (fun _ => bytesOfNat eb p)

/-- Write a gradient into a tile register: its label is the one that R227 gives, which may lower it (18 R395 lists no such fall:
DEDUCED, log entry 113). A register that a CO chunk reached after the issue keeps its data and its KEYCOL (18 R403). -/
def CoreRes.putGrad (r : CoreRes) (tile : Nat) (bs : List Byte) (l : Label) : CoreRes :=
  { r with tiles := mmod Tile.zero r.tiles tile (fun x =>
      if x.co then x else { x with bytes := splice x.bytes 0 bs, lbl := l, bad := mendIn x.bad 0 (fullMask bs) }) }

/-- A `vmerge` that failed leaves its image as it is (10 R231), and the checks of later instructions see the shards of that image, with
those of the merges issued since. -/
def State.coverBack (s : State) (team n id : Nat) (i : Image) : State :=
  let later := (s.teamOps team).filter (fun o => o.acc == n && decide (o.id > id))
  if later.any (fun o => match o.kind with | .vinit _ _ => true | _ => false) then s
  else
    s.modTeam team (fun t => { t with streams := mmod SWord.none t.streams n (fun w =>
      later.foldl (fun w o => match o.kind with | .vmerge _ b => w.mergedBy b | _ => w)
        { w with shlo := i.cover.1, shhi := i.cover.2.1 }) })

/-- The array executes a stream operation whose turn has come. A `vinit` or `vfold` that ends in HEAP_SPILL leaves the image as it is
and still empties aN (and, for `vinit`, its KCOUNT): R231 speaks of the image alone (DESIGN CHOICE, log entry 112). -/
def State.runVocab (s : State) (t : Team) (gr : Grid) (o : ArrOp) : State :=
  let n := o.acc
  let fail (s : State) (x : Byte × Nat) : State := s.setOpErr t.id n x.1 x.2
  match o.kind, t.cores with
  | .vinit w drop, r :: _ =>
    let t0 := t.zeroAcc n (o.pair || drop)
    let t1 := if drop then t0.setStream n (t0.stream n) false else t0
    let t2 : Team := { t1 with mrecs := mmod MRec.zero t1.mrecs n (fun m => { m with kcount := 0 }) }
    let s1 := s.setTeam t2
    let rows := (pieces 4 160 w.lids).map (fun ids => (⟨negInf32, 0, 0, 0, ids, [0, 0, 0, 0], 0, []⟩ : VRow))
    (match (o.bad.map (fun a => (cUNCORR, a))).or (s.streamFault gr r w 0 false true) with
      | some x => fail s1 x
      | none => s1.putImage t.id gr w w.shlo w.shhi o.lbl rows).opDone o 0
  | .vfold w vbase, r :: _ =>
    let tiles := (t.opCores w.pairs)
    let bad := (s.streamFault gr r w w.imageLen true true).or ((s.accBad tiles [n]).map (fun a => (cUNCORR, a)))
    let s1 := s.setTeam (t.folded n w.pairs bad)
    (match bad with
      | some x => fail s1 x
      | none =>
        let img := s.image gr r w
        let (lo, hi, sl) := img.cover
        let arrs := accArrays t n w.pairs
        let rows := (rowsOf w.k img.rows img.heaps).zipIdx.map (fun (p : VRow × Nat) =>
          foldRow w vbase.toNat (arrs.flatMap (fun (a : Array Word) => (List.range 128).map (fun c => a.getD (128 * p.2 + c) 0))) p.1)
        s1.putImage t.id gr w lo hi (Label.max sl (t.streamLbl n w.pairs)) rows).opDone o 0
  | .vfoldBwd w slot tile vbase, r :: _ =>
    let rs := t.opCores w.pairs
    let img := s.image gr r w
    let rows := (rowsOf w.k img.rows img.heaps).toArray
    let arrs := accArrays t n w.pairs
    let bad := (s.streamFault gr r w 10304 false false).or ((s.accBad rs [n]).map (fun a => (cUNCORR, a)))
    let grad (i : Nat) : List Byte :=
      if bad.any (fun x => x.1 == cUNCORR) then gradPoison (gr.slot slot)
      else gradBytes w (gr.slot slot) rows (vbase.toNat + 128 * i) (arrs.getD i #[])
    let co := rs.any (fun r => (mget Tile.zero r.tiles tile).co)
    let t1 := (t.onCores w.pairs (fun i r =>
      (r.putGrad tile (grad i) (Label.max (mget Acc.zero r.accs n).lbl img.cover.2.2), 0))).1
    let s1 := s.setTeam (t1.folded n w.pairs bad)
    (match bad with
      | some x => fail s1 x
      | none => if co then fail s1 (cCOSTORE, 0) else s1).opWrote o 0 []
  | .vmerge w b, r :: _ =>
    (match (o.bad.map (fun a => (cUNCORR, a))).or (s.streamFault gr r w w.imageLen true true) with
      | some x => fail (s.coverBack t.id n o.id (s.image gr r w)) x
      | none =>
        let img := s.image gr r w
        let (lo, hi, sl) := img.cover
        let mine := rowsOf w.k img.rows img.heaps
        let inc := rowsOf w.k ((b.drop 64).take 10240) (b.drop 10304)
        let ilo := (b.getD 4 0).toNat
        let ihi := (b.getD 5 0).toNat
        let first := ihi + 1 == w.shlo
        let rows := (mine.zip inc).map (fun (p : VRow × VRow) =>
          if first then mergeRow w p.1 p.2 p.1 else mergeRow w p.1 p.1 p.2)
        s.putImage t.id gr w (if first then ilo else lo) (if first then hi else ihi)
          (Label.max sl o.lbl) rows).opDone o 0
  | _, _ => s

/-- The heaps that an issued stream operation reads and writes. -/
def ArrKind.heaps : ArrKind → Option (SWord × Bool × Bool)
  | .vinit w _ => some (w, false, true)
  | .vfold w _ => some (w, true, true)
  | .vmerge w _ => some (w, true, true)
  | _ => none

/-- An operation waits for translations of its heaps: the pages to ask for, and whether it writes them (18 R408). -/
def State.heapWaits (s : State) (gr : Grid) (k : ArrKind) : Option (List (Nat × Nat) × Bool) :=
  match k.heaps with
  | some (w, rd, wr) =>
    if s.isRevoked gr.spill then none
    else match s.heapReach gr w rd wr with | .wait asks => some (asks, wr) | _ => none
  | none => none

/-- The pages that the stream operations of a function wait for. -/
def State.heapPages (s : State) (fn : Nat) : List (Nat × Nat) :=
  s.arrops.flatMap (fun p =>
    match (s.team? p.2.team).bind (fun t => s.grid? t.grid), p.2.kind.heaps with
    | some gr, some (w, _, _) =>
      if p.2.done || !w.hosted gr || s.fnOfGrid gr != fn then []
      else
        match s.pasidOf fn gr.spill.col with
        | some q => (hostPages (spillAt gr w).toNat (1280 * w.k)).map (fun x => (q, iovaOf x / 4096))
        | none => []
    | _, _ => [])

/-- A refused page has been reported by the operation that waited for it. -/
def State.heapTaken (s : State) (gr : Grid) (k : ArrKind) : State :=
  match k.heaps with
  | some (w, _, _) =>
    if w.hosted gr then
      s.takeRange (s.fnOfGrid gr) (s.pasidOf (s.fnOfGrid gr) gr.spill.col) (spillAt gr w).toNat (1280 * w.k)
    else s
  | none => s

/-- ARRAY_OPERATION_EXECUTE (09 R194): the array executes an issued operation whose turn has come; one whose heaps lie in the host
window waits for their translations. -/
def execArrayOperationExecute (oid : Nat) (s : State) : Host.Outcome State Fault Refusal :=
  match mfind s.arrops oid with
  | none => .next s
  | some o =>
    match s.team? o.team with
    | none => .next s
    | some t =>
      match s.grid? t.grid with
      | none => .next s
      | some gr =>
        if o.done || !t.onCore || !s.opReady gr o then .next s
        else
          match s.heapWaits gr o.kind, o.kind with
          | some (asks, wr), _ => .next (s.askAll (s.fnOfGrid gr) asks wr)
          | none, .vinit _ _ => .next ((s.runVocab t gr o).heapTaken gr o.kind)
          | none, .vfold _ _ => .next ((s.runVocab t gr o).heapTaken gr o.kind)
          | none, .vfoldBwd _ _ _ _ => .next (s.runVocab t gr o)
          | none, .vmerge _ _ => .next ((s.runVocab t gr o).heapTaken gr o.kind)
          | none, _ => .next (s.runMatrix t gr o)

end Sys2Proof.Machine
end

