-- ==== Sys2Proof/Machine/EngineRun.lean ====
section
/-! DEFINITION. Machine/EngineRun.lean: the life of an issued engine command (14 R304 to R308, R312 to R315, R320, R321):
its beginning, its ring and switch, its chunks, its completion; chunks that peers send under a KIND 5 token (17 R387). -/

namespace Sys2Proof.Machine

open Sys2Proof

/-- Write a command back. -/
def State.setCmd (s : State) (c : Cmd) : State := { s with cmds := mput s.cmds c.id c }

/-- End a command at its next boundary with a status and a code. -/
def State.endCmd (s : State) (c : Cmd) (status : Nat) (code : Byte) : State :=
  s.setCmd { c with state := .finishing status code }

/-- The session of a function is frozen: its contexts are its parties (18 R417). -/
def State.frozenFn (s : State) (fn : Nat) : Bool :=
  match mfind s.sessions (s.fn fn).session with
  | some x => x.state == .frozen && decide ((s.fn fn).session != 0)
  | none => false

/-- A team holds a compute-only tile register under a key colour that a test selects (18 R417). -/
def Team.holdsKey (t : Team) (p : Nat → Bool) : Bool :=
  t.cores.any (fun r => r.tiles.any (fun x => x.2.co && p x.2.keycol))

/-- A key-table entry belongs to an owner session that is frozen. -/
def State.frozenKey (s : State) (col : Nat) : Bool :=
  match mfind s.keys col with
  | some (.weight _ i) => (mfind s.sessions i).any (fun x => x.state == .frozen)
  | _ => false

/-- A team is a party of a frozen session (18 R417). -/
def State.frozenTeam (s : State) (fn team : Nat) : Bool :=
  s.frozenFn fn || (s.team? team).any (fun t => t.holdsKey s.frozenKey)

/-! ### Beginning (14 R306, R308, R312, R320) -/

/-- A command has begun and counts among the four in progress of its queue (14 R320); a collective that waits for its ring does not
hold the queue (R306). -/
def Cmd.begun (c : Cmd) : Bool :=
  match c.state with
  | .acquiring => true
  | .active => true
  | .switchWait => true
  | _ => false

/-- The commands in progress of one queue. -/
def State.inProgress (s : State) (c : Cmd) : Nat :=
  ((s.cmds.map (·.2)).filter (fun x => x.core == c.core && x.fn == c.fn && x.gather == c.gather && x.begun)).length

/-- Two commands have the key of one collective: its ring, as the set of its ranks, CID and step (14 R306). -/
def Cmd.sameCollective (a b : Cmd) : Bool :=
  decide (a.rcd.coll ≠ 0) && decide (b.rcd.coll ≠ 0) && a.rcd.ringRanks.all b.rcd.ringRanks.contains &&
  b.rcd.ringRanks.all a.rcd.ringRanks.contains && a.rcd.cid == b.rcd.cid && a.step == b.step

/-- Why the sync object of an engine's flag may not be accessed, with the address to report: the checks of 13 R271 steps 3 to 9 (00
R4; 17 R370; 18 R405), made when the flag is used (DEDUCED, log entry 124). -/
def State.flagFault (s : State) (k : TCap) : Option (Byte × Nat) :=
  ((syncChecks k k.tag (s.keyed k.col)).find? (·.2)).map (fun x => (x.1, k.addr))

/-- Why V cannot be read for the acquire flag: its object may not be accessed, or lies in an uncorrectable sector (14 R313). -/
def State.acquireFault (s : State) (c : Cmd) : Option (Byte × Nat) :=
  if c.rcd.acq.isNone then none
  else (s.flagFault c.rcd.synca).or ((s.badSec? c.rcd.synca.addr 8).map (fun sec => (cUNCORR, 32 * sec)))

/-- The command that the acquire flag leads to: its acquire waits, or it goes on (12 R263, 14 R312), or it ends. -/
def State.afterAcquire (s : State) (c : Cmd) : State :=
  match s.acquireFault c with
  | some x => s.setCmd { c with state := .finishing 3 x.1, faddr := x.2 }
  | none =>
  let go : Bool := match c.rcd.acq with
    | none => true
    | some _ => decide ((s.syncV c.rcd.synca.addr).toNat ≥ c.rcd.acqv.toNat)
  if !go then s.setCmd { c with state := .acquiring }
  else s.setCmd { c with state := if c.rcd.coll = 0 then .active else .ring }

/-- ENGINE_COMMAND_BEGIN (14 R309, R312): a command at its queue head begins; one decided DISCARDED ends. -/
def execEngineCommandBegin (cid : Nat) (s : State) : Host.Outcome State Fault Refusal :=
  match mfind s.cmds cid with
  | none => .next s
  | some c =>
    match c.state with
    | .queued =>
      let q := s.engQueue c.core c.fn c.gather
      let first := (q.filter (fun x => x.state == .queued)).head?.map (·.id) == some cid
      if !first || s.frozenTeam c.fn c.team then .next s
      else
        match c.decided with
        | none => .next s
        | some false => .next (s.endCmd c 1 0)
        | some true => if s.inProgress c ≥ 4 then .next s else .next (s.afterAcquire c)
    | .acquiring => .next (s.afterAcquire c)
    | _ => .next s

/-- COLLECTIVE_RING_FORM (14 R306, R308): every other rank has issued its command of the collective. -/
def execCollectiveRingForm (cid : Nat) (peers : List PeerPart) (s : State) : Host.Outcome State Fault Refusal :=
  match mfind s.cmds cid with
  | none => .next s
  | some c =>
    let others := (List.range c.ringSize).filter (fun p => p != c.ringPos)
    let earlier := s.cmds.any (fun p => decide (p.1 < cid) && !p.2.isDone && p.2.sameCollective c)
    let ports := match s.devgroup with
      | some dg => c.rcd.ringRanks.all (fun m => m == dg.own || s.portOk dg m)
      | none => true
    if c.state != .ring || earlier || !ports || s.inProgress c ≥ 4 || peers.length != others.length ||
        !others.all (fun p => peers.any (fun x => x.pos == p)) then .next s
    else if peers.any (fun x => !x.agrees) then .next (s.endCmd { c with peers := peers } 4 0)
    else if !c.rcd.sw then .next (s.setCmd { c with peers := peers, state := .active })
    else
      let held := match (s.ctx? c.ctx).bind (fun x => x.shape? c.handle.toNat) with
        | some r => r.swstate == 1
        | none => false
      if held then .next (s.setCmd { c with peers := peers, switched := true, state := .active })
      else
        .next ((s.modShape c.ctx c.handle.toNat (fun r => { r with swstate := 3 })).setCmd
          { c with peers := peers, state := .switchWait, asked := true })

/-- Forget a completed command that no `ewait` can cover any more and that no answer of the switch concerns. -/
def State.dropWaited (s : State) (id : Nat) : State :=
  match mfind s.cmds id with
  | some c => if c.waited && c.isDone && !c.asked then { s with cmds := mdel s.cmds id } else s
  | none => s

/-- Another command of the same record waits for the switch's answer. -/
def State.otherAsks (s : State) (c : Cmd) : Bool :=
  s.cmds.any (fun p => p.1 != c.id && p.2.asked && p.2.ctx == c.ctx && p.2.handle == c.handle)

/-- SWITCH_RESPONSE (14 R308, R319): the record holds a grant until it is released; a denial leaves one that it holds, and another
request outstanding. The command goes on if it still waits. -/
def execSwitchResponse (cid : Nat) (granted : Bool) (s : State) : Host.Outcome State Fault Refusal :=
  match mfind s.cmds cid with
  | none => .next s
  | some c =>
    if !c.asked then .next s
    else
      let other := s.otherAsks c
      let s1 := s.modShape c.ctx c.handle.toNat (fun r => { r with
        swstate := if granted ∨ r.swstate = 1 then 1 else if other then 3 else 2 })
      let c1 : Cmd := { c with asked := false }
      if c.state != .switchWait then .next ((s1.setCmd c1).dropWaited cid)
      else if granted then .next (s1.setCmd { c1 with switched := true, state := .active })
      else if c.rcd.fallback then .next (s1.setCmd { c1 with state := .active })
      else .next (s1.endCmd c1 2 0)

/-- SWITCH_FAILURE (14 R308): after the first chunk has left any rank. -/
def execSwitchFailure (cid : Nat) (s : State) : Host.Outcome State Fault Refusal :=
  match mfind s.cmds cid with
  | none => .next s
  | some c => if c.state == .active && c.switched then .next (s.endCmd c 3 cLINK) else .next s

/-- The member of the device group that delegated a KIND 5 token (17 R384). -/
def tokenMember (k : TCap) : Nat := k.addr / 2 ^ 28

/-- The members that a command exchanges data with. -/
def Cmd.members (c : Cmd) : List Nat :=
  (if c.rcd.coll = 0 then [] else c.rcd.ringRanks) ++
  (if c.rcd.src.kind = 5 then [tokenMember c.rcd.src] else []) ++
  (if c.rcd.dst.kind = 5 then [tokenMember c.rcd.dst] else [])

/-- LINK_LOST (14 R313): a member of the group becomes unreachable; commands under way with it end. -/
def execLinkLost (member : Nat) (s : State) : Host.Outcome State Fault Refusal :=
  match s.devgroup with
  | none => .next s
  | some dg =>
    if member ≥ dg.hashes.length ∨ member = dg.own ∨ dg.lost.contains member then .next s
    else
      let h (c : Cmd) : Cmd :=
        if (c.state == .active || c.state == .switchWait) && c.members.contains member then
          { c with state := .finishing 3 cLINK }
        else c
      .next { s with devgroup := some { dg with lost := dg.lost ++ [member] }, cmds := mmap h s.cmds }

/-! ### Comb (14 R305) -/

/-- Comb for a format and an operator, on element patterns. -/
def engComb (fmt red a b : Nat) : Nat × Flags :=
  if fmt = 4 then
    let x := intOf true 32 a
    let y := intOf true 32 b
    if red = 1 then (bitsOf 32 (x + y), 0) else if red = 2 then (bitsOf 32 (min x y), 0) else (bitsOf 32 (max x y), 0)
  else
    let F := if fmt = 1 then FP32 else if fmt = 2 then BF16 else FP16
    if red = 1 then
      let x := addFp false (F.value a) (F.value b)
      let z := roundToFormat x.1 F .rne true 0
      (z.1, x.2 ||| z.2)
    else (minmaxPat F (red == 3) false a b, 0)

/-- Red of one element: the contributions of the positions, the owner's first (14 R305). -/
def redOf (fmt red : Nat) (xs : List Nat) : Nat × Flags :=
  match xs with
  | [] => (0, 0)
  | x :: rest => rest.foldl (fun st y => let z := engComb fmt red st.1 y; (z.1, st.2 ||| z.2)) (x, 0)

/-! ### Reading and writing of one chunk (14 R313) -/

/-- Why a chunk does not go on. -/
inductive EngStop where
  | wait
  /-- It waits for a page: PASID, page, address. -/
  | page (pasid page addr : Nat)
  | fault (code : Byte) (addr : Nat)

/-- A read element: bytes, label, and KEYCOL of compute-only data. -/
structure EngRd where
  bytes : List Byte
  lbl : Label
  key : Option Nat

/-- Where an engine's window access leads: nowhere, to a team that is SAVED (14 R321), or to a target. -/
def State.engTgt (s : State) (w : Option (Nat × Nat)) (a : Nat) : Sum EngStop WinTgt :=
  match w.bind (fun p => (s.team? p.1).map (fun t => (t, p.2))) with
  | none => .inl (.fault cBOUND a)
  | some (t, m) =>
    match t.status with
    | .saved => .inl .wait
    | .retired => .inl (.fault cBOUND a)
    | _ =>
      match t.cores[m]?.bind (fun r => s.winIn t r true a) with
      | some x => .inr x
      | none => .inl (.fault cBOUND a)

/-- A target in a group block whose group is in a run. -/
def State.tgtBusy (s : State) (x : WinTgt) : Bool :=
  match x with
  | .grp team gid _ => (s.group? team gid).any (fun g => g.status == .running)
  | _ => false

/-- The destination element of a compute-only read is a tile register of the issuing team, in a plain `tx` (18 R402); `none` while that
team is SAVED, for which the chunk waits (14 R321). -/
def State.coPath (s : State) (c : Cmd) (dst : Int) : Option Bool :=
  if !c.gather && c.rcd.coll == 0 && c.rcd.red == 0 && c.rcd.dst.has pTILE && decide (0 ≤ dst) then
    match s.engTgt c.dstTeam dst.toNat with
    | .inr (.tile team _ _ _) => some (team == c.team)
    | .inl .wait => none
    | _ => some false
  else some false

/-- The state of the CO map that governs a read (18 R401). -/
def State.coRead (s : State) (a : Nat) : Sum Byte Nat :=
  match s.comap.find? (fun x => decide (x.base ≤ a) && decide (a < x.base + x.len)) with
  | none => .inl cCOCOPY
  | some x =>
    match x.state with
    | .busy => .inl cCOCOPY
    | .live => .inr x.keycol
    | .failed => .inl cUNCORR
    | .dead => .inl cSESSION

/-- The translation of a host-window address for a command: its host address, or why it stops. A page whose request failed while
the command waited for it is refused (18 R409). -/
def State.engTrans (s : State) (c : Cmd) (col a : Nat) (write : Bool) : State × Sum EngStop Nat :=
  match s.pasidOf c.fn col with
  | none => (s, .inl (.fault cHDENIED a))
  | some p =>
    let stop : EngStop :=
      if c.lost && c.page.any (fun x => x.1 == p && x.2.1 == iovaOf a / 4096) then .fault cHDENIED a
      else .page p (iovaOf a / 4096) a
    match s.transPasid c.fn p a write with
    | .ok h => (s, .inr h)
    | .denied => (s, .inl (.fault cHDENIED a))
    | .page => (s, .inl stop)
    | .ask q pg => (match stop with | .fault _ _ => s | _ => s.askAts c.fn q pg write false, .inl stop)

/-- Read one element of `n` bytes through a capability; `dst` is the address of the element it goes to. -/
def State.engRead (s : State) (c : Cmd) (k : TCap) (a n : Nat) (dst : Int) : State × Sum EngStop EngRd :=
  if isWin a then
    match s.engTgt c.srcTeam a with
    | .inl x => (s, .inl x)
    | .inr x =>
      match s.winFaultAt (some x) n false none with
      | some code => (s, .inl (.fault (if code = cCOREAD then cCOCOPY else code) (s.winFaddr (some x) a n code)))
      | none =>
        if s.tgtBusy x || s.winQueued x n || s.winAbsentAt (some x) n (some c.id) then (s, .inl .wait)
        else
          let g := s.winReadAt (some x) n
          (s, .inr ⟨g.bytes, g.lbl, none⟩)
  else if isHost a then
    match s.engTrans c k.col a false with
    | (s1, .inr h) =>
      if s1.hostLost h n then (s1, .inl (.fault cUNCORR ((a + s1.hostLostAt h n) / 32 * 32))) else (s1, .inr ⟨bytesAt s.hostMem h n, 0, none⟩)
    | (s1, .inl x) => (s1, .inl x)
  else if !isDev a then (s, .inl (.fault cBOUND a))
  else
    match s.badSec? a n with
    | some sec => (s, .inl (.fault cUNCORR (32 * sec)))
    | none =>
      if s.coAt a n then
        match s.coPath c dst, s.coRead a with
        | none, _ => (s, .inl .wait)
        | some false, _ => (s, .inl (.fault cCOCOPY a))
        | some true, .inl code => (s, .inl (.fault code (if code = cUNCORR then a / 32 * 32 else a)))
        | some true, .inr key => (s, .inr ⟨bytesAt s.mem a n, s.lblAt a n, some key⟩)
      else if s.grids.any (fun p => p.2.ovflMeets a n) then
        let (bs, s1) := s.drawBytes n
        (s1, .inr ⟨bs, s.lblAt a n, none⟩)
      else (s, .inr ⟨bytesAt s.mem a n, s.lblAt a n, none⟩)

/-- A team is being saved: what would write its cores waits until its restore (14 R321). -/
def State.savingTeam (s : State) (w : Option (Nat × Nat)) : Bool :=
  (w.bind (fun p => s.team? p.1)).any (fun t => t.status == .saving)

/-- Whether one element of `n` bytes can be written. -/
def State.engCanWrite (s : State) (c : Cmd) (a n : Nat) (key : Option Nat) : State × Option EngStop :=
  if isWin a then
    match s.engTgt c.dstTeam a with
    | .inl x => (s, some x)
    | .inr x =>
      if s.savingTeam c.dstTeam then (s, some .wait)
      else
        match s.winFaultAt (some x) n true key with
        | some code => (s, some (.fault code (s.winFaddr (some x) a n code)))
        | none =>
          (s, if s.tgtBusy x || s.winQueued x n || s.winAbsentAt (some x) n (some c.id) then some .wait else none)
  else if isHost a then
    match s.engTrans c c.rcd.dst.col a true with
    | (s1, .inr _) => (s1, none)
    | (s1, .inl x) => (s1, some x)
  else if !isDev a then (s, some (.fault cBOUND a))
  else if s.coAt a n then (s, some (.fault cCOSTORE a))
  else (s, none)

/-- Write one element; a packet to another die joins the engine's device set (12 R259). -/
def State.engWrite (s : State) (c : Cmd) (a : Nat) (bs : List Byte) (l : Label) (key : Option Nat) : State :=
  if isWin a then
    match s.engTgt c.dstTeam a with
    | .inr x => (s.winWriteAt (some x) (fullMask bs) l none key).noteWin (.engine c.core) (s.dieOfCore c.core) a
    | .inl _ => s
  else if isHost a then
    match s.translate c.fn c.rcd.dst.col a true with
    | .ok h => s.putHost h bs
    | _ => s
  else
    let s1 := (s.pointWrite a (fullMask bs) l false).softTouch a bs.length
    if s.homeDie a = s.dieOfCore c.core then s1 else s1.noteSent (.engine c.core) (s.homeDie a)

/-! ### The elements of a chunk -/

/-- Elements of the whole command at this rank: those of one shard, or of every shard of the ring. -/
def Cmd.total (c : Cmd) : Nat := if c.rcd.coll = 0 then c.rcd.elems else c.ringSize * c.rcd.elems

/-- The end of the chunk that begins at the command's position (14 R307). -/
def Cmd.chunkEnd (c : Cmd) : Nat :=
  let n := c.rcd.elems
  min (c.pos + 4096 / c.rcd.esize) ((c.pos / n + 1) * n)

/-- One element of a chunk: its position, the address it is read at on this device, the address it is written at. -/
structure EngElem where
  pos : Nat
  src : Option Int
  dst : Option Int

/-- The elements of the next chunk (14 R302, R304, R314). -/
def Cmd.chunkElems (c : Cmd) (idx : Nat → Int) : List EngElem :=
  let r := c.rcd
  let n := r.elems
  let st := c.step.toNat
  (List.range (c.chunkEnd - c.pos)).map (fun i =>
    let p := c.pos + i
    let q := p / n
    let j := p % n
    let o : Int := (q : Int) * r.shs
    match r.coll with
    | 0 => ⟨p, some (r.addr true st 0 (if c.gather then some idx else none) j), some (r.addr false st 0 none j)⟩
    | 1 => ⟨p, if q = c.ringPos then some (r.addr true st 0 none j) else none, some (r.addr false st o none j)⟩
    | 2 => ⟨p, some (r.addr true st o none j), if q = c.ringPos then some (r.addr false st 0 none j) else none⟩
    | _ => ⟨p, some (r.addr true st o none j), some (r.addr false st o none j)⟩)

/-- The index words of a gather by row: those read so far, else what the index holds now (14 R314). -/
def State.idxRows (s : State) (c : Cmd) : Nat → Int :=
  let x1 := (c.rcd.dims.head?.map (·.extent)).getD 1
  fun i =>
    match c.rows.find? (fun p => p.1 == i) with
    | some p => p.2
    | none =>
      let a := c.rcd.idx.addr + 4 * (c.step.toNat * x1 + i)
      if isHost a then
        match s.translate c.fn c.rcd.idx.col a false with
        | .ok h => intOf true 32 (natOfBytes (bytesAt s.hostMem h 4))
        | _ => 0
      else intOf true 32 (natOfBytes (bytesAt s.mem a 4))

/-- Every range that a command reads on this device, as (address, bytes): its elements, and the index words of a gather. -/
def Cmd.reads (c : Cmd) (idx : Nat → Int) : List (Int × Nat) :=
  let r := c.rcd
  let x1 := (r.dims.head?.map (·.extent)).getD 1
  (r.offsets true).flatMap (fun o =>
    (List.range r.elems).map (fun j => (r.addr true c.step.toNat o (if c.gather then some idx else none) j, r.esize))) ++
  (if c.gather then (List.range x1).map (fun (i : Nat) => (((r.idx.addr + 4 * (c.step.toNat * x1 + i) : Nat) : Int), 4)) else [])

/-- The addresses rise, each by at least the element size. -/
def risingBy (es : Int) : List Int → Bool
  | a :: b :: rest => decide (a + es ≤ b) && risingBy es (b :: rest)
  | _ => true

/-- The bytes of an element that have no defined value (14 R302): some other element writes them, or the command reads
them too. -/
def Cmd.undefBytes (es : Nat) (ws : List (Nat × Int)) (rs : List (Int × Nat)) (x : EngElem) : List Bool :=
  (List.range es).map (fun b =>
    match x.dst with
    | none => false
    | some d =>
      let a : Int := d + (b : Nat)
      ws.any (fun w => w.1 != x.pos && decide (w.2 ≤ a) && decide (a < w.2 + (es : Nat))) ||
      rs.any (fun r => decide (r.1 ≤ a) && decide (a < r.1 + (r.2 : Nat))))

/-- The command has no byte without a defined value: a quick test that many commands pass. -/
def Cmd.plainBytes (es : Nat) (ws : List (Nat × Int)) (rs : List (Int × Nat)) : Bool :=
  let lo (l : List Int) : Int := l.foldl min (l.headD 0)
  let hi (l : List Int) : Int := l.foldl max (l.headD 0)
  let w := ws.map (·.2)
  risingBy (es : Nat) w && (w.isEmpty || rs.isEmpty || decide (hi w + (es : Nat) ≤ lo (rs.map (·.1))) ||
    decide (hi (rs.map (fun r => r.1 + (r.2 : Nat))) ≤ lo w))

/-- Read the elements of a chunk, as far as nothing stops it. -/
def State.readChunk (c : Cmd) : State → List EngElem → List (EngElem × Option EngRd) →
    State × Sum EngStop (List (EngElem × Option EngRd))
  | s, [], acc => (s, .inr acc.reverse)
  | s, x :: xs, acc =>
    match x.src with
    | none => State.readChunk c s xs ((x, none) :: acc)
    | some a =>
      match s.engRead c c.rcd.src a.toNat c.rcd.esize (x.dst.getD (-1)) with
      | (s1, .inl e) => (s1, .inl e)
      | (s1, .inr g) => State.readChunk c s1 xs ((x, some g) :: acc)

/-- Check the writes of a chunk. -/
def State.checkWrites (c : Cmd) : State → List (Int × Option Nat) → State × Option EngStop
  | s, [] => (s, none)
  | s, (a, k) :: xs =>
    match s.engCanWrite c a.toNat c.rcd.esize k with
    | (s1, some e) => (s1, some e)
    | (s1, none) => State.checkWrites c s1 xs

/-- What the other positions send for an element (14 R304): in ring order after the owner for a reduction, the owner's
for an all-gather. -/
def Cmd.peerVal (c : Cmd) (pos shard j : Nat) : Nat :=
  match c.peers.find? (fun p => p.pos == pos) with
  | none => 0
  | some p =>
    let bs := p.shards.getD (if c.rcd.coll = 1 then 0 else shard) []
    natOfBytes ((bs.drop (j * c.rcd.esize)).take c.rcd.esize)

/-- The value that a chunk writes for an element, with flags; `d` is the destination's old value (14 R304, R305). -/
def Cmd.result (c : Cmd) (x : EngElem) (own d : Nat) : Nat × Flags :=
  let n := c.rcd.elems
  let q := x.pos / n
  let j := x.pos % n
  match c.rcd.coll with
  | 0 => if c.rcd.red = 0 then (own, 0) else engComb c.rcd.fmt c.rcd.red d own
  | 1 => (if q = c.ringPos then own else c.peerVal q q j, 0)
  | _ =>
    redOf c.rcd.fmt c.rcd.red ((List.range c.ringSize).map (fun i =>
      let p := (q + i) % c.ringSize
      if p = c.ringPos then own else c.peerVal p q j))

/-- An element that a chunk copies: its source and destination, its bytes, and whether every byte of it has a defined value. -/
structure Moved where
  src : Int
  dst : Int
  bytes : List Byte
  sure : Bool

/-- The tag that a destination granule keeps (17 R371, R390): its sixteen bytes all come, at their own places, from one aligned
source granule that holds a tagged capability, in whatever order the elements are taken. -/
def State.keptTag (s : State) (c : Cmd) (xs : List Moved) (g : Int) : Option (Nat × List Byte) :=
  let es := c.rcd.esize
  let ms := (List.range (16 / es)).filterMap (fun j => xs.find? (fun x => x.dst == g + ((j * es : Nat) : Int)))
  match ms with
  | m :: _ =>
    let bs := ms.flatMap (·.bytes)
    let k : TCap := ⟨BitVec.ofNat 128 (natOfBytes bs), true⟩
    if ms.length = 16 / es ∧ ms.all (fun x => x.sure && x.dst - x.src == m.dst - m.src) ∧ m.src % 16 = 0 ∧
        0 ≤ m.src ∧ isDev m.src.toNat ∧ isDev g.toNat ∧ s.tagAt m.src.toNat ∧ k.has pGLOBAL ∧ !s.isRevoked k then
      some (g.toNat, bs)
    else none
  | [] => none

/-- Every granule of a chunk that keeps its tag. -/
def State.keptTags (s : State) (c : Cmd) (xs : List Moved) : List (Nat × List Byte) :=
  let r := c.rcd
  if r.coll != 0 || r.red != 0 || r.src.kind != 0 || r.dst.kind != 0 || !r.src.has pLDCAP || !r.dst.has pSTCAP then []
  else (((xs.filter (fun x => decide (0 ≤ x.dst) && x.dst % 16 == 0)).map (·.dst)).eraseDups).filterMap (s.keptTag c xs)

/-- A command is no longer awaited by the given tarn lines, or by any line at all. -/
def State.freeLines (s : State) (id : Nat) (keep : Option (List (Nat × Nat × Nat))) : State :=
  let line (team core : Nat) (p : Nat × TLine) : Nat × TLine :=
    if (keep.getD []).contains (team, core, p.1) then p else (p.1, { p.2 with awaits := p.2.awaits.filter (fun x => x != id) })
  let core (team : Nat) (r : CoreRes) : CoreRes :=
    if r.tline.any (fun p => p.2.awaits.contains id) then
      { r with tline := (r.tline.map (line team r.core)).foldl (fun m p => mset TLine.clear m p.1 p.2) [] }
    else r
  { s with teams := mmap (fun t => { t with cores := t.cores.map (core t.id) }) s.teams }

/-- The tarn lines of a command's own target that element writes touch. -/
def State.cmdLines (s : State) (c : Cmd) (as : List Int) : List (Nat × Nat × Nat) :=
  (as.flatMap (fun (a : Int) =>
    match (if 0 ≤ a ∧ isTarnWin a.toNat then s.engTgt c.dstTeam a.toNat else .inl .wait) with
    | .inr (.tarn team core o) => (tarnLines o c.rcd.esize).map (fun l => (team, core, l))
    | _ => [])).eraseDups

/-- A message leaves for a member of the device group (18 R415); `none` when its port carries no group traffic, or when the
direction's counter is exhausted. -/
def State.sendTo (s : State) (member : Nat) : Option State :=
  match s.devgroup with
  | none => some s
  | some dg =>
    let n := mget 1 dg.sendCtr member
    if n ≥ 2 ^ 64 ∨ !s.portOk dg member then none
    else some { s with devgroup := some { dg with sendCtr := mput dg.sendCtr member (n + 1) } }

/-- The members to which a chunk goes: those of KIND 5 tokens, and the ring's successor. -/
def Cmd.chunkTo (c : Cmd) : List Nat :=
  (if c.rcd.src.kind = 5 then [tokenMember c.rcd.src] else []) ++
  (if c.rcd.dst.kind = 5 then [tokenMember c.rcd.dst] else []) ++
  (if c.rcd.coll ≠ 0 ∧ c.ringSize > 1 ∧ !c.switched then [c.rcd.ringRanks.getD ((c.ringPos + 1) % c.ringSize) 0] else [])

/-- The codes with which a peer may refuse a chunk (17 R387, 18 R394, R405, R415). -/
def peerAnswers : List Byte :=
  [cTAG, cSEAL, cBOUND, cPERM, cLABEL, cCOCOPY, cUNCORR, cLINK, cCOLOUR, cCOSTORE, cHDENIED, cEARLY, cEARLYACC]

/-- The index words of the next chunk of a gather (14 R314), or why they cannot be read; and the largest label read. -/
def State.readIdx (s : State) (c : Cmd) : State × Sum EngStop (List (Nat × Int) × Label) :=
  let r := c.rcd
  let x1 := (r.dims.head?.map (·.extent)).getD 1
  let rows := ((List.range (c.chunkEnd - c.pos)).map (fun i => (c.pos + i) / r.x0 % x1)).eraseDups
  let go (st : State × Sum EngStop (List (Nat × Int) × Label)) (i1 : Nat) : State × Sum EngStop (List (Nat × Int) × Label) :=
    match st with
    | (s, .inl e) => (s, .inl e)
    | (s, .inr m) =>
      let a := r.idx.addr + 4 * (c.step.toNat * x1 + i1)
      match s.engRead { c with srcTeam := none } r.idx a 4 (-1) with
      | (s1, .inl e) => (s1, .inl e)
      | (s1, .inr g) => (s1, .inr (m.1 ++ [(i1, intOf true 32 (natOfBytes g.bytes))], Label.max m.2 g.lbl))
  rows.foldl go (s, .inr ([], 0))

/-- A gathered element address outside SRC, or out of TILE's reach (14 R313, R314). -/
def gatherFault (k : TCap) (es : Nat) (xs : List EngElem) : Option EngStop :=
  xs.findSome? (fun x =>
    match x.src with
    | none => none
    | some a =>
      if k.kind = 5 then none
      else if a < 0 ∨ !k.inBounds a.toNat es then some (.fault cBOUND (bitsOf 56 a))
      else if k.kind = 3 ∧ needsTile a ∧ !k.has pTILE then some (.fault cPERM a.toNat)
      else none)

/-- The revocation and key checks at the start of a chunk (14 R313; 17 R390, R391; 18 R405). -/
def State.chunkCaps (s : State) (c : Cmd) : Option EngStop :=
  let ks := [c.rcd.src, c.rcd.dst] ++ (if c.gather then [c.rcd.idx] else [])
  match ks.find? (fun k => !k.tag || s.isRevoked k) with
  | some k => some (.fault cTAG k.addr)
  | none => (ks.find? (fun k => k.kind != 5 && !s.keyed k.col)).map (fun k => .fault cCOLOUR k.addr)

/-- Stop a chunk: it waits, or the command ends with a fault. -/
def State.stopChunk (s : State) (c : Cmd) : EngStop → State
  | .wait => s
  | .page p pg a => s.setCmd { c with page := some (p, pg, a) }
  | .fault code a => s.setCmd { c with state := .finishing 3 code, faddr := a }

/-- The values that come from KIND 5 sources and the answer of a KIND 5 destination are not this device's: they are free
values (log entry 3). -/
def State.readRemote (s : State) (c : Cmd) (xs : List EngElem) : State × List (EngElem × Option EngRd) :=
  let (bs, s1) := s.drawBytes (xs.length * c.rcd.esize + 1)
  let l : Label := (bs.getD 0 0).extractLsb' 0 2
  (s1, xs.zipIdx.map (fun p => (p.1, some ⟨((bs.drop (1 + p.2 * c.rcd.esize)).take c.rcd.esize), l, none⟩)))

/-- The old values of the destinations of a local reduction (14 R304): read like any other data, each element's read able to stop
the chunk (R313). Those under a KIND 5 token lie on the peer (17 R387). -/
def State.readOld (s : State) (c : Cmd) (xs : List EngElem) : State × Sum EngStop (List (EngElem × Option EngRd)) :=
  if c.rcd.coll = 0 ∧ c.rcd.red ≠ 0 then
    if c.rcd.dst.kind = 5 then let (s1, olds) := s.readRemote c xs; (s1, .inr olds)
    else
    State.readChunk { c with srcTeam := c.dstTeam, rcd := { c.rcd with src := c.rcd.dst } } s
      (xs.map (fun x => { x with src := x.dst, dst := none })) []
  else (s, .inr [])

/-- The writes of a chunk whose checks have passed, and the progress of its command. -/
def State.finishChunk (s : State) (c : Cmd) (rd : List (EngElem × Option EngRd)) (olds : List (EngElem × Option EngRd))
    (l : Label) : State :=
  let es := c.rcd.esize
  let old (p : Nat) : Nat :=
    match olds.find? (fun x => x.1.pos == p) with
    | some (_, some g) => natOfBytes g.bytes
    | _ => 0
  let vals := rd.map (fun p =>
    let own := match p.2 with | some g => natOfBytes g.bytes | none => 0
    let z := c.result p.1 own (old p.1.pos)
    (p.1, bytesOfNat es z.1, p.2.bind (·.key), z.2))
  let fl := vals.foldl (fun (f : Flags) v => f ||| v.2.2.2) 0
  let rs := if c.rcd.src.kind = 5 then [] else c.reads (s.idxRows c)
  let ws := c.writes
  let plain := Cmd.plainBytes es ws rs || c.rcd.dst.kind == 5
  let undef (x : EngElem) : List Bool := if plain then [] else Cmd.undefBytes es ws rs x
  let kept := s.keptTags c (vals.filterMap (fun v =>
      match v.1.src, v.1.dst with | some a, some d => some ⟨a, d, v.2.1, !(undef v.1).any id⟩ | _, _ => none))
  let put (s : State) (v : EngElem × List Byte × Option Nat × Flags) : State :=
    match v.1.dst with
    | none => s
    | some d =>
      if c.rcd.dst.kind = 5 then s
      else if plain then s.engWrite c d.toNat v.2.1 l v.2.2.1
      else
        let (free, s1) := s.drawBytes es
        let bs := ((undef v.1).zip (v.2.1.zip free)).map (fun p => if p.1 then p.2.2 else p.2.1)
        s1.engWrite c d.toNat bs l v.2.2.1
  let s1 := vals.foldl put s
  let s2 := kept.foldl (fun s k => s.pointWrite k.1 (fullMask k.2) l true) s1
  let s2 := c.chunkTo.foldl (fun s m => s.noteSent (.engine c.core) (64 + m)) s2
  let written := rd.any (fun p => p.1.dst.isSome)
  let pos := c.chunkEnd
  let c1 : Cmd := { c with
    pos := pos, chunks := if written then c.chunks + 1 else c.chunks, flags := c.flags ||| fl,
    lbl := Label.max c.lbl l, page := none, lost := false, state := if pos ≥ c.total then .finishing 0 0 else .active }
  let s3 := s2.setCmd c1
  let rest := (ws.filter (fun w => decide (w.1 ≥ pos))).map (·.2)
  if s3.teams.any (fun t => t.2.cores.any (fun r => r.tline.any (fun p => p.2.awaits.contains c.id))) then
    s3.freeLines c.id (some (s3.cmdLines c rest))
  else s3

/-- The largest label of what a chunk read. -/
def readLbl (rd : List (EngElem × Option EngRd)) : Label :=
  rd.foldl (fun (l : Label) p => match p.2 with | some g => Label.max l g.lbl | none => l) 0

/-- The writes of a chunk to this device: their limits, their order with compute-only data, their targets. -/
def State.chunkWriteFault (s : State) (c : Cmd) (rd : List (EngElem × Option EngRd)) (l : Label) : State × Option EngStop :=
  let keys := rd.filterMap (fun p => p.2.map (·.key))
  let mixed : Option Byte :=
    if keys.any (·.isSome) && keys.any (·.isNone) then some cCOSTORE
    else if (keys.eraseDups).length > 1 then some cCOCOPY else none
  let ws := rd.filterMap (fun p => p.1.dst.map (fun d => (d, p.2.bind (·.key))))
  let lim : Option (Int × Option Nat) := ws.find? (fun w => decide (l.toNat > (lblLimit c.rcd.dst w.1.toNat)))
  match lim.map (fun w => EngStop.fault cLABEL w.1.toNat) <|> mixed.map (fun code => EngStop.fault code 0) with
  | some x => (s, some x)
  | none => State.checkWrites c s ws

/-- The data of a chunk have been read: its writes are checked and made. -/
def State.chunkWrite (s : State) (c : Cmd) (rd : List (EngElem × Option EngRd)) (l : Label) (sent : Option DevGroup) : State :=
  let remote := c.rcd.dst.kind = 5
  match (if remote then (s, none) else s.chunkWriteFault c rd l) with
  | (s1, some e) => s1.stopChunk c e
  | (s1, none) =>
    match s1.readOld c (rd.map (·.1)) with
    | (s2, .inl e) => s2.stopChunk c e
    | (s2, .inr olds) =>
      let (v, s3) := if remote ∨ c.rcd.src.kind = 5 then s2.drawD else (15, s2)
      match peerAnswers[v.toNat % 16]? with
      | some code => s3.stopChunk c (.fault code 0)
      | none =>
        ({ s3 with devgroup := sent }).finishChunk { c with lbl := Label.max c.lbl (readLbl olds) } rd olds l

/-- One chunk of an active command (14 R307, R313). -/
def State.chunk (s : State) (c : Cmd) : State :=
  let r := c.rcd
  match c.peers.findSome? (fun p => match p.fault with
      | some (k, code) => if c.chunks ≥ k then some code else none
      | none => none) with
  | some code => s.stopChunk c (.fault code 0)
  | none =>
    match s.chunkCaps c with
    | some e => s.stopChunk c e
    | none =>
      match (if c.gather then s.readIdx c else (s, .inr ([], 0))) with
      | (s1, .inl e) => s1.stopChunk c e
      | (s1, .inr (rows, li)) =>
        let idx (i : Nat) : Int := ((rows.find? (fun p => p.1 == i)).map (·.2)).getD 0
        let c : Cmd := { c with rows := c.rows.filter (fun p => !rows.any (fun q => q.1 == p.1)) ++ rows }
        let xs := c.chunkElems idx
        match (if c.gather then gatherFault r.src r.esize xs else none) with
        | some e => s1.stopChunk c e
        | none =>
          match (c.chunkTo.foldl (fun (o : Option State) m => o.bind (fun s => s.sendTo m)) (some s1)) with
          | none => s1.stopChunk c (.fault cLINK 0)
          | some sent =>
            let rdr : State × Sum EngStop (List (EngElem × Option EngRd)) :=
              if r.src.kind = 5 then (let (a, b) := s1.readRemote c xs; (a, .inr b)) else State.readChunk c s1 xs []
            match rdr with
            | (s2, .inl e) => s2.stopChunk c e
            | (s2, .inr rd) =>
              let l0 := readLbl rd
              let l := if r.coll = 0 then l0 else c.peers.foldl (fun l p => Label.max l p.label) l0
              s2.chunkWrite { c with lbl := Label.max c.lbl (Label.max l li) } rd l sent.devgroup

/-! ### The order of functions (16 R349) -/

/-- Visit functions from `f` on: the one served next, with the deficits. -/
def wdrrVisit (w : Nat → Nat) (ready : List Nat) : Nat → Nat → List (Nat × Nat) → Option (Nat × List (Nat × Nat))
  | 0, _, _ => none
  | fuel + 1, f, d =>
    let next := (f + 1) % 64
    if !ready.contains f then wdrrVisit w ready fuel next (mset 0 d f 0)
    else if w f = 0 then
      if ready.any (fun g => w g != 0) then wdrrVisit w ready fuel next d else some (f, mset 0 d f 1)
    else some (f, mset 0 d f (mget 0 d f + w f))

/-- The function that a server serves next among those with a ready unit, and the deficits as it does: the one it serves goes on
while its deficit lasts. -/
def State.wdrrPick (s : State) (t : Turn) (ready : List Nat) : Option (Nat × List (Nat × Nat)) :=
  if ready.isEmpty then none
  else if mget 0 t.deficit t.last ≥ 1 ∧ ready.contains t.last then some (t.last, t.deficit)
  else
    wdrrVisit (fun f => (s.fn f).weight) ready 129 ((t.last + 1) % 64)
      (if ready.contains t.last then t.deficit else mset 0 t.deficit t.last 0)

/-- The server of a command's chunks (14 R320): a collective belongs to the ring sequencer of its number modulo 18 (DESIGN CHOICE, log
entry 97). -/
def Cmd.server (c : Cmd) : Server := if c.rcd.coll ≠ 0 then .ring (c.id % 18) else if c.gather then .gxe c.core else .txe c.core

/-- The round of a server. -/
def State.turn (s : State) (v : Server) : Turn := ((s.turns.find? (fun p => p.1 == v)).map (·.2)).getD ⟨[], 63⟩

/-- Write the round of a server back. -/
def State.setTurn (s : State) (v : Server) (t : Turn) : State :=
  { s with turns := (v, t) :: s.turns.filter (fun p => p.1 != v) }

/-- A command has a chunk that can move now, or that ends it. -/
def State.chunkReady (s : State) (c : Cmd) : Bool :=
  c.state == .active && !s.frozenTeam c.fn c.team &&
    (match mfind (s.chunk c).cmds c.id with
      | some d => d.pos != c.pos || d.state != .active
      | none => true)

/-- ENGINE_CHUNK (14 R313, R320): a chunk that can move is served in its function's turn; one that waits asks for its pages. -/
def execEngineChunk (cid : Nat) (s : State) : Host.Outcome State Fault Refusal :=
  match mfind s.cmds cid with
  | none => .next s
  | some c =>
    if !(c.state == .active && !s.frozenTeam c.fn c.team) then .next s
    else if !s.chunkReady c then .next (s.chunk c)
    else
      let mine := (s.cmds.map (·.2)).filter (fun x => x.server == c.server && s.chunkReady x)
      match s.wdrrPick (s.turn c.server) ((List.range 64).filter (fun f => mine.any (fun x => x.fn == f))) with
      | some (f, d) =>
        if f = c.fn then .next ((s.chunk c).setTurn c.server ⟨mmod 0 d f (fun n => n - 1), f⟩) else .next s
      | none => .next s

/-! ### Completion (14 R315) -/

/-- The 16 bytes of a completion record. -/
def Cmd.record (c : Cmd) (status : Nat) (code : Byte) : List Byte :=
  [BitVec.ofNat 8 status, if status = 3 then code else 0, c.flags.setWidth 8 ||| (if c.switched then 0x80 else 0), 0] ++
  bytesOfNat 4 c.chunks ++ bytesOfNat 4 c.step.toNat ++ bytesOfNat 4 c.handle.toNat

/-- A command whose record is written, or cannot be, and whose release has performed, ends: its tarn lines, its status. -/
def State.endDone (s : State) (c : Cmd) (status : Nat) (code : Byte) : State :=
  ((s.freeLines c.id none).setCmd { c with state := .done status code, page := none, lost := false }).dropWaited c.id

/-- A command that was ending ends. DONE with a release flag, it releases first (12 R263, 14 R315): at once, or when the markers of
its engine's packets have been acknowledged (12 R259). -/
def State.closeCmd (s : State) (c : Cmd) (status : Nat) (code : Byte) : State :=
  match c.rcd.rel with
  | some (scope, op) =>
    if status ≠ 0 then s.endDone c status code
    else if (s.markersOf [.engine c.core] (scope == 7)).isEmpty then
      (s.releaseAt c.rcd.syncr.addr op c.rcd.relv).endDone c status code
    else (s.setCmd { c with state := .releasing false }).syncIssue c.team c.gid (.engine c.id) scope 0 [.engine c.core]
  | none => s.endDone c status code

/-- The write of the completion record (14 R315; 17 R390; 18 R405): whether it waits, fails with a code, or is made. -/
def State.writeRecord (s : State) (c : Cmd) (status : Nat) (code : Byte) : Sum (Option Byte) State :=
  let k := c.rcd.cmpl
  let a := k.addr + 16 * (c.step.toNat % 2 ^ c.rcd.clog2)
  if k.bits == 0 && !k.tag then .inr s
  else if !k.tag || s.isRevoked k then .inl (some cTAG)
  else if !s.keyed k.col then .inl (some cCOLOUR)
  else if isHost a then
    match s.engTrans c k.col a true with
    | (_, .inr h) => .inr (s.putHost h (c.record status code))
    | (_, .inl (.fault x _)) => .inl (some x)
    | _ => .inl none
  else
    let s1 := (s.pointWrite a (fullMask (c.record status code)) c.lbl false).softTouch a 16
    .inr (if s.homeDie a = s.dieOfCore c.core then s1 else s1.noteSent (.engine c.core) (s.homeDie a))

/-- How a command ends: one that was DONE ends FAULT where the sync object of its release flag may not be accessed (00 R4; DEDUCED, log
entry 124). -/
def State.ending (s : State) (c : Cmd) (status : Nat) (code : Byte) : Cmd × Nat × Byte :=
  match (if status = 0 ∧ c.rcd.rel.isSome then s.flagFault c.rcd.syncr else none) with
  | some x => ({ c with faddr := x.2 }, 3, x.1)
  | none => (c, status, code)

/-- ENGINE_COMMAND_COMPLETE (14 R315). -/
def execEngineCommandComplete (cid : Nat) (s : State) : Host.Outcome State Fault Refusal :=
  match mfind s.cmds cid with
  | none => .next s
  | some c0 =>
    match c0.state with
    | .finishing status0 code0 =>
      let (c, status, code) := s.ending c0 status0 code0
      match s.writeRecord c status code with
      | .inr s1 => .next (s1.closeCmd c status code)
      | .inl (some x) =>
        let a := c.rcd.cmpl.addr + 16 * (c.step.toNat % 2 ^ c.rcd.clog2)
        if status ≤ 1 then .next (s.closeCmd { c with faddr := a } 3 x) else .next (s.closeCmd c status code)
      | .inl none =>
        let a := c.rcd.cmpl.addr + 16 * (c.step.toNat % 2 ^ c.rcd.clog2)
        match s.engTrans c c.rcd.cmpl.col a true with
        | (s1, .inl (.page p pg b)) => .next (s1.setCmd { c with page := some (p, pg, b) })
        | _ => .next s
    | .releasing true => .next (s.endDone c0 0 0)
    | _ => .next s

/-- Commands of a team that terminates (14 R321): those that have not begun end DISCARDED, the others end FAULT at their
chunk boundary with the terminating code. -/
def State.endTeamCmds (s : State) (team : Nat) (code : Byte) : State :=
  { s with cmds := mmap (fun c =>
      if c.team = team then
        (match c.state with
          | .queued => { c with state := .finishing 1 0, decided := some false, waited := true }
          | .done _ _ => { c with waited := true }
          | .finishing _ _ => { c with waited := true }
          | .releasing _ => { c with waited := true }
          | _ => { c with state := .finishing 3 code, waited := true })
      else c) s.cmds }

/-! ### Chunks from peers (17 R387, 18 R394, R415) -/

/-- The entry of a live KIND 5 token of this device, and the slot's delegated capability. -/
def State.peerEntry (s : State) (k : TCap) : Option (TCap × Recipient × Nat) :=
  if k.kind = 5 ∧ k.otype = 62 then s.tokenEntry k else none

/-- A 16-byte image is a KIND 5 token that names this device as its member: none is accepted tagged (17 R387). -/
def ownToken (dg : DevGroup) (x : Nat) : Bool :=
  let k : TCap := ⟨BitVec.ofNat 128 x, true⟩
  k.kind == 5 && tokenMember k == dg.own

/-- The code with which the Axdal port refuses a chunk, none when it accepts it (17 R370, R387; 18 R405). -/
def State.peerRefusal (s : State) (dg : DevGroup) (m : GroupChunk) : Option Byte :=
  let k : TCap := ⟨m.token, true⟩
  match s.peerEntry k with
  | none => some cTAG
  | some (d, r, _) =>
    let n := m.data.length
    if r != .peer m.sender then some cSEAL
    else if (match outside d ((d.bounds.1) + (m.offset : Nat)) (d.bounds.1 + ((m.offset + n : Nat) : Int)) with
        | some _ => true | none => false) then some cBOUND
    else if !d.has (if m.write then pST else pLD) then some cPERM
    else if !d.tag || s.isRevoked d then some cTAG
    else if !s.keyed d.col then some cCOLOUR
    else if tokenMember k != dg.own then some cTAG
    else
      let a := (d.bounds.1 + (m.offset : Nat)).toNat
      if needsTile ((a + n - 1 : Nat) : Int) && !d.has pTILE then some cPERM
      else if m.write && m.tags.any (fun o => ownToken dg (natOfBytes ((m.data.drop o).take 16))) then some cTAG
      else if m.write && decide (m.label.toNat > lblLimit d a) then some cLABEL
      else if isWin a then s.winFault a n m.write none
      else if isHost a then none
      else if !m.write then (if s.coAt a n then some cCOCOPY else (s.badSec? a n).map (fun _ => cUNCORR))
      else if s.coAt a n then some cCOSTORE
      else none

/-- A chunk that the port accepts is performed; `none` while it must wait. A KIND 5 token that arrives tagged as an aligned granule
keeps its tag, through a destination that may hold tags (17 R371, R387). -/
def State.peerPerform (s : State) (d : TCap) (m : GroupChunk) (a : Nat) : Option State :=
  let n := m.data.length
  if isWin a then
    if s.winAbsent a n none || (s.winTgt a).any (s.winQueued · n) || (match s.winGroup a with
        | some (t, g) => (s.group? t g).any (fun g => g.status == .running)
        | none => false) then none
    else some (if m.write then s.winWrite a (fullMask m.data) m.label none none else s)
  else if isHost a then
    let fn := match s.ctx? d.col with | some c => c.fn | none => 0
    let ps := s.transParts fn d.col a n m.write
    if ps.any (fun p => match p.2.2 with | .ok _ => false | .denied => false | _ => true) then none
    else if !m.write then some s
    else some (ps.foldl (fun s p => match p.2.2 with
      | .ok h => s.putHost h ((m.data.drop (p.1 - a)).take p.2.1)
      | _ => s) s)
  else if !m.write then some s
  else
    let s1 := (s.pointWrite a (fullMask m.data) m.label false).softTouch a n
    some ((m.tags.filter (fun o => (a + o) % 16 == 0 && decide (o + 16 ≤ n))).foldl (fun s o =>
      let bs := (m.data.drop o).take 16
      let k : TCap := ⟨BitVec.ofNat 128 (natOfBytes bs), true⟩
      if k.kind = 5 ∧ d.has pSTCAP then s.pointWrite (a + o) (fullMask bs) m.label true else s) s1)

/-- A chunk that waits for a translation asks for it (18 R408). -/
def State.peerAsk (s : State) (d : TCap) (m : GroupChunk) (a : Nat) : State :=
  let fn := match s.ctx? d.col with | some c => c.fn | none => 0
  if !isHost a then s
  else (s.transParts fn d.col a m.data.length m.write).foldl (fun s p =>
    match p.2.2 with | .ask q pg => s.askAts fn q pg m.write false | _ => s) s

/-- GROUP_CHUNK_RECEIVE (18 R415; 17 R387): a chunk whose tag fails or whose counter does not rise is refused; one that
passes the checks of the token is performed. -/
def execGroupChunkReceive (m : GroupChunk) (s : State) : Host.Outcome State Fault Refusal :=
  match s.devgroup with
  | none => .next s
  | some dg =>
    if m.sender ≥ dg.hashes.length ∨ m.sender = dg.own ∨ !m.tagOk ∨ m.counter ≤ mget 0 dg.recvCtr m.sender ∨
        dg.lost.contains m.sender ∨ !s.portOk dg m.sender then .next s
    else
      let s1 := { s with devgroup := some { dg with recvCtr := mput dg.recvCtr m.sender m.counter } }
      match s1.peerRefusal dg m with
      | some _ => .next s1
      | none =>
        match s1.peerEntry ⟨m.token, true⟩ with
        | none => .next s1
        | some (d, _, _) =>
          match s1.peerPerform d m (d.bounds.1 + (m.offset : Nat)).toNat with
          | some s2 => .next s2
          | none => .next (s.peerAsk d m (d.bounds.1 + (m.offset : Nat)).toNat)

end Sys2Proof.Machine
end

