-- ==== Sys2Proof/Machine/Sched.lean ====
section
/-! DEFINITION. Machine/Sched.lean: the events that move groups and their accesses on between instructions: the grant of
a run (15 R336; 16 R353), aging, demotion, wakes (02 R43, R44; 16 R355), load returns, atomic requests, window accesses,
write-backs, dropped copies and flush markers. -/

namespace Sys2Proof.Machine

open Sys2Proof

/-! ### Time -/

/-- DEMOTION_EXPIRY (16 R358): DLEFT of a thread has reached 0. -/
def execDemotionExpiry (team gid thread : Nat) (s : State) : Host.Outcome State Fault Refusal :=
  .next (s.modGroup team gid (fun g => { g with threads := g.threads.zipIdx.map (fun p =>
    if p.2 = thread ∧ p.1.dleft = 0 then { p.1 with demoted := false } else p.1) }))

/-- The group of a team that is ADMITTED. -/
def State.liveGroup (s : State) (team gid : Nat) : Option Group :=
  match s.team? team with
  | some t => if t.status = .admitted ∧ t.term.isNone then s.group? team gid else none
  | none => none

/-- SLEEP_WAKE (16 R361). -/
def execSleepWake (team gid : Nat) (s : State) : Host.Outcome State Fault Refusal :=
  match s.liveGroup team gid with
  | some g =>
    match g.status, g.wait with
    | .waiting, .sleep wake => if wake ≤ s.clk then .next (s.setGroup (g.enter s.clk .ready .none)) else .next s
    | _, _ => .next s
  | none => .next s

/-- AGING (16 R353). -/
def execAging (team gid : Nat) (s : State) : Host.Outcome State Fault Refusal :=
  match s.liveGroup team gid with
  | some g =>
    if g.status = .ready ∧ g.readySince + 16384 ≤ s.clk then .next (s.setGroup { g with aged := true }) else .next s
  | none => .next s

/-! ### The choice of a subset (15 R336) -/

/-- Age of a subset. -/
def subsetAge (u : List (Thread × Nat)) : Nat := u.foldl (fun a p => max a p.1.since) 0

/-- Every thread of a subset is demoted. -/
def subsetDem (u : List (Thread × Nat)) : Bool := u.all (fun p => p.1.demoted)

/-- The mask of a subset. -/
def subsetMask (u : List (Thread × Nat)) : Mask := u.foldl (fun m p => m ||| (1#64 <<< p.2)) 0

/-- The subset with the lowest PC. -/
def lowestPc (pcs : List (BitVec 56)) : Option (BitVec 56) :=
  match pcs with
  | [] => none
  | p :: ps => some (ps.foldl (fun a b => if b.toNat < a.toNat then b else a) p)

/-- The subset that a grant runs (15 R336). -/
def Group.choose (g : Group) : Option Mask :=
  let pcs := g.pcs
  let age (p : BitVec 56) : Nat := subsetAge (g.subsetAt p)
  let top := pcs.foldl (fun a p => max a (age p)) 0
  let pc :=
    if top ≥ 192 then lowestPc (pcs.filter (fun p => age p == top))
    else
      match lowestPc (pcs.filter (fun p => !subsetDem (g.subsetAt p))) with
      | some p => some p
      | none => lowestPc pcs
  pc.map (fun p => subsetMask (g.subsetAt p))

/-- The threads of a mask that are eligible stand at one PC, none is missing. -/
def Group.together (g : Group) (m : Mask) : Bool :=
  let m' := m &&& g.live
  m' != 0 && (m' &&& ~~~(subsetMask g.eligible)) == 0 &&
    ((g.eligible.filter (fun p => m'.getLsbD p.2)).map (·.1.pc)).eraseDups.length == 1

/-- The run that a grant gives: the one that stopped goes on (02 R44, 19 R430), else that of the subset chosen. The subset at a
breakpoint that stopped the group passes it once (16 R363). -/
def Group.nextRun (g : Group) : Option Run :=
  let skips (m : Mask) : Bool := g.skipAt.any (fun b => g.subsetAt b != [] && subsetMask (g.subsetAt b) == m)
  if g.run.resumed && g.together g.run.subset then
    let m := g.run.subset &&& g.live
    some { g.run with subset := m, skipBreak := g.run.skipBreak || skips m }
  else g.choose.map (fun m => { Run.idle with subset := m, skipBreak := skips m })

/-- A group begins a run; a run of another subset makes the spin detector watch nothing (16 R357), but for a debug step (R364).
The subset at the breakpoint that stopped the group takes its leave to pass it (R363). -/
def Group.begin (g : Group) (r : Run) : Group :=
  let sp := if g.frame.active || r.stepped || g.spin.subset == r.subset then g.spin else Spin.idle
  let at_ := g.skipAt.any (fun b => subsetMask (g.subsetAt b) &&& r.subset != 0)
  { g with status := .running, wait := .none, waitAt := none, stall := false, aged := false, run := r, spin := sp,
           skipAt := if at_ then none else g.skipAt }

/-! ### Run arbitration (16 R353) -/

/-- The context of a team's grid. -/
def State.colourOfTeam (s : State) (team : Nat) : Option Nat :=
  ((s.team? team).bind (fun t => s.grid? t.grid)).map (·.colour)

/-- A debug step of another group is in progress: runs of other groups do not take place (16 R364). -/
def State.stepHolds (s : State) (g : Group) : Bool :=
  s.groups.any (fun p => p.2.status == .running && p.2.run.stepped && (p.2.team != g.team || p.2.gid != g.gid))

/-- A window access that reaches the group's block is still to be performed: it comes before the group's next run (03 R64, 19
R424). -/
def State.winHolds (s : State) (g : Group) : Bool :=
  s.wins.any (fun p => s.winGroup p.2.addr == some (g.team, g.gid)) ||
    s.dbgReads.any (fun x => s.winGroup x.2.2.1 == some (g.team, g.gid))

/-- A group can be granted a run: READY, of an ADMITTED team that no frozen session stops (18 R417), with a subset, with no
window access to it accepted and no debug step in progress. -/
def State.grantable (s : State) (g : Group) : Bool :=
  g.status == .ready && (s.team? g.team).any (fun t => t.status == .admitted && t.term.isNone) &&
    !s.frozenTeam (s.fnOfTeam g.team) g.team && !g.pcs.isEmpty && !s.winHolds g && !s.stepHolds g

/-- The groups of a quadrant. -/
def State.onQuad (s : State) (core quad : Nat) : List Group :=
  (s.groups.map (·.2)).filter (fun g => g.core == core && g.quad == quad &&
    (s.team? g.team).any (fun t => t.status == .admitted || t.status == .saving))

/-- The priority of a group's grid. -/
def State.prioOf (s : State) (team : Nat) : Nat :=
  (((s.team? team).bind (fun t => s.grid? t.grid)).map (·.prio)).getD 0

/-- The first of a list by a strict order. -/
def firstBy {α : Type} (lt : α → α → Bool) : List α → Option α
  | [] => none
  | x :: xs => some (xs.foldl (fun a b => if lt b a then b else a) x)

/-- A group is aged (16 R353). -/
def State.isAged (s : State) (g : Group) : Bool := g.aged || decide (g.readySince + 16384 ≤ s.clk)

/-- The group that a quadrant grants: aged groups first, longest-waiting first; else the lowest level, round robin. -/
def State.arbitrate (s : State) (core quad : Nat) : Option Group :=
  let gs := (s.onQuad core quad).filter s.grantable
  let aged := gs.filter s.isAged
  let older (a b : Group) : Bool :=
    decide (a.readySince < b.readySince) || (a.readySince == b.readySince && decide (a.slot < b.slot))
  match firstBy older aged with
  | some g => some g
  | none =>
    let lv (g : Group) : Nat := g.level (s.prioOf g.team)
    match gs with
    | [] => none
    | g0 :: rest =>
      let low := rest.foldl (fun n g => min n (lv g)) (lv g0)
      let last := mget 0 s.rrobin (rrKey core quad low)
      let dist (g : Group) : Nat := (g.slot + 15 - last) % 16
      firstBy (fun a b => decide (dist a < dist b)) (gs.filter (fun g => lv g == low))

/-- Grant a run to a group: it becomes the one last granted at its level. -/
def State.grantRun (s : State) (g : Group) : State :=
  match g.nextRun with
  | none => s
  | some r =>
    { s.setGroup (g.begin r) with
      rrobin := mset 0 s.rrobin (rrKey g.core g.quad (g.level (s.prioOf g.team))) g.slot }

/-- RUN_GRANT (16 R353): a quadrant with no run in progress grants one. -/
def execRunGrant (core quad : Nat) (s : State) : Host.Outcome State Fault Refusal :=
  if (s.onQuad core quad).any (fun g => g.status == .running) then .next s
  else
    match s.arbitrate core quad with
    | some g => .next (s.grantRun g)
    | none => .next s

/-! ### Wakes (02 R43; 16 R355) -/

/-- A group goes back to the instruction it waits at (13 R274, 14 R316). -/
def Group.backTo (g : Group) (w : WaitAt) : Group :=
  { g with
    threads := (g.threads.zip w.threads).map (fun p =>
      { p.1 with pc := p.2.pc, held := p.2.held, since := p.2.since })
    run := w.run }

/-- A wait ends in a fault, taken at the waiting instruction. -/
def State.wakeFault (s : State) (g : Group) (t : Team) (gr : Grid) (c : Ctx) (x : Exc) : State :=
  match g.waitAt with
  | some w => takeFault s (g.backTo w) t gr c w.word x
  | none => s

/-- A wait has ended: the group is READY. -/
def State.ready (s : State) (team gid : Nat) : State :=
  s.modGroup team gid (fun g => g.enter s.clk .ready .none)

/-- The lines that a PARKED group waits for are present (13 R281). -/
def Team.linesPresent (t : Team) (ls : List (Nat × Nat)) : Bool :=
  ls.all (fun p => match t.core? p.1 with | some r => !r.absent p.2 | none => true)

/-- The end of a wait whose condition holds. -/
def State.wake (s : State) (g : Group) (t : Team) (gr : Grid) (c : Ctx) : State :=
  match g.status, g.wait with
  | .waiting, .qwait m =>
    if !g.qwaitReady m then s
    else
      match g.qwaitFault m with
      | some d =>
        let g' := if d.2.2.1 = cHPAGE then g else g.dropFailing d.1.iseq
        s.wakeFault g' t gr c (qwaitExc d)
      | none => (s.setGroup (g.qwaitDone m s.now)).ready g.team g.gid
  | .waiting, .mwait m =>
    if !s.mwaitReady t m then s
    else
      match t.mwaitFault m with
      | some x => (s.clearErr t.id x.1).wakeFault g t gr c { code := x.2.1, faddr := x.2.2 }
      | none => (s.mwaitDone t g.gid m).ready g.team g.gid
  | .waiting, .ewait n =>
    let cs := s.ewaited g.team g.gid n
    if !cs.all (·.isDone) then s
    else
      match ewaitFault cs with
      | some x => (s.markReported x.1.id).wakeFault g t gr c (ewaitExc x)
      | none => (s.ewaitDone g.team g.gid cs).ready g.team g.gid
  | .waiting, .acqGe e scope thr =>
    let b := mget Binding.empty t.binds e
    if !b.sync.tag then s
    else
      match s.vFault b.sync.addr with
      | some x => s.wakeFault g t gr c x
      | none =>
        if (s.syncV b.sync.addr).toNat ≥ thr.toNat then (s.acquired t.id b.sync.addr scope).ready g.team g.gid else s
  | .waiting, .dredge n => if s.dredge.completed ≥ n then s.ready g.team g.gid else s
  | .waiting, .hold ns => if s.held t.id ns then s else s.ready g.team g.gid
  | .parked, .park ls => if t.linesPresent ls then s.ready g.team g.gid else s
  | .waiting, .sleep wake => if wake ≤ s.clk then s.ready g.team g.gid else s
  | _, _ => s

/-- GROUP_WAKE (02 R43; 16 R355); synchronisation operations under way go on too (12 R255). -/
def execGroupWake (team gid : Nat) (s : State) : Host.Outcome State Fault Refusal :=
  match s.liveGroup team gid, s.team? team with
  | some g, some t =>
    match s.grid? t.grid with
    | some gr =>
      match s.ctx? gr.colour with
      | some c => .next (s.wake g t gr c).syncSweep
      | none => .next s
    | none => .next s
  | _, _ => .next s.syncSweep

/-! ### Accesses under way -/

/-- LOAD_RETURN (13 R273); a release or fence that waited for it goes on (12 R255, R258). -/
def execLoadReturn (team gid iseq thread : Nat) (s : State) : Host.Outcome State Fault Refusal :=
  .next (s.loadReturn team gid iseq thread).syncSweep

/-- A request comes first at its engine among those of its group to the same lines (00 R2). -/
def State.atomFirst (s : State) (r : AtomReq) : Bool :=
  s.atoms.all (fun p => decide (p.1 ≥ r.id) || p.2.team != r.team || p.2.gid != r.gid ||
    !r.elems.any (fun x => p.2.meets x.addr r.width))

/-- The functions of which an atomic engine holds a request that it can take. -/
def State.atomFns (s : State) (cluster : Nat) : List Nat :=
  (List.range 64).filter (fun f => s.atoms.any (fun p => p.2.cluster == cluster && s.atomFirst p.2 && s.fnOfTeam p.2.team == f))

/-- ATOMIC_REQUEST (13 R283; 16 R349): an atomic engine serves one request of the function whose turn it is. -/
def execAtomicRequest (rid : Nat) (s : State) : Host.Outcome State Fault Refusal :=
  match mfind s.atoms rid with
  | some r =>
    let fn := s.fnOfTeam r.team
    let v : Server := .atomic r.cluster
    match s.wdrrPick (s.turn v) (s.atomFns r.cluster) with
    | some (f, d) =>
      if f = fn ∧ s.atomFirst r then .next ((s.applyAtom r).setTurn v ⟨mmod 0 d f (fun n => n - 1), f⟩).syncSweep else .next s
    | none => .next s
  | none => .next s

/-- WINDOW_ACCESS (03 R64). -/
def execWindowAccess (wid : Nat) (s : State) : Host.Outcome State Fault Refusal :=
  match mfind s.wins wid with
  | some w => if s.winReady w then .next (s.winPerform w).syncSweep else .next s
  | none => .next s

/-- DIRTY_WRITEBACK (12 R249). -/
def execDirtyWriteback (c : CacheId) (line colour : Nat) (s : State) : Host.Outcome State Fault Refusal :=
  .next (s.writeBack c line colour)

/-- COPY_DROP (12 R249): a copy without dirty bits. -/
def execCopyDrop (c : CacheId) (line colour : Nat) (s : State) : Host.Outcome State Fault Refusal :=
  match s.copy? c line colour with
  | some k => if k.isDirty then .next s else .next (s.dropCopy c line colour)
  | none => .next s

/-- FLUSH_MARKER_ARRIVAL (12 R259). -/
def execFlushMarkerArrival (op die path : Nat) (s : State) : Host.Outcome State Fault Refusal :=
  .next (s.markerArrives op die path)

end Sys2Proof.Machine
end

