-- ==== Sys2Proof/Machine/Place.lean ====
section
/-! DEFINITION. Machine/Place.lean: the capacity of a core (02 R39), the placement of teams and gangs (02 R29, R41; 16
R351), the initial state of a team and its groups (02 R37, R38), and the termination of teams and grids (02 R48). -/

namespace Sys2Proof.Machine

open Sys2Proof

/-! ### Needs and capacities (02 R39) -/

/-- What is used of a core, or what one team needs of it; groups and vector-register bytes by quadrant. -/
structure Need where
  teams : Nat
  groups : List Nat
  regs : List Nat
  tarn : Nat
  tiles : Nat
  accs : Nat
  mscr : Nat
  guards : Nat
  bars : Nat
  binds : Nat
  deriving DecidableEq, Repr

/-- Nothing. -/
def Need.zero : Need := ⟨0, [0, 0, 0, 0], [0, 0, 0, 0], 0, 0, 0, 0, 0, 0, 0⟩

/-- Two needs together. -/
def Need.plus (a b : Need) : Need :=
  ⟨a.teams + b.teams, (a.groups.zip b.groups).map (fun p => p.1 + p.2), (a.regs.zip b.regs).map (fun p => p.1 + p.2),
    a.tarn + b.tarn, a.tiles + b.tiles, a.accs + b.accs, a.mscr + b.mscr, a.guards + b.guards, a.bars + b.bars,
    a.binds + b.binds⟩

/-- The capacities of a core. -/
def Need.within (a : Need) : Bool :=
  decide (a.teams ≤ 8) && a.groups.all (fun n => decide (n ≤ 16)) && a.regs.all (fun n => decide (n ≤ 262144)) &&
  decide (a.tarn ≤ 128) && decide (a.tiles ≤ 8) && decide (a.accs ≤ 16) && decide (a.mscr ≤ 16) &&
  decide (a.guards ≤ 128) && decide (a.bars ≤ 128) && decide (a.binds ≤ 128)

/-- The member of the pair on which a group lives (02 R29). -/
def Grid.memberOf (gr : Grid) (gid : Nat) : Nat := if gr.pair && decide (gid % 8 ≥ 4) then 1 else 0

/-- The groups of a team on a quadrant of a member (02 R29). -/
def Grid.gidsOn (gr : Grid) (member quad : Nat) : List Nat :=
  (List.range gr.ngroups).filter (fun g => g % 4 == quad && gr.memberOf g == member)

/-- The need of one team on a member core. -/
def Grid.need (gr : Grid) (member : Nat) : Need :=
  let gs := [0, 1, 2, 3].map (fun q => (gr.gidsOn member q).length)
  let lead := member == 0
  ⟨1, gs, gs.map (fun n => n * gr.width * gr.vregs * 4), gr.tarn, gr.tiles, gr.accs, gr.mscr,
    if lead then gr.guards else 0, if lead then gr.bars else 0, if lead then gr.binds else 0⟩

/-- A team holds its resources. -/
def Team.resident (t : Team) : Bool := t.status == .admitted || t.status == .saving || t.status == .draining

/-- The need of a list of cores on one of them. -/
def Grid.needOn (gr : Grid) (seat : List Nat) (core : Nat) : Need :=
  seat.zipIdx.foldl (fun n p => if p.1 = core then n.plus (gr.need p.2) else n) Need.zero

/-- What the resident teams use of a core, but for some. -/
def State.usage (s : State) (skip : List Nat) (core : Nat) : Need :=
  s.teams.foldl (fun n p =>
    if p.2.resident && !skip.contains p.1 then
      (match s.grid? p.2.grid with
        | some gr => n.plus (gr.needOn (p.2.cores.map (·.core)) core)
        | none => n)
    else n) Need.zero

/-- What the claims of other grids need of a core. -/
def State.claimed (s : State) (grid core : Nat) : Need :=
  s.claims.foldl (fun n c =>
    if c.grid = grid then n
    else
      match s.grid? c.grid with
      | some gr => c.place.foldl (fun n seat => n.plus (gr.needOn seat core)) n
      | none => n) Need.zero

/-- The victims of other grids' claims. -/
def State.claimVictims (s : State) (grid : Nat) : List Nat :=
  s.claims.flatMap (fun c => if c.grid = grid then [] else c.victims)

/-- A team of a grid fits a seat with the teams of `gone` away: now, and beside every other claim once its victims are
away (16 R352). -/
def State.seatFits (s : State) (gr : Grid) (gone : List Nat) (seat : List Nat) : Bool :=
  seat.all (fun core =>
    let n := gr.needOn seat core
    (n.plus (s.usage gone core)).within &&
      ((n.plus (s.usage (gone ++ s.claimVictims gr.id) core)).plus (s.claimed gr.id core)).within)

/-- A team of a grid fits an empty seat. -/
def Grid.emptyFits (gr : Grid) (seat : List Nat) : Bool := seat.all (fun core => (gr.needOn seat core).within)

/-! ### Placement (16 R351) -/

/-- The first core of a cluster (01 R14). -/
def State.clusterCore (s : State) (c : Nat) : Nat := c / s.cl * (s.cl * 12) + c % s.cl * 12

/-- The clusters of a partition in rising order. -/
def State.clusters (s : State) (c : Ctx) : List Nat :=
  (List.range (8 * s.cl)).filter (fun i => c.pmask.getLsbD i)

/-- The seats of a cluster in rising order of CoreIndex: cores, or pairs as leader and follower; retired pairs are not
used. -/
def State.seats (s : State) (c : Ctx) (pair : Bool) (cl : Nat) : List (List Nat) :=
  let ks := (List.range 6).filter (fun k => !c.retired.contains (6 * cl + k))
  let b := s.clusterCore cl
  if pair then ks.map (fun k => [b + 2 * k, b + 2 * k + 1]) else ks.flatMap (fun k => [[b + 2 * k], [b + 2 * k + 1]])

/-- The seats of one virtual cluster on a cluster. -/
def State.clusterPlace (s : State) (c : Ctx) (gr : Grid) (fits : List Nat → Bool) (cl : Nat) : Option (List (List Nat)) :=
  let xs := (s.seats c gr.pair cl).filter fits
  if xs.length ≥ gr.vcl then some (xs.take gr.vcl) else none

/-- Teams of one unit: a team, or a gang. -/
def Grid.unit (gr : Grid) : Nat := if gr.vcl = 0 then 1 else gr.vcl * gr.gang

/-- The seats of a unit in order of `kid`, where its needs fit. -/
def State.placeBy (s : State) (c : Ctx) (gr : Grid) (fits : List Nat → Bool) : Option (List (List Nat)) :=
  if gr.vcl = 0 then
    ((s.clusters c).findSome? (fun cl => (s.seats c gr.pair cl).find? fits)).map (fun x => [x])
  else
    let ps := (s.clusters c).filterMap (s.clusterPlace c gr fits)
    if ps.length ≥ gr.gang then some (ps.take gr.gang).flatten else none

/-! ### The initial state of a team (02 R37, R38) -/

/-- The lowest number below `n` that is not in a list. -/
def lowestFree (n : Nat) (used : List Nat) : Nat := ((List.range n).find? (fun i => !used.contains i)).getD 0

/-- The team slots taken on a core. -/
def State.slotsOn (s : State) (core : Nat) : List Nat :=
  s.teams.filterMap (fun p => if p.2.resident then (p.2.core? core).map (·.slot) else none)

/-- The group slots taken on a quadrant. -/
def State.groupSlots (s : State) (core quad : Nat) : List Nat :=
  s.groups.filterMap (fun p =>
    if p.2.core = core ∧ p.2.quad = quad ∧ ((s.team? p.2.team).map (·.resident)).getD false then some p.2.slot else none)

/-- A core as a team receives it. -/
def CoreRes.fresh (core slot : Nat) : CoreRes := ⟨core, slot, [], [], [], [], [], [], []⟩

/-- A thread as a group receives it. -/
def Thread.fresh (pc : Nat) : Thread := ⟨BitVec.ofNat 56 pc, meetSentinel, false, false, false, 0, 0⟩

/-- A group as its team receives it. -/
def Group.fresh (gr : Grid) (team gid core quad slot clk now : Nat) : Group :=
  { team := team, gid := gid, core := core, quad := quad, slot := slot
    status := .ready, stopCode := 0, wait := .none, waitAt := none, readySince := clk, aged := false, stall := false
    threads := List.replicate gr.width (Thread.fresh (gr.code.bounds.1.toNat + gr.entry))
    v := [], vside := [], vtag := []
    s := (([gr.arg.bits.setWidth 64, gr.arg.bits.extractLsb' 64 64] ++ gr.sarg).zipIdx).foldl
      (fun m p => mset 0 m p.2 p.1) []
    sside := gr.sargLbl.zipIdx.foldl (fun m p => mset Side.clear m (p.2 + 2) { Side.clear with lbl := p.1 }) []
    stag := mset false [] 0 gr.arg.tag
    p := [], plbl := [], c := 0, clbl := []
    mode := gr.mode, sat := 0, psize := BitVec.ofNat 32 gr.width, srlbl := []
    lats := [], loads := [], nextIseq := 0, qstamp := [], admitStamp := now, fenceL1 := 0, fenceRdc := 0
    acquiredRanges := [], fencing := 0, written := []
    kcode := gr.code, frame := Frame.zero, spin := Spin.idle, run := Run.idle, cont := 0
    debugStop := false, haltAtEnd := false, skipAt := none, owed := none, refused := none, met := false, vbad := [] }

/-- Admit one team of a grid on a seat. -/
def State.admitTeam (s : State) (gr : Grid) (kid : Nat) (seat : List Nat) : State :=
  let (id, s1) := s.fresh
  let cluster (core : Nat) : Nat := core / (s.cl * 12) * s.cl + core % (s.cl * 12) / 12
  let t : Team := {
    id := id, grid := gr.id, kid := kid, status := .admitted
    cores := seat.map (fun c => CoreRes.fresh c (lowestFree 8 (s.slotsOn c)))
    cluster := cluster (seat.headD 0)
    guards := [], bars := [], binds := [], mrecs := [], streams := [], admitClk := s.clk, term := none
    contributed := [], calmed := false }
  (List.range gr.ngroups).foldl (fun s g =>
    let core := seat.getD (gr.memberOf g) 0
    let slot := lowestFree 16 (s.groupSlots core (g % 4))
    s.setGroup (Group.fresh gr id g core (g % 4) slot s.clk s.now)) (s1.setTeam t)

/-- Admit a unit of a grid: its seats in order of `kid` (02 R40, R41). -/
def State.admitUnit (s : State) (gr : Grid) (place : List (List Nat)) : State :=
  let s1 := place.zipIdx.foldl (fun s p => s.admitTeam gr (gr.nextKid + p.2) p.1) s
  { s1.setGrid { gr with
      nextKid := gr.nextKid + place.length, start := if gr.nextKid = 0 then s.clk else gr.start } with
    claims := s1.claims.filter (fun c => c.grid != gr.id) }

/-! ### Termination (02 R48) -/

/-- A claim loses a victim that is gone. -/
def State.dropVictim (s : State) (team : Nat) : State :=
  { s with claims := s.claims.map (fun c => { c with victims := c.victims.filter (fun v => v != team) }) }

/-- The contributions of drains whose receiving team has retired complete at their senders (09 R215). -/
def State.settleDrains (s : State) : State :=
  s.arrops.foldl (fun s p =>
    match p.2.kind, s.team? p.2.team with
    | .mdrain tcig tteam _, some t =>
      match s.grid? t.grid with
      | some gr =>
        if p.2.done || !p.2.begun || t.status == .saved || (s.receiver gr t.kid tcig tteam).isSome then s
        else (s.modRec t.id p.2.acc (fun m => { m with draining := false })).opDone p.2 0
      | none => s
    | _, _ => s) s

/-- A team leaves the machine: its resources are free and its groups are gone (02 R47). -/
def State.removeTeam (s : State) (t : Team) : State :=
  (({ s with groups := s.groups.filter (fun p => p.2.team != t.id) }).setTeam
    { t with status := .retired, cores := [], guards := [], bars := [], binds := [], mrecs := [], streams := [],
             term := none }).settleDrains.dropVictim t.id

/-- The address of a directory entry of a context's save area (19 R433). -/
def Ctx.dirAt (c : Ctx) (i : Nat) : Nat := c.saveBase + 32 * i

/-- The VALID directory entries of a team, with their cores. -/
def State.dirOf (s : State) (c : Ctx) (tag : DWord) (kid : Nat) : List Nat :=
  (List.range 8192).filter (fun i =>
    let a := c.dirAt i
    (byteAt s.mem (a + 14)).getLsbD 0 && natOfBytes (bytesAt s.mem a 8) == tag.toNat &&
      natOfBytes (bytesAt s.mem (a + 8) 4) == kid)

/-- Clear the entries of a SAVED team. -/
def State.clearDir (s : State) (t : Team) : State :=
  match s.grid? t.grid with
  | none => s
  | some gr =>
    match s.ctx? gr.colour with
    | none => s
    | some c => (s.dirOf c gr.tag t.kid).foldl (fun s i => s.pointWrite (c.dirAt i + 14) [(0, 1)] 0 false) s

/-- The notifications of a sender that is gone are forgotten by their receivers (09 R218). -/
def State.dropSender (s : State) (team : Nat) : State :=
  { s with teams := mmap (fun t =>
    if t.mrecs.any (fun p => p.2.notified.any (fun n => n.2.1 == team)) then
      { t with mrecs := mmap (fun m => { m with notified := m.notified.filter (fun n => n.2.1 != team) }) t.mrecs }
    else t) s.teams }

/-- A terminated team retires at once: no sum, its operations and untaken contributions are discarded, its releases whose
write-backs have not left are too, its commands end as 14 R321 states (02 R48, 09 R218, 13 R289). -/
def State.terminateNow (s : State) (t : Team) (code : Byte) : State :=
  let s1 := (s.endTeamCmds t.id code).takeContribs (fun c => c.team == t.id)
  let s2 := ({ s1 with
    syncs := s1.syncs.filter (fun p => p.2.team != t.id || p.2.flushed)
    arrops := s1.arrops.filter (fun p => p.2.team != t.id) }).dropSender t.id
  (if t.status == .saved then s2.clearDir t else s2).removeTeam t

/-- Some group of a team is in a run. -/
def State.anyRunning (s : State) (team : Nat) : Bool := (s.teamGroups team).any (fun g => g.status == .running)

/-- Terminate a team: at once, or when the runs in progress have ended (16 R347). -/
def State.terminateTeam (s : State) (id : Nat) (code : Byte) : State :=
  match s.team? id with
  | none => s
  | some t =>
    if t.status = .retired then s
    else
      let s1 := match s.grid? t.grid with
        | some gr => s.setGrid (gr.terminated code t.kid)
        | none => s
      if s1.anyRunning id then s1.setTeam { t with term := t.term.orElse (fun _ => some code) }
      else s1.terminateNow t code

/-- The code and the KID with which a grid that is terminated as a whole completes, whatever ended some team of it before: its KID is 0
when no team of it was terminated or dropped (16 R346, R347). -/
def State.endsWith (s : State) (id : Nat) (code : Byte) : State :=
  match s.grid? id with
  | some gr => s.setGrid { gr with term := some (code, (gr.term.map (·.2)).getD 0) }
  | none => s

/-- Terminate a grid: the teams not yet admitted are dropped, the others terminate (16 R347, 19 R432). -/
def State.terminateGrid (s : State) (id : Nat) (code : Byte) : State :=
  match s.grid? id with
  | none => s
  | some gr =>
    if gr.complete then s
    else
      let g1 := if gr.nextKid < gr.nteams then { gr.terminated code gr.nextKid with nextKid := gr.nteams } else gr
      let s1 := { s.setGrid g1 with claims := s.claims.filter (fun c => c.grid != id) }
      ((s1.teams.filter (fun p => p.2.grid == id)).foldl (fun s p => s.terminateTeam p.1 code) s1).endsWith id code

/-! ### Retirement (02 R47) -/

/-- What a DRAINING team still waits for: commands, array operations, atomic requests, window accesses, releases. -/
def State.drained (s : State) (team : Nat) : Bool :=
  s.cmds.all (fun p => p.2.team != team || p.2.isDone) && s.arrops.all (fun p => p.2.team != team || p.2.done) &&
  s.atoms.all (fun p => p.2.team != team) && s.wins.all (fun p => p.2.byTeam != team) &&
  s.syncs.all (fun p => p.2.team != team)

/-- TEAM_RETIRE (02 R47; 13 R289): a team in DRAINING whose work is done sums its ordered adds and retires; a team that
terminates retires when no group of it is in a run. -/
def execTeamRetire (team : Nat) (s : State) : Host.Outcome State Fault Refusal :=
  match s.team? team with
  | none => .next s
  | some t =>
    match t.term with
    | some code => if s.anyRunning team then .next s else .next (s.terminateNow t code)
    | none =>
      if t.status != .draining || !s.drained team then .next s
      else
        let s1 := s.sumTargets t.grid (fun x => t.contributed.contains x)
        let s2 := { s1 with
          cmds := (s1.cmds.filter (fun (p : Nat × Cmd) => p.2.team != team || p.2.asked)).map (fun (p : Nat × Cmd) =>
            if p.2.team = team then (p.1, { p.2 with waited := true }) else p)
          arrops := s1.arrops.filter (fun p => p.2.team != team) }
        .next (s2.removeTeam t)

end Sys2Proof.Machine
end

