-- ==== Sys2Proof/Machine/Launch.lean ====
section
/-! DEFINITION. Machine/Launch.lean: launch queues (16 R341 to R347), the checks of a launch record (02 R35, R36), and the
completion of grids (02 R48, 16 R346). -/

namespace Sys2Proof.Machine

open Sys2Proof

/-! ### Addresses that control blocks and packets name (16 R344) -/

/-- A colour is that of a context of a function. -/
def State.colourOf (s : State) (fn colour : Nat) : Bool := (s.ctx? colour).any (fun c => c.fn == fn)

/-- The granted range that holds [a, a + n) and its colour. -/
def State.rangeOf (s : State) (a n : Nat) : Option GrantRange :=
  s.granted.find? (fun r => decide (r.base ≤ a) && decide (a + n ≤ r.base + r.len))

/-- The PASID of the lowest-numbered valid entry whose colour is that of some context of the function. -/
def State.ringPasid (s : State) (fn : Nat) : Option Nat :=
  ((s.fn fn).pasids.find? (fun p => p.2.valid && s.colourOf fn p.2.colour)).map (fun p => p.2.pasid)

/-- The test of 16 R344 for [a, a + n), host addresses under a PASID. -/
def State.reach (s : State) (fn : Nat) (p : Option Nat) (a n : Nat) (write : Bool) : Reach :=
  if isHost a && isHost (a + n - 1) then
    match p with
    | none => .bad cHDENIED
    | some p =>
      reachOf ((hostPages a n).map (fun x => s.blockTrans fn p x write))
  else
    match s.rangeOf a n with
    | some r => if s.colourOf fn r.colour then .ok else .bad cCOLOUR
    | none => .bad cCOLOUR

/-- Write bytes within one page at an address that passed the test. -/
def State.putAt (s : State) (fn : Nat) (p : Option Nat) (a : Nat) (bs : List Byte) : State :=
  if isHost a then
    match p.map (fun p => s.transPasid fn p a true) with
    | some (.ok h) => s.putHost h bs
    | _ => s
  else (s.pointWrite a (fullMask bs) 0 false).softTouch a bs.length

/-- Read bytes within one page at an address that passed the test. -/
def State.getAt (s : State) (fn : Nat) (p : Option Nat) (a n : Nat) : List Byte :=
  if isHost a then
    match p.map (fun p => s.transPasid fn p a false) with
    | some (.ok h) => bytesAt s.hostMem h n
    | _ => List.replicate n 0
  else bytesAt s.mem a n

/-! ### Queues -/

/-- A launch queue. -/
def State.queue (s : State) (fn q : Nat) : LQueue := mget LQueue.reset (s.fn fn).queues q

/-- Write a launch queue back. -/
def State.setQueue (s : State) (fn q : Nat) (x : LQueue) : State :=
  s.setFn fn { s.fn fn with queues := mset LQueue.reset (s.fn fn).queues q x }

/-- QLOG of 16 R341. -/
def LQueue.qlog (x : LQueue) : Nat := (x.qcfg.extractLsb' 0 5).toNat
/-- REV of 16 R341. -/
def LQueue.rev (x : LQueue) : Nat := (x.qcfg.extractLsb' 16 16).toNat

/-- A function raises its queue-error vector. -/
def State.queueError (s : State) (fn : Nat) : State := s.setFn fn { s.fn fn with qerr := (s.fn fn).qerr + 1 }

/-- A queue stops (16 R343 to R345): RDIDX keeps naming the packet. -/
def State.stopQueue (s : State) (fn q : Nat) (code : Byte) : State :=
  s.setQueue fn q { s.queue fn q with stopped := true, running := false, enable := false, stopcode := code }

/-- LQ_ENABLE (16 R341, R344): a write of 1 to ENABLE while it is 0. -/
def execLqEnable (fn q : Nat) (s : State) : Host.Outcome State Fault Refusal :=
  let x := s.queue fn q
  if fn ≥ 64 ∨ q ≥ 16 ∨ x.enable then .next s
  else if x.rev ≠ 1 ∨ x.qlog < 4 ∨ 16 < x.qlog then
    .next (s.setQueue fn q { x with enabling := false, stopcode := cENGREV })
  else
    let n := 64 * 2 ^ x.qlog
    let p := s.ringPasid fn
    if x.qbase.toNat % 4096 ≠ 0 then .next (s.setQueue fn q { x with enabling := false, stopcode := cCOLOUR })
    else
      match s.reach fn p x.qbase.toNat n false with
      | .ok => .next (s.setQueue fn q { x with
          enable := true, running := true, stopped := false, stopcode := 0, enabling := false })
      | .bad code =>
        .next ((s.takeRange fn p x.qbase.toNat n).setQueue fn q { x with enabling := false, stopcode := code })
      | .wait asks => .next ((s.askAll fn asks false).setQueue fn q { x with enabling := true })

/-- LQ_NOTIFY (16 R343). -/
def execLqNotify (fn q : Nat) (wridx : BitVec 32) (s : State) : Host.Outcome State Fault Refusal :=
  if fn ≥ 64 ∨ q ≥ 16 then .next s else .next (s.setQueue fn q { s.queue fn q with wridx := wridx })

/-- LQ_TERMINATE (16 R347): a write to KCMD. -/
def execLqTerminate (fn q : Nat) (kcmd : BitVec 32) (s : State) : Host.Outcome State Fault Refusal :=
  if fn ≥ 64 ∨ q ≥ 16 ∨ kcmd ≠ 1 then .next s
  else
    let x := s.queue fn q
    match (s.grids.map (·.2)).find? (fun g => g.fn == fn && g.queue == q && g.tag == x.ktag && !g.complete) with
    | none => .next (s.setQueue fn q { x with kstat := 3, kgrid := 0 })
    | some g => .next ((s.setQueue fn q { x with kstat := 1, kgrid := g.id }).terminateGrid g.id 0)

/-! ### The launch record (02 R35, R36) -/

/-- A format slot keeps 07 R140. -/
def slotValid (w : Word) : Bool :=
  let c := slotFmt w
  w.extractLsb' 18 14 == 0 &&
    (if c ≥ 14 then decide (2 ≤ slotPlanes w) && decide (slotPlanes w ≤ 8) else slotPlanes w == 0) &&
    (if c ≥ 12 then decide (8 ≤ slotPromo w) && decide (slotPromo w ≤ 17) else slotPromo w == 0)

/-- Every byte of a part of a record is zero. -/
def zeroAt (b : List Byte) (o n : Nat) : Bool := ((b.drop o).take n).all (· == 0)

/-- The valid values of check 1 in order of offset: the offset reported for the first field that breaks its row. -/
def recordField (b : List Byte) : Option Nat :=
  let u (o n : Nat) : Nat := imgNat b o n
  let checks : List (Nat × Bool) := [
    (0x00, u 0 2 == 1), (0x02, decide (u 2 1 ≤ 2)), (0x03, decide (u 3 1 ≤ 1)),
    (0x04, decide (1 ≤ u 4 1) && decide (u 4 1 ≤ 32)), (0x05, decide (u 5 1 ≤ 15)),
    (0x06, decide (u 6 1 < u 4 1) || u 6 1 == 0xFF), (0x07, decide (u 7 1 ≤ 1)), (0x08, decide (u 8 4 < 4096)),
    (0x0C, decide (8 ≤ u 0xC 2) && decide (u 0xC 2 ≤ 384) && u 0xC 2 % 8 == 0), (0x0E, decide (u 0xE 2 ≤ 128)),
    (0x10, decide (u 0x10 1 ≤ 8)), (0x11, decide (u 0x11 1 ≤ 16)), (0x12, decide (u 0x12 1 ≤ 16)),
    (0x13, decide (u 0x13 1 ≤ 16)), (0x14, decide (u 0x14 1 ≤ 16)), (0x15, decide (u 0x15 1 ≤ 16)),
    (0x16, u 7 1 != 0 || u 0x16 1 == 0), (0x17, decide (u 0x17 1 ≤ (if u 3 1 = 1 then 6 else 12))),
    (0x18, decide (1 ≤ u 0x18 4) && decide (u 0x18 4 ≤ 0x7FFFFFFF)),
    (0x1C, if u 0x17 1 = 0 then u 0x1C 2 == 0 else decide (1 ≤ u 0x1C 2) && decide (u 0x1C 2 ≤ 48)),
    (0x1E, zeroAt b 0x1E 2), (0x24, zeroAt b 0x24 12)] ++
    (List.range 8).map (fun n => (0x30 + 4 * n, slotValid (BitVec.ofNat 32 (u (0x30 + 4 * n) 4)))) ++
    [(0xD0, zeroAt b 0xD0 48)]
  (checks.find? (fun c => !c.2)).map (·.1)

/-- The capability at an offset of a record in device memory, as the dispatcher reads it. -/
def State.recordCap (s : State) (a o : Nat) : TCap :=
  ⟨BitVec.ofNat 128 (natOfBytes (bytesAt s.mem (a + o) 16)), s.tagAt (a + o)⟩

/-- A grid with the fields of a launch record at an address, and of a packet. -/
def State.gridOf (s : State) (c : Ctx) (a fn q : Nat) (pkt : List Byte) : Grid :=
  let b := bytesAt s.mem a 256
  let u (o n : Nat) : Nat := imgNat b o n
  { id := 0, colour := c.colour, fn := fn, queue := q, tag := BitVec.ofNat 64 (imgNat pkt 0x18 8)
    cmpl := imgNat pkt 0x10 8, irq := imgNat pkt 3 1 / 2 % 2 == 1, vector := imgNat pkt 4 2
    width := 16 * 2 ^ u 2 1, pair := u 3 1 == 1, ngroups := u 4 1, prio := u 5 1
    issuer := if u 6 1 = 0xFF then none else some (u 6 1), native := u 7 1 == 1, mode := BitVec.ofNat 32 (u 8 4)
    vregs := u 0xC 2, tarn := u 0xE 2, tiles := u 0x10 1, accs := u 0x11 1, mscr := u 0x12 1, guards := u 0x13 1
    bars := u 0x14 1, binds := u 0x15 1, vcl := u 0x17 1, gang := u 0x1C 2, nteams := u 0x18 4, entry := u 0x20 4
    fmt := (List.range 8).map (fun n => BitVec.ofNat 32 (u (0x30 + 4 * n) 4))
    code := s.recordCap a 0x50, arg := s.recordCap a 0x60, spill := s.recordCap a 0x70, ovfl := s.recordCap a 0x80
    sarg := (List.range 8).map (fun n => BitVec.ofNat 64 (u (0x90 + 8 * n) 8))
    sargLbl := (List.range 8).map (fun n => s.lblAt (a + 0x90 + 8 * n) 8)
    nextKid := 0, start := 0, term := none, serial := imgNat pkt 3 1 % 2 == 1, complete := false
    seqs := [], gathered := false }

/-- SPILL and OVFL (checks 5 and 6): untagged, or an unsealed memory capability with LD and ST of a permitted colour. -/
def areaOk (c : Ctx) (k : TCap) : Bool :=
  !k.tag || (k.kind == 0 && k.otype == 0 && k.has pLD && k.has pST && c.permits k.col)

/-- The checks of 02 R36 on a launch record: the OFFSET of the first that fails. -/
def State.recordRefusal (s : State) (c : Ctx) (a : Nat) (gr : Grid) : Option Nat :=
  let b := bytesAt s.mem a 256
  let k := gr.code
  match recordField b with
  | some o => some o
  | none =>
    if !k.tag || k.kind != 1 || !k.has pEXEC || k.otype != 0 || !c.permits k.col then some 0x50
    else if gr.entry % (if gr.native then 8 else 4) ≠ 0 ∨ k.bounds.2 ≤ k.bounds.1 + (gr.entry : Int) then some 0x20
    else if gr.native ∧ imgNat b 0x16 1 ≠ 0xB1 then some 0x16
    else if !areaOk c gr.spill then some 0x70
    else if !areaOk c gr.ovfl then some 0x80
    else if gr.pair && gr.issuer.any (fun i => decide (i % 8 ≥ 4)) then some 0x06
    else if gr.vcl ≠ 0 ∧ gr.nteams % (gr.vcl * gr.gang) ≠ 0 then some 0x18
    else if gr.gang > (s.clusters c).length then some 0x1C
    else if (s.placeBy c gr gr.emptyFits).isNone then some 0x200
    else none

/-! ### Completion records (16 R346) -/

/-- The 32 bytes of a launch's completion record. -/
def launchRecord (tag : DWord) (status : Nat) (code : Byte) (off kid start fin : Nat) : List Byte :=
  bytesOfNat 8 tag.toNat ++ [BitVec.ofNat 8 status, code] ++ bytesOfNat 2 off ++ bytesOfNat 4 kid ++ bytesOfNat 8 start ++
    bytesOfNat 8 fin

/-- The MSI-X message that follows a record. -/
def State.message (s : State) (fn : Nat) (irq : Bool) (vector : Nat) : State :=
  if irq && decide (vector < 2048) then s.setFn fn { s.fn fn with msix := (s.fn fn).msix ++ [vector] } else s

/-! ### Packets (16 R342, R343, R345) -/

/-- The packet that a queue has to read. -/
inductive Pkt where
  /-- There is none, or the queue does not read. -/
  | none
  /-- Its index is out of range. -/
  | range
  /-- Its translation is needed. -/
  | wait (asks : List (Nat × Nat))
  /-- It cannot be read. -/
  | lost (code : Byte)
  /-- Its bytes. -/
  | bytes (b : List Byte)

/-- The packet at RDIDX (16 R343); a queue of a frozen TDI accepts none (18 R417). A packet in a sector with an uncorrectable error is not
read (01 R19): its queue stops on it as on one that it cannot reach (DESIGN CHOICE, log entry 132). -/
def State.packet (s : State) (fn q : Nat) : Pkt :=
  let x := s.queue fn q
  if fn ≥ 64 ∨ q ≥ 16 ∨ !x.running ∨ x.wridx = x.rdidx ∨ s.frozenFn fn then .none
  else if (x.wridx - x.rdidx).toNat > 2 ^ x.qlog then .range
  else
    let a := x.qbase.toNat + 64 * (x.rdidx.toNat % 2 ^ x.qlog)
    match s.reach fn (s.ringPasid fn) a 64 false with
    | .ok =>
      if !isHost a && (s.badSec? a 64).isSome then .lost cUNCORR else .bytes (s.getAt fn (s.ringPasid fn) a 64)
    | .bad code => .lost code
    | .wait asks => .wait asks

/-- The first packet field that breaks 16 R342; those that a NOP does not read are not looked at (R343). `lrec` says that
LREC passes the test. -/
def packetField (b : List Byte) (lrec : Bool) : Option Nat :=
  let u (o n : Nat) : Nat := imgNat b o n
  let nop := u 2 1 == 0
  let checks : List (Nat × Bool) := [
    (0x102, decide (u 2 1 ≤ 1)), (0x103, decide (u 3 1 < 4)), (0x104, nop || decide (u 4 2 < 2048)),
    (0x106, zeroAt b 6 2), (0x108, nop || lrec), (0x120, zeroAt b 0x20 32)]
  (checks.find? (fun c => !c.2)).map (·.1)

/-- The context in whose granted range a launch record lies (16 R344); none when LREC fails the test. -/
def State.lrecCtx (s : State) (fn : Nat) (b : List Byte) : Option Ctx :=
  let a := imgNat b 8 8
  if a % 256 ≠ 0 then none
  else
    match s.rangeOf a 256 with
    | some r => (s.ctx? r.colour).bind (fun c => if c.fn = fn ∧ s.keyed c.colour then some c else none)
    | none => none

/-- The PASID of a packet's CMPL (16 R344). -/
def State.cmplPasid (s : State) (fn : Nat) (c : Option Ctx) : Option Nat :=
  match c with
  | some c => s.pasidOf fn c.colour
  | none => s.ringPasid fn

/-- A queue goes past a packet. -/
def State.advance (s : State) (fn q : Nat) : State :=
  s.setQueue fn q { s.queue fn q with rdidx := (s.queue fn q).rdidx + 1 }

/-- A SERIAL packet waits for the grids accepted earlier from its queue (16 R343). -/
def State.serialWait (s : State) (fn q : Nat) (b : List Byte) : Bool :=
  imgNat b 3 1 % 2 == 1 && s.grids.any (fun p => p.2.fn == fn && p.2.queue == q && !p.2.complete)

/-- Write a completion record at a packet's CMPL, or stop the queue when it cannot be written (16 R344); `go` is the state
that follows. -/
def State.withCmpl (s : State) (fn q : Nat) (b : List Byte) (p : Option Nat) (go : State → State) : State :=
  let a := imgNat b 0x10 8
  if a % 32 ≠ 0 then (s.stopQueue fn q cALIGN).queueError fn
  else
    match s.reach fn p a 32 true with
    | .ok => go s
    | .bad code => ((s.takeRange fn p a 32).stopQueue fn q code).queueError fn
    | .wait asks => s.askAll fn asks true

/-- A packet is refused (16 R343, R346). -/
def State.refusePacket (s : State) (fn q : Nat) (b : List Byte) (p : Option Nat) (off : Nat) : State :=
  let s1 := s.putAt fn p (imgNat b 0x10 8) (launchRecord (BitVec.ofNat 64 (imgNat b 0x18 8)) 1 0 off 0 0 s.clk)
  (s1.advance fn q).message fn (imgNat b 3 1 / 2 % 2 == 1) (imgNat b 4 2)

/-- A grid is accepted. -/
def State.acceptGrid (s : State) (fn q : Nat) (gr : Grid) : State :=
  let (id, s1) := s.fresh
  (s1.setGrid { gr with id := id }).advance fn q

/-- A packet of another revision stops its queue (16 R345), with the code of R344 when its CMPL fails the test. -/
def State.badRevision (s : State) (fn q : Nat) (b : List Byte) : State :=
  let p := s.ringPasid fn
  let a := imgNat b 0x10 8
  let fin (code : Byte) (s : State) : State := (s.stopQueue fn q code).queueError fn
  match (if a % 32 ≠ 0 then Reach.bad cALIGN else s.reach fn p a 32 true) with
  | .ok => fin cENGREV (s.putAt fn p a (launchRecord (BitVec.ofNat 64 (imgNat b 0x18 8)) 3 cENGREV 0 0 0 s.clk))
  | .bad code => fin code (s.takeRange fn p a 32)
  | .wait asks => s.askAll fn asks true

/-- What a queue does with a packet of its revision. -/
def State.consume (s : State) (fn q : Nat) (b : List Byte) : State :=
  if s.serialWait fn q b then s
  else
    let c := s.lrecCtx fn b
    let p := s.cmplPasid fn c
    match packetField b c.isSome with
    | some off => s.withCmpl fn q b p (fun s => s.refusePacket fn q b p off)
    | none =>
      if imgNat b 2 1 = 0 then s.advance fn q
      else
        s.withCmpl fn q b p (fun s =>
          match c with
          | none => s
          | some c =>
            let a := imgNat b 8 8
            let gr := s.gridOf c a fn q b
            if (s.badSec? a 256).isSome then s.refusePacket fn q b p 0x108
            else
              match s.recordRefusal c a gr with
              | some off => s.refusePacket fn q b p off
              | none => s.acceptGrid fn q gr)

/-- A packet that a queue reads leads to an effect. -/
def State.onPacket (s : State) (fn q : Nat) (h : List Byte → State) : State :=
  match s.packet fn q with
  | .none => s
  | .range => s.stopQueue fn q cILOPER
  | .wait asks => s.askAll fn asks false
  | .lost code =>
    let a := (s.queue fn q).qbase.toNat + 64 * ((s.queue fn q).rdidx.toNat % 2 ^ (s.queue fn q).qlog)
    ((s.takeRange fn (s.ringPasid fn) a 64).stopQueue fn q code).queueError fn
  | .bytes b => h b

/-- LAUNCH (16 R343): the queue reads a packet that is not a NOP. -/
def execLaunch (fn q : Nat) (s : State) : Host.Outcome State Fault Refusal :=
  .next (s.onPacket fn q (fun b =>
    if imgNat b 0 2 ≠ (s.queue fn q).rev then s.badRevision fn q b
    else if imgNat b 2 1 = 0 then s
    else s.consume fn q b))

/-- NOP_PACKET (16 R343). -/
def execNopPacket (fn q : Nat) (s : State) : Host.Outcome State Fault Refusal :=
  .next (s.onPacket fn q (fun b =>
    if imgNat b 0 2 ≠ (s.queue fn q).rev ∨ imgNat b 2 1 ≠ 0 then s else s.consume fn q b))

/-! ### Completion (02 R48, 16 R346) -/

/-- Every write of a colour still in a private cache reaches the point of coherence. -/
def State.flushAll (s : State) (core : Bool) : State :=
  (s.copies.filter (fun k => k.isDirty && (match k.cache with | .l1 _ => core | .rdc _ => !core))).foldl
    (fun s k => s.writeBack k.cache k.line k.colour) s

/-- Every team of a grid has retired (02 R48). -/
def State.allRetired (s : State) (gr : Grid) : Bool :=
  decide (gr.nextKid ≥ gr.nteams) && s.teams.all (fun p => p.2.grid != gr.id || p.2.status == .retired) &&
    s.cmds.all (fun p => p.2.isDone || !(s.team? p.2.team).any (fun t => t.grid == gr.id)) &&
    s.syncs.all (fun p => !(s.team? p.2.team).any (fun t => t.grid == gr.id)) &&
    s.atoms.all (fun p => !(s.team? p.2.team).any (fun t => t.grid == gr.id)) &&
    s.wins.all (fun p => !(s.team? p.2.byTeam).any (fun t => t.grid == gr.id))

/-- The completion record of a grid. -/
def Grid.record (gr : Grid) (clk : Nat) : List Byte :=
  match gr.term with
  | some (code, kid) => launchRecord gr.tag 2 code 0 kid gr.start clk
  | none => launchRecord gr.tag 0 0 0 0 gr.start clk

/-- The delegations to teams that groups of a grid made are withdrawn when it completes (17 R385). -/
def State.withdrawTeams (s : State) (gr : Grid) : State :=
  let dead (sl : GrantSlot) : Bool := match sl.entry with
    | some (_, .team _ _, g) => g == gr.id
    | _ => false
  match s.ctx? gr.colour with
  | none => s
  | some c =>
    if c.grants.any (fun p => dead p.2) then
      s.setCtx { c with grants := mmap (fun sl => if dead sl then ⟨nextGen sl.gen, none⟩ else sl) c.grants }
    else s

/-- A grid has completed: its queue's terminate command is done, its records are forgotten. -/
def State.forgetGrid (s : State) (gr : Grid) : State :=
  let x := s.queue gr.fn gr.queue
  let s0 := if x.kstat = 1 ∧ x.kgrid = gr.id then s.setQueue gr.fn gr.queue { x with kstat := 2, kgrid := 0 } else s
  let s1 := s0.withdrawTeams gr
  let mine (id : Nat) : Bool := (s1.team? id).any (fun t => t.grid == gr.id)
  { (s1.setGrid { gr with complete := true }) with
    cmds := s1.cmds.filter (fun p => !mine p.2.team || p.2.asked)
    teams := s1.teams.filter (fun p => p.2.grid != gr.id) }

/-- The caches that have sent packets to other dies (12 R259, R264). -/
def State.cacheSources (s : State) : List Source :=
  (s.sent.map (·.1)).filter (fun x => match x with | .cache _ => true | .engine _ => false)

/-- The gathering of a grid's completion is under way. -/
def State.gathering (s : State) (grid : Nat) : Bool :=
  s.syncs.any (fun p => match p.2.kind with | .grid id => id == grid | _ => false)

/-- GRID_COMPLETE (02 R48; 16 R346): the release at device scope of the grid's writes (12 R264: write-backs, then the markers of
R259), then its record, then its message. -/
def execGridComplete (grid : Nat) (s : State) : Host.Outcome State Fault Refusal :=
  match s.grid? grid with
  | none => .next s
  | some gr =>
    if gr.complete || !s.allRetired gr then .next s
    else
      let s1 := (s.flushAll true).flushAll false
      if s1.gathering gr.id then .next s1
      else if !gr.gathered && !(s1.markersOf s1.cacheSources false).isEmpty then
        .next (s1.syncIssue 0 0 (.grid gr.id) 6 0 s1.cacheSources)
      else
      let p := s1.pasidOf gr.fn gr.colour
      let done (s : State) : State := (s.message gr.fn gr.irq gr.vector).forgetGrid gr
      match s1.reach gr.fn p gr.cmpl 32 true with
      | .ok => .next (done (s1.putAt gr.fn p gr.cmpl (gr.record s1.clk)))
      | .bad _ => .next (done (s1.takeRange gr.fn p gr.cmpl 32))
      | .wait asks => .next (s1.askAll gr.fn asks true)

end Sys2Proof.Machine
end

