-- ==== Sys2Proof/Machine/Image.lean ====
section
/-! DEFINITION. Machine/Image.lean: the core image of a saved team (03 R65 to R67; 09 R217; 10 R232; 15 R339; 19 R421,
R435): its layout, the bytes of its blocks and their reading. -/

namespace Sys2Proof.Machine

open Sys2Proof

/-! ### Layout (03 R65), in units of 4 KiB -/

/-- Groups of a team on a member core. -/
def Grid.gidsAt (gr : Grid) (member : Nat) : List Nat :=
  (List.range gr.ngroups).filter (fun g => gr.memberOf g == member)

/-- 4 KiB units of n bytes. -/
def units (n : Nat) : Nat := (n + 4095) / 4096

/-- Units of one group's vector part. -/
def Grid.vecUnits (gr : Grid) : Nat := units (gr.width * gr.vregs * 4 + gr.vregs * 4)

/-- The areas of the core image of a member, by their first unit. -/
structure Areas where
  ctl : Nat
  defer : Nat
  vec : Nat
  tile : Nat
  acc : Nat
  mscr : Nat
  tarn : Nat
  tline : Nat
  team : Nat
  size : Nat
  deriving DecidableEq, Repr

/-- The layout of the core image of a member. -/
def Grid.areas (gr : Grid) (member : Nat) : Areas :=
  let n := (gr.gidsAt member).length
  let defer := 1 + n
  let vec := defer + 16 * n
  let tile := vec + n * gr.vecUnits
  let acc := tile + 16 * gr.tiles
  let mscr := acc + 20 * gr.accs
  let tarn := mscr + 4 * gr.mscr
  let tline := tarn + gr.tarn
  let team := tline + units (32 * gr.tarn)
  ⟨1, defer, vec, tile, acc, mscr, tarn, tline, team, team + (if member = 0 then 1 else 0)⟩

/-! ### Group control block (03 R67) -/

/-- Codes of STATE. -/
def GStatus.code : GStatus → Nat
  | .ready => 0
  | .running => 0
  | .waiting => 1
  | .barrier => 2
  | .parked => 3
  | .replayable => 4
  | .stopped => 5
  | .exited => 6

/-- The state of a code; an undefined code reads as READY. -/
def gstatusOf (n : Nat) : GStatus :=
  match n with
  | 1 => .waiting
  | 2 => .barrier
  | 3 => .parked
  | 4 => .replayable
  | 5 => .stopped
  | 6 => .exited
  | _ => .ready

/-- WAITON of a recorded condition (19 R435); a parked group records the lowest absent line of its own core. -/
def Wait.word (core : Nat) : Wait → Nat
  | .none => 0
  | .page _ _ => 0
  | .qwait m => 1 * 2 ^ 60 + m.toNat
  | .mwait m => 2 * 2 ^ 60 + m.toNat
  | .ewait n => 3 * 2 ^ 60 + n % 2 ^ 32
  | .acqGe e _ _ => 4 * 2 ^ 60 + e % 16
  | .sleep w => 5 * 2 ^ 60 + w % 2 ^ 60
  | .dredge n => 6 * 2 ^ 60 + n % 2 ^ 60
  | .bar n r => 7 * 2 ^ 60 + n % 16 + (if r then 16 else 0)
  | .park ls => 8 * 2 ^ 60 + ((ls.filter (fun p => p.1 == core)).map (·.2)).foldl min 4095 % 4096
  | .hold ns => 9 * 2 ^ 60 + ns.headD 0 % 16

/-- The condition of a WAITON word; bits outside the kind's field are dropped. -/
def waitOf (core w : Nat) : Wait :=
  let a := w % 2 ^ 60
  match w / 2 ^ 60 with
  | 1 => .qwait (BitVec.ofNat 8 a)
  | 2 => .mwait (BitVec.ofNat 16 a)
  | 3 => .ewait (a % 2 ^ 32)
  | 4 => .acqGe (a % 16) 0 0
  | 5 => .sleep a
  | 6 => .dredge a
  | 7 => .bar (a % 16) (a / 16 % 2 == 1)
  | 8 => .park [(core, a % 4096)]
  | 9 => .hold [a % 16]
  | _ => .none

/-- The STATE field. -/
def Group.stateWord (g : Group) : Nat :=
  g.status.code + (match g.status with
    | .replayable => 256 * g.stopCode.toNat
    | .stopped => if g.debugStop && g.stopCode != cBREAK then 0 else 256 * g.stopCode.toNat
    | _ => 0)

/-- A thread record. -/
def Thread.bytes (t : Thread) : List Byte :=
  bytesOfNat 8 t.pc.toNat ++ bytesOfNat 8 t.meet.toNat ++
  bytesOfNat 8 ((if t.held then 2 else 0) + (if t.demoted then 4 else 0) + 8 * t.dleft + 65536 * t.since) ++
  List.replicate 8 0

/-- The labels of a map as a number of two bits each. -/
def lblBits (m : List (Nat × Label)) (n : Nat) : Nat :=
  (List.range n).foldl (fun a i => a + (mget 0 m i).toNat * 4 ^ i) 0

/-- Labels from such a number. -/
def lblsOf (x n : Nat) : List (Nat × Label) :=
  (List.range n).foldl (fun m i => mset 0 m i (BitVec.ofNat 2 (x / 4 ^ i))) []

/-- The 4 KiB of a group control block. -/
def Group.ctlBytes (g : Group) (width : Nat) : List Byte :=
  bytesOfNat 8 g.stateWord ++ bytesOfNat 8 (g.wait.word g.core) ++ bytesOfNat 8 g.live.toNat ++
  bytesOfNat 4 g.mode.toNat ++ bytesOfNat 4 g.sat.toNat ++ bytesOfNat 4 g.psize.toNat ++
  bytesOfNat 1 (lblBits g.srlbl 3) ++ [g.c] ++ bytesOfNat 2 (lblBits g.clbl 8) ++ bytesOfNat 4 (lblBits g.plbl 16) ++
  bytesOfNat 4 0 ++
  (List.range 16).flatMap (fun n => bytesOfNat 8 (g.pget width n).toNat) ++ List.replicate 80 0 ++
  (List.range 64).flatMap (fun n => bytesOfNat 8 (g.sget n).toNat) ++
  (List.range 64).flatMap (fun n => bytesOfNat 4 (g.ssd n).word) ++
  bytesOfNat 16 g.kcode.bits.toNat ++ List.replicate 112 0 ++ g.frame.bytes ++ List.replicate 768 0 ++
  padTo 2048 (g.threads.flatMap Thread.bytes)

/-- A side state from its word (03 R63). PQ means nothing while PEND is 0 (03 R55) and is forgotten (DESIGN CHOICE, log entry 115). -/
def sideOf (w : Nat) : Side :=
  if w / 1024 % 2 = 1 then ⟨true, Fin.ofNat 8 (w / 2048), BitVec.ofNat 8 w, BitVec.ofNat 2 (w / 256)⟩
  else ⟨false, 0, BitVec.ofNat 8 w, BitVec.ofNat 2 (w / 256)⟩

/-- A frame from its 128 bytes (19 R421). -/
def frameOf (b : List Byte) (tag : Bool) : Frame :=
  let u (o n : Nat) : Nat := imgNat b o n
  { code := BitVec.ofNat 8 (u 0 1), active := u 1 1 % 2 == 1, nested := u 1 1 / 2 % 2 == 1
    xflags := BitVec.ofNat 7 (u 2 1), fthread := BitVec.ofNat 8 (u 3 1), form := BitVec.ofNat 8 (u 4 1) &&& 0x9F
    opc := BitVec.ofNat 16 (u 6 2), fpc := BitVec.ofNat 64 (u 8 8), rpc := BitVec.ofNat 64 (u 0x10 8)
    faddr := BitVec.ofNat 64 (u 0x18 8), lpc := BitVec.ofNat 64 (u 0x20 8), subset := BitVec.ofNat 64 (u 0x28 8)
    amask := BitVec.ofNat 64 (u 0x30 8), aux := BitVec.ofNat 64 (u 0x38 8)
    words := (List.range 4).map (fun j => BitVec.ofNat 32 (u (0x40 + 4 * j) 4))
    ops := (List.range 5).map (fun j => BitVec.ofNat 16 (u (0x50 + 2 * j) 2))
    mods := (List.range 3).map (fun j => BitVec.ofNat 8 (u (0x5A + j) 1))
    guards := (List.range 2).map (fun j => BitVec.ofNat 8 (u (0x5D + j) 1) &&& 0x1F)
    imm := BitVec.ofNat 32 (u 0x60 4), kcode := ⟨BitVec.ofNat 128 (u 0x70 16), tag⟩ }

/-- A thread from its record. -/
def threadOf (b : List Byte) (exited : Bool) : Thread :=
  let st := imgNat b 16 8
  ⟨BitVec.ofNat 56 (imgNat b 0 8), BitVec.ofNat 56 (imgNat b 8 8), exited, st / 2 % 2 == 1, st / 4 % 2 == 1,
    st / 65536 % 256, st / 8 % 8192⟩

/-- A group with the content of a control block; `tag o` is the side-band tag at offset o. What the block does not hold
is kept from `g`. PSIZE is taken as it stands: for a value that 11 R233 excludes, R68 names no check (DESIGN CHOICE, log entry 116). -/
def Group.withCtl (g : Group) (width : Nat) (b : List Byte) (tag : Nat → Bool) : Group :=
  let u (o n : Nat) : Nat := imgNat b o n
  let st := gstatusOf (u 0 8 % 16)
  { g with
    status := st
    stopCode := if st = .stopped ∨ st = .replayable then BitVec.ofNat 8 (u 1 1) else 0
    debugStop := st == .stopped && (u 1 1 == 0 || u 1 1 == cBREAK.toNat)
    wait := waitOf g.core (u 8 8)
    mode := BitVec.ofNat 32 (u 0x18 4) &&& 0xFFF, sat := BitVec.ofNat 32 (u 0x1C 4) &&& 0x7F
    psize := BitVec.ofNat 32 (u 0x20 4)
    srlbl := lblsOf (u 0x24 1 % 64) 3, c := BitVec.ofNat 8 (u 0x25 1), clbl := lblsOf (u 0x26 2) 8
    plbl := lblsOf (u 0x28 4) 16
    p := (List.range 16).foldl (fun m n =>
      if n = 0 then m else mset 0 m n (BitVec.ofNat 64 (u (0x30 + 8 * n) 8) &&& firstMask width)) []
    s := (List.range 64).foldl (fun m n => mset 0 m n (BitVec.ofNat 64 (u (0x100 + 8 * n) 8))) []
    sside := (List.range 64).foldl (fun m n => mset Side.clear m n (sideOf (u (0x300 + 4 * n) 4))) []
    stag := (List.range 32).foldl (fun m n => mset false m n (tag (0x100 + 16 * n))) []
    kcode := ⟨BitVec.ofNat 128 (u 0x400 16), tag 0x400⟩
    frame := frameOf ((b.drop 0x480).take 128) (tag 0x4F0)
    threads := (List.range width).map (fun i =>
      threadOf ((b.drop (0x800 + 32 * i)).take 32) (!(BitVec.ofNat 64 (u 0x10 8)).getLsbD i)) }

/-- The fields of a trap frame as (offset, bytes) (19 R421). -/
def frameFields : List (Nat × Nat) :=
  [(0, 1), (1, 1), (2, 1), (3, 1), (4, 1), (5, 1), (6, 2), (8, 8), (0x10, 8), (0x18, 8), (0x20, 8), (0x28, 8), (0x30, 8), (0x38, 8),
    (0x40, 16), (0x50, 2), (0x52, 2), (0x54, 2), (0x56, 2), (0x58, 2), (0x5A, 1), (0x5B, 1), (0x5C, 1), (0x5D, 1), (0x5E, 1),
    (0x5F, 1), (0x60, 4), (0x64, 12), (0x70, 16)]

/-- Fields of `n` bytes each, `k` of them from an offset on. -/
def fieldRun (o n k : Nat) : List (Nat × Nat) := (List.range k).map (fun j => (o + n * j, n))

/-- The fields of a group control block as (offset, bytes), what the table does not assign among them (03 R67). -/
def ctlFields : List (Nat × Nat) :=
  [(0, 8), (8, 8), (0x10, 8), (0x18, 4), (0x1C, 4), (0x20, 4), (0x24, 1), (0x25, 1), (0x26, 2), (0x28, 4), (0x2C, 4)] ++
  fieldRun 0x30 8 16 ++ [(0xB0, 80)] ++ fieldRun 0x100 8 64 ++ fieldRun 0x300 4 64 ++ [(0x400, 16), (0x410, 112)] ++
  frameFields.map (fun p => (0x480 + p.1, p.2)) ++ [(0x500, 768)] ++
  (List.range 64).flatMap (fun i => fieldRun (0x800 + 32 * i) 8 4)

/-- A side-state word without the PQ of a register that is not pending (03 R55, R63). -/
def sideMask (w : Nat) : Nat := if w / 1024 % 2 = 1 then w else w / 2 ^ 14 * 2 ^ 14 + w % 2 ^ 11

/-- The first field of a control block whose content is not what the restored group gives back: a reserved bit is set, or STATE or
WAITON holds no defined code (03 R68). The P registers and the PQ of what is not pending are no reserved fields. That ACTIVE bits at or
above the width, and bits [63:56] of a saved PC or meeting register, count as reserved is DEDUCED (log entry 77): the table names none. -/
def ctlBad (b b' : List Byte) : Option Nat :=
  ctlFields.findSome? (fun p =>
    let x := imgNat b p.1 p.2
    let y := imgNat b' p.1 p.2
    if 0x30 ≤ p.1 ∧ p.1 < 0xB0 then none
    else if 0x300 ≤ p.1 ∧ p.1 < 0x400 then (if sideMask x = y then none else some p.1)
    else if x = y then none else some p.1)

/-! ### Deferred faults (03 R67) -/

/-- The code with which an element is recorded, and its address (13 R274, 19 R434). -/
def LoadElem.deferred (x : LoadElem) : Option (Byte × Nat) := x.failure

/-- The records of one load: for each code that an element holds, the lowest thread, the address and the mask; in
ascending FTHREAD. -/
def Load.records (ld : Load) : List (Byte × Nat × Nat × Mask) :=
  ld.elems.foldl (fun rs x =>
    match x.deferred with
    | none => rs
    | some (c, a) =>
      if rs.any (fun r => r.1 == c) then
        rs.map (fun r => if r.1 == c then (r.1, r.2.1, r.2.2.1, r.2.2.2 ||| (1#64 <<< x.thread)) else r)
      else rs ++ [(c, x.thread, a, 1#64 <<< x.thread)]) []

/-- The 32 bytes of a record. -/
def recordBytes (ld : Load) (r : Byte × Nat × Nat × Mask) : List Byte :=
  [r.1, BitVec.ofNat 8 ld.queue.val, BitVec.ofNat 8 r.2.1, 0] ++ bytesOfNat 4 ld.iseq ++ bytesOfNat 8 ld.pc.toNat ++
    bytesOfNat 8 r.2.2.1 ++ bytesOfNat 8 r.2.2.2.toNat

/-- The used records of a group's deferred-fault block. -/
def Group.deferBytes (g : Group) : List Byte := g.loads.flatMap (fun ld => ld.records.flatMap (recordBytes ld))

/-- A code that a record may hold. -/
def deferCode (c : Byte) : Bool := [cCOREAD, cEARLY, cBOUND, cORDOVF, cHPAGE, cHDENIED, cUNCORR].contains c

/-- The fields of a deferred-fault record (03 R67). -/
def recordFields : List (Nat × Nat) := [(0, 1), (1, 1), (2, 1), (3, 1), (4, 4), (8, 8), (16, 8), (24, 8)]

/-- The offset of the first field of a record that the restore refuses (03 R68); an unused one is zero throughout (03 R67). -/
def recordBad (b : List Byte) (width : Nat) : Option Nat :=
  let u (o n : Nat) : Nat := imgNat b o n
  if u 0 1 = 0 then (recordFields.find? (fun p => u p.1 p.2 != 0)).map (·.1)
  else if !deferCode (BitVec.ofNat 8 (u 0 1)) then some 0
  else if u 1 1 ≥ 8 then some 1
  else if u 2 1 ≥ width then some 2
  else if u 3 1 ≠ 0 then some 3
  else if u 24 8 ≥ 2 ^ width then some 24
  else none

/-- One element of a restored load: the one that the group had, or one whose value is lost; it reads after the restore (03 R68, 12
R264), and holds its fault again, or, undelivered, waits for its page. -/
def restoreElem (now : Nat) (old : Option LoadElem) (code : Byte) (addr i : Nat) : LoadElem :=
  let x := old.getD ⟨i, addr, 4, [], false, 0, .dropped⟩
  let y : LoadElem := { x with mins := x.mins.map (fun m => (max m.1 now, max m.2 now)) }
  if code = cHPAGE then
    (match x.status with
      | .pageWait a => { y with status := .pageWait a }
      | .failed c a => { y with status := .failed c a }
      | _ => { y with status := .waiting })
  else { y with status := .failed code addr }

/-- The loads of a group after its records are read: an element that a record names holds its code; one recorded as
undelivered goes on as the page request stands. `next` is the issue number of the next load: the earliest ISEQ comes first (03
R68). -/
def restoreLoads (now next : Nat) (old : List Load) (recs : List (List Byte)) : List Load :=
  let age (n : Nat) : Nat := (n + 2 ^ 32 - next % 2 ^ 32) % 2 ^ 32
  let ls := recs.foldl (fun ls b =>
    let u (o n : Nat) : Nat := imgNat b o n
    let code : Byte := BitVec.ofNat 8 (u 0 1)
    if code = 0 then ls
    else
      let prev := old.find? (fun ld => ld.iseq % 2 ^ 32 == u 4 4)
      let base : Load := match ls.find? (fun ld => ld.iseq % 2 ^ 32 == u 4 4) with
        | some ld => ld
        | none => match prev with
          | some ld => { ld with elems := [] }
          | none => ⟨u 4 4, Fin.ofNat 8 (u 1 1), BitVec.ofNat 56 (u 8 8), .none, .plain 2 0 false, []⟩
      let ld : Load := { base with
        queue := Fin.ofNat 8 (u 1 1), pc := BitVec.ofNat 56 (u 8 8)
        elems := base.elems ++ (maskList (BitVec.ofNat 64 (u 24 8)) 64).map (fun i =>
          restoreElem now (prev.bind (fun ld => ld.elem? i)) code (u 0x10 8) i) }
      (ls.filter (fun x => x.iseq % 2 ^ 32 != u 4 4)) ++ [ld]) []
  sortBy (fun a b => decide (age (a.iseq % 2 ^ 32) < age (b.iseq % 2 ^ 32))) ls

/-! ### Team state -/

/-- The matrix record (09 R217). -/
def MRec.word (m : MRec) : Nat :=
  m.tcig % 64 + 2 ^ 6 * (m.tteam % 16) + 2 ^ 10 * (m.tacc % 16) + (if m.draining then 2 ^ 14 else 0) +
  2 ^ 15 * (m.rslot % 8) + 2 ^ 18 * (m.expect % 64) + (if m.armed then 2 ^ 24 else 0) + 2 ^ 25 * m.pflags.toNat +
  2 ^ 32 * (m.kcount % 2 ^ 32) + 2 ^ 64 * m.done.toNat

/-- A matrix record with the fields of a word. -/
def MRec.withWord (m : MRec) (w : Nat) : MRec :=
  { m with
    tcig := w % 64, tteam := w / 2 ^ 6 % 16, tacc := w / 2 ^ 10 % 16, draining := w / 2 ^ 14 % 2 == 1
    rslot := w / 2 ^ 15 % 8, expect := w / 2 ^ 18 % 64, armed := w / 2 ^ 24 % 2 == 1
    pflags := BitVec.ofNat 7 (w / 2 ^ 25), kcount := w / 2 ^ 32 % 2 ^ 32, done := BitVec.ofNat 48 (w / 2 ^ 64) }

/-- The stream word (10 R232). -/
def SWord.word (w : SWord) : Nat := if w.live then w.sbase % 16 + 16 + (if w.pairs then 32 else 0) else 0

/-- A guard state's code (03 R65). -/
def GuardState.code : GuardState → Byte
  | .unresolved => 0
  | .known true => 1
  | .known false => 2

/-- A guard state from its code. -/
def guardOf (b : Byte) : GuardState := if b = 1 then .known true else if b = 2 then .known false else .unresolved

/-- The barrier word (15 R339). -/
def Barrier.word (b : Barrier) : Nat := b.arrived.toNat + 2 ^ 32 * b.phase.toNat

end Sys2Proof.Machine
end

