-- ==== Sys2Proof/Machine/Save.lean ====
section
/-! DEFINITION. Machine/Save.lean: saving and restoring teams (02 R45, R47; 03 R65 to R68; 19 R433 to R436), and the
dispatcher's choice of victims that leads to it (16 R352). -/

namespace Sys2Proof.Machine

open Sys2Proof

/-! ### Placement in the save area (19 R433) -/

/-- A directory entry is VALID. -/
def State.dirValid (s : State) (c : Ctx) (i : Nat) : Bool := (byteAt s.mem (c.dirAt i + 14)).getLsbD 0

/-- The (offset, length) in units of every image that a VALID entry names. -/
def State.dirUsed (s : State) (c : Ctx) : List (Nat × Nat) :=
  (List.range 8192).filterMap (fun i =>
    if s.dirValid c i then
      some (natOfBytes (bytesAt s.mem (c.dirAt i + 16) 4), natOfBytes (bytesAt s.mem (c.dirAt i + 20) 4))
    else none)

/-- First-fit placement of `n` units after the directory, in a save area of `len` units. -/
def firstFit (used : List (Nat × Nat)) (len n : Nat) : Option Nat :=
  ((64 :: used.map (fun u => u.1 + u.2)).filter (fun o =>
    decide (64 ≤ o) && decide (o + n ≤ len) && used.all (fun u => !overlaps u.1 u.2 o n))).foldl
    (fun (a : Option Nat) o => match a with | some x => some (min x o) | none => some o) none

/-- Place images of the given sizes one after another. -/
def placeAll (len : Nat) : List Nat → List (Nat × Nat) → Option (List Nat)
  | [], _ => some []
  | n :: ns, used =>
    match firstFit used len n with
    | none => none
    | some o => (placeAll len ns ((o, n) :: used)).map (fun os => o :: os)

/-- The sizes of the core images of a grid's team. -/
def Grid.imageSizes (gr : Grid) : List Nat :=
  (List.range (if gr.pair then 2 else 1)).map (fun m => (gr.areas m).size)

/-- The images of teams fit the save area of their context, beside those of the teams that are being saved (19 R433). -/
def State.savesFit (s : State) (c : Ctx) (ids : List Nat) : Bool :=
  let all := (s.teams.filter (fun p => p.2.status == .saving || ids.contains p.1)).filterMap (fun p => s.grid? p.2.grid)
  let sizes := (all.filter (fun gr => gr.colour == c.colour)).flatMap Grid.imageSizes
  let free := ((List.range 8192).filter (fun i => !s.dirValid c i)).length
  decide (sizes.length ≤ free) && (placeAll (c.saveLen / 4096) sizes (s.dirUsed c)).isSome

/-! ### Writing images (03 R65) -/

/-- A part of an image: bytes at an offset, the label of what is stored, and for a capability its tag. -/
structure Item where
  off : Nat
  bytes : List Byte
  lbl : Label
  tag : Bool

/-- Write one item at the point of coherence: its sectors take its label at least, and the granules that its bytes meet lose their
tags (12 R252) but for a capability's own. -/
def State.putItem (s : State) (base : Nat) (x : Item) : State :=
  let a := base + x.off
  let wiped := if x.bytes.isEmpty then [] else
    (List.range ((a + x.bytes.length - 1) / 16 + 1 - a / 16)).map (fun j => a / 16 + j)
  let side0 := wiped.foldl (fun m q => if (mget 0 m (q / 2)).getLsbD (q % 2) then mmod 0 m (q / 2) (fun b => b &&& ~~~(1#8 <<< (q % 2))) else m) s.side
  let side := (sectors a (max 1 x.bytes.length)).foldl (fun m sec =>
    mmod 0 m sec (fun b => sideWithLbl b (Label.max (sideLbl b) x.lbl))) side0
  { s with
    mem := setBytes s.mem a x.bytes
    side := if x.tag then mmod 0 side (a / 32) (fun b => b ||| (1#8 <<< (a / 16 % 2))) else side }

/-- Mark the sectors of a range as compute-only. -/
def State.markCo (s : State) (a n : Nat) : State :=
  { s with side := (sectors a n).foldl (fun m sec => mmod 0 m sec (fun b => b ||| 0x10)) s.side }

/-- Empty a range of device memory: bytes 0, side band 0. -/
def State.clearRange (s : State) (a n : Nat) : State :=
  { s with
    mem := s.mem.filter (fun p => decide (p.1 < a) || decide (a + n ≤ p.1))
    side := s.side.filter (fun p => decide (32 * p.1 < a) || decide (a + n ≤ 32 * p.1)) }

/-- The cells of a map as items from an offset on. -/
def cellItems (o : Nat) (l : Label) (m : List Host.Cell) : List Item := m.map (fun p => ⟨o + p.1, [p.2], l, false⟩)

/-- The tag with which a save writes a capability (17 R390). -/
def State.saveTag (s : State) (k : TCap) : Bool := k.tag && !s.isRevoked k

/-- The items of a group: control block, deferred faults, vector part (03 R65, R67). -/
def State.groupItems (s : State) (gr : Grid) (ar : Areas) (g : Group) (i : Nat) : List Item :=
  let c := 4096 * (ar.ctl + i)
  let v := 4096 * (ar.vec + i * gr.vecUnits)
  let side := v + gr.width * gr.vregs * 4
  let vat (n t : Nat) : Nat := v + t * gr.vregs * 4 + 4 * n
  [⟨c, g.ctlBytes gr.width, 0, false⟩] ++
  (List.range 3).map (fun n => ⟨c + 0x18 + 4 * n, [], mget 0 g.srlbl n, false⟩) ++
  [⟨c + 0x25, [], (List.range 8).foldl (fun l n => Label.max l (mget 0 g.clbl n)) 0, false⟩] ++
  (List.range 16).map (fun n => ⟨c + 0x30 + 8 * n, [], mget 0 g.plbl n, false⟩) ++
  (List.range 64).map (fun n => ⟨c + 0x100 + 8 * n, [], (g.ssd n).lbl, false⟩) ++
  (List.range 32).map (fun n => ⟨c + 0x100 + 16 * n, [], 0, s.saveTag (g.capPair (2 * n))⟩) ++
  [⟨c + 0x400, [], 0, s.saveTag g.kcode⟩, ⟨c + 0x4F0, [], 0, s.saveTag g.frame.kcode⟩] ++
  [⟨4096 * (ar.defer + 16 * i), g.deferBytes, 0, false⟩] ++
  g.v.map (fun p => ⟨vat (p.1 / 64) (p.1 % 64), bytesOfNat 4 p.2.toNat, (g.vsd (p.1 / 64)).lbl, false⟩) ++
  g.vside.flatMap (fun p =>
    ⟨side + 4 * p.1, bytesOfNat 4 p.2.word, 0, false⟩ ::
      (List.range gr.width).map (fun t => ⟨vat p.1 t, [], p.2.lbl, false⟩)) ++
  g.vtag.map (fun p => ⟨vat (4 * (p.1 / 64)) (p.1 % 64), [], 0, p.2 && s.saveTag (g.capQuad (4 * (p.1 / 64)) (p.1 % 64))⟩)

/-- The header of a core image (03 R66). -/
def headerBytes (gr : Grid) (t : Team) (r : CoreRes) (member : Nat) : List Byte :=
  let gmask := (gr.gidsAt member).foldl (fun a g => a + 2 ^ g) 0
  let tile (n : Nat) : List Byte :=
    let x := mget Tile.zero r.tiles n
    bytesOfNat 8 (x.lbl.toNat + (if x.co then 4 + 65536 * (x.keycol % 4096) else 0))
  let acc (n : Nat) : List Byte :=
    let x := mget Acc.zero r.accs n
    bytesOfNat 4 (x.lbl.toNat + (if x.stream then 4 else 0) + (if x.unwaited then 8 else 0))
  bytesOfNat 2 1 ++ [BitVec.ofNat 8 (if gr.pair then member + 1 else 0), BitVec.ofNat 8 (Nat.log2 (gr.width / 16))] ++
  bytesOfNat 4 t.kid ++ bytesOfNat 4 gmask ++ bytesOfNat 2 gr.vregs ++ bytesOfNat 2 gr.tarn ++
  [BitVec.ofNat 8 gr.tiles, BitVec.ofNat 8 gr.accs, BitVec.ofNat 8 gr.mscr, BitVec.ofNat 8 r.slot] ++
  List.replicate 44 0 ++ (List.range 8).flatMap tile ++ (List.range 16).flatMap acc

/-- The team-state area (03 R65; 09 R217; 10 R232; 15 R339). -/
def State.teamItems (s : State) (o : Nat) (t : Team) : List Item :=
  t.guards.map (fun p => ⟨o + p.1, [p.2.code], 0, false⟩) ++
  t.bars.map (fun p => ⟨o + 0x40 + 8 * p.1, bytesOfNat 8 p.2.word, 0, false⟩) ++
  t.binds.flatMap (fun p => [
    ⟨o + 0x100 + 32 * p.1, bytesOfNat 16 p.2.sync.bits.toNat, 0, s.saveTag p.2.sync⟩,
    ⟨o + 0x110 + 32 * p.1, bytesOfNat 16 p.2.region.bits.toNat, 0, s.saveTag p.2.region⟩]) ++
  t.mrecs.map (fun p => ⟨o + 0x400 + 16 * p.1, bytesOfNat 16 p.2.word, 0, false⟩) ++
  t.streams.map (fun p => ⟨o + 0x500 + 4 * p.1, bytesOfNat 4 p.2.word, 0, false⟩)

/-- The items of a core image. -/
def State.imageItems (s : State) (gr : Grid) (t : Team) (r : CoreRes) (member : Nat) : List Item :=
  let ar := gr.areas member
  let gs := (gr.gidsAt member).filterMap (s.group? t.id)
  let line (l : Nat) : List Item :=
    let x := mget TLine.clear r.tline l
    [⟨4096 * ar.tline + l, [BitVec.ofNat 8 ((if x.awaits.isEmpty then 1 else 0) + 2 * x.lbl.toNat)], 0, false⟩,
      ⟨4096 * ar.tarn + 128 * l, [], x.lbl, false⟩, ⟨4096 * ar.tarn + 128 * l + 32, [], x.lbl, false⟩,
      ⟨4096 * ar.tarn + 128 * l + 64, [], x.lbl, false⟩, ⟨4096 * ar.tarn + 128 * l + 96, [], x.lbl, false⟩]
  let tile (p : Nat × Tile) : List Item :=
    let o := 4096 * (ar.tile + 16 * p.1)
    cellItems o 0 p.2.bytes ++ (if p.2.lbl = 0 then [] else (List.range 2048).map (fun j => ⟨o + 32 * j, [], p.2.lbl, false⟩))
  let acc (p : Nat × Acc) : List Item :=
    let o := 4096 * (ar.acc + 20 * p.1)
    p.2.el.map (fun q => ⟨o + 4 * q.1, bytesOfNat 4 q.2.toNat, 0, false⟩) ++
      (if p.2.lbl = 0 then [] else (List.range 2560).map (fun j => ⟨o + 32 * j, [], p.2.lbl, false⟩))
  [⟨0, headerBytes gr t r member, 0, false⟩] ++ gs.zipIdx.flatMap (fun p => s.groupItems gr ar p.1 p.2) ++
  r.tiles.flatMap tile ++ r.accs.flatMap acc ++ cellItems (4096 * ar.mscr) 0 r.mscr ++
  cellItems (4096 * ar.tarn) 0 r.tarn ++ (List.range (32 * gr.tarn)).flatMap line ++
  (if member = 0 then s.teamItems (4096 * ar.team) t else [])

/-- Write a core image at an address. Each of its sectors takes the label of what is stored there (03 R65), which may lower it (18
R395 lists no such fall: DEDUCED, log entry 113). -/
def State.writeImage (s : State) (gr : Grid) (t : Team) (r : CoreRes) (member base : Nat) : State :=
  let ar := gr.areas member
  let s1 := (s.imageItems gr t r member).foldl (fun s x => s.putItem base x) (s.clearRange base (4096 * ar.size))
  r.tiles.foldl (fun s p => if p.2.co then s.markCo (base + 4096 * (ar.tile + 16 * p.1)) 0x10000 else s) s1

/-- Write a directory entry; VALID comes last. -/
def State.writeDir (s : State) (c : Ctx) (i : Nat) (tag : DWord) (kid core off len : Nat) : State :=
  s.putItem (c.dirAt i) ⟨0, bytesOfNat 8 tag.toNat ++ bytesOfNat 4 kid ++ bytesOfNat 2 core ++ [1, 0] ++ bytesOfNat 4 off ++
    bytesOfNat 4 len ++ List.replicate 8 0, 0, false⟩

/-! ### Saving (19 R434) -/

/-- A fault-ring record for a team that terminates (19 R420 rule 1). -/
def State.teamRecord (s : State) (t : Team) (code : Byte) (faddr : Nat) : State :=
  match s.grid? t.grid with
  | none => s
  | some gr =>
    (s.snapFault code gr.fn).faultRecord gr.fn ⟨gr.tag, t.kid, t.leader, 0, code, 0, BitVec.ofNat 64 faddr, 0, 0, gr.colour, false, true, t.id⟩

/-- Steps 2 to 5 have ended. -/
def State.settled (s : State) (t : Team) : Bool :=
  let gs := s.teamGroups t.id
  !s.anyRunning t.id &&
    (s.teamOps t.id).all (fun o => o.done || (o.kind.isDrain && o.begun)) &&
    gs.all (fun g => !g.anyWaiting (fun _ _ => true)) &&
    s.wins.all (fun p => !s.winReady p.2 ||
      (match s.winTgt p.2.addr with
        | some (.grp team _ _) => team != t.id
        | some (.tile team _ _ _) => team != t.id
        | some (.acc team _ _ _) => team != t.id
        | some (.mscr team _ _) => team != t.id
        | some (.tarn team _ _) => team != t.id
        | none => true))

/-- A group as it is recorded: one that waits for a condition evaluated again stands at its instruction (19 R435). -/
def Group.recorded (g : Group) : Group :=
  match g.wait, g.waitAt with
  | .acqGe _ _ _, some w => { g.backTo w with run := { w.run with resumed := true } }
  | .dredge _, some w => { g.backTo w with run := { w.run with resumed := true } }
  | _, _ => g

/-- The sector of the first word with an uncorrectable error in what a save of a team reads (19 R420, 20 R437). -/
def State.saveBad (s : State) (t : Team) : Option Nat :=
  let core (r : CoreRes) : Option Nat :=
    (((r.tiles.findSome? (fun p => (p.2.bad.head?).map (fun w => s.blockAt r false (0x400000 + p.1 * 0x10000 + 4 * w)))).or
      (s.accBad [r] (r.accs.map (·.1)))).or
      ((r.mbad.head?).map (fun w => s.blockAt r false (0xA00000 + 4 * w)))).or
      ((r.tbad.head?).map (fun w => s.blockAt r true (4 * w)))
  ((s.teamGroups t.id).findSome? (fun g =>
    (g.vbad.find? (fun k => decide (k < 65536))).map (fun k => s.vSector t g (some (k / 64, k % 64))))).or
    (t.cores.findSome? core)

/-- What a core keeps while its team is SAVED: its place, the commands that its tarn lines wait for (14 R321), and which
tile registers are compute-only under which key, since their team stays a party of that key's session (18 R417). -/
def CoreRes.shell (r : CoreRes) : CoreRes :=
  { r with
    tarn := [], mscr := [], tbad := [], mbad := []
    tiles := r.tiles.foldl (fun m p =>
      mset Tile.zero m p.1 (if p.2.co then { Tile.zero with co := true, keycol := p.2.keycol } else Tile.zero)) []
    tline := r.tline.foldl (fun m p => mset TLine.clear m p.1 { p.2 with lbl := 0 }) []
    accs := r.accs.foldl (fun m p => mset Acc.zero m p.1 { Acc.zero with inner := p.2.inner }) [] }

/-- The flags of operations without an `mwait` go to PFLAGS (09 R216). -/
def State.foldFlags (s : State) (team : Nat) : State :=
  let s1 := (s.teamOps team).foldl (fun s o => s.modRec team o.acc (fun m => { m with pflags := m.pflags ||| o.flags })) s
  { s1 with arrops := (s1.arrops.filter (fun p => p.2.team != team || !p.2.done)).map (fun p =>
      (p.1, if p.2.team = team then { p.2 with flags := 0 } else p.2)) }

/-- TEAM_SAVE (19 R434): once its work has settled, the images are written and the team is SAVED. -/
def execTeamSave (team : Nat) (s : State) : Host.Outcome State Fault Refusal :=
  match s.team? team with
  | none => .next s
  | some t0 =>
    match s.grid? t0.grid with
    | none => .next s
    | some gr =>
      match s.ctx? gr.colour with
      | none => .next s
      | some c =>
        if t0.status != .saving || t0.term.isSome || !s.settled t0 then .next s
        else
          let s1 := (s.foldFlags team).modGroups team Group.recorded
          let t := (s1.team? team).getD t0
          match placeAll (c.saveLen / 4096) gr.imageSizes (s1.dirUsed c) with
          | none => .next { s.setTeam { t0 with status := .admitted } with
              claims := s.claims.filter (fun k => !k.victims.contains team) }
          | some offs =>
            let parts := (t.cores.zipIdx).zip offs
            let bad := (s1.saveBad t).or ((parts.findSome? (fun p =>
              (List.range (gr.areas p.1.2).size).findSome? (fun u => s1.badSec? (c.saveBase + 4096 * (p.2 + u)) 4096))).map (32 * ·))
            match bad with
            | some a => .next ((s1.teamRecord t cUNCORR a).terminateTeam team cUNCORR)
            | none =>
              let s2 := parts.foldl (fun s p => s.writeImage gr t p.1.1 p.1.2 (c.saveBase + 4096 * p.2)) s1
              let s3 := parts.foldl (fun s p =>
                match (List.range 8192).find? (fun i => !s.dirValid c i) with
                | some i => s.writeDir c i gr.tag t.kid p.1.1.core p.2 (gr.areas p.1.2).size
                | none => s) s2
              let s4 := s3.modGroups team (fun g => { g with met := false })
              .next (s4.setTeam { t with status := .saved, cores := t.cores.map CoreRes.shell, calmed := false })

/-! ### Restoring (19 R436, 03 R68) -/

/-- A restored group stops with ILLEGAL_OPERAND at the address of a saved field (03 R68, 19 R420). -/
def State.restoreStop (s : State) (g : Group) (gr : Grid) (t : Team) (addr : Nat) : State :=
  let fr : Frame := { Frame.zero with code := cILOPER, fthread := 0xFF, faddr := BitVec.ofNat 64 addr }
  (s.snapFault cILOPER gr.fn).stopGroup { g with frame := fr } gr t gr.fn fr false

/-- Raise a label by those of the sectors that a value is read from. -/
def State.readLbl (s : State) (l : Label) (a n : Nat) : Label := Label.max l (s.lblAt a n)

/-- A capability read by a restore: its tag comes from the side band, and a marked one is untagged (17 R390). -/
def State.loadTag (s : State) (a : Nat) : Bool :=
  s.tagAt a && !s.isRevoked ⟨BitVec.ofNat 128 (natOfBytes (bytesAt s.mem a 16)), true⟩

/-- The address of the first field of a group's part of an image that the restore refuses (03 R68). -/
def State.groupBad (s : State) (gr : Grid) (ar : Areas) (g : Group) (base i : Nat) : Option Nat :=
  let c := base + 4096 * (ar.ctl + i)
  let d := base + 4096 * (ar.defer + 16 * i)
  let side := base + 4096 * (ar.vec + i * gr.vecUnits) + gr.width * gr.vregs * 4
  let b := span s.mem c 4096
  let b' := (g.withCtl gr.width b (fun _ => false)).ctlBytes gr.width
  match ctlBad b b' with
  | some o => some (c + o)
  | none =>
    match (List.range 2048).findSome? (fun j => (recordBad (bytesAt s.mem (d + 32 * j) 32) gr.width).map (fun o => d + 32 * j + o)) with
    | some a => some a
    | none =>
      ((List.range gr.vregs).find? (fun n =>
        let w := natOfBytes (bytesAt s.mem (side + 4 * n) 4)
        sideMask w != (sideOf w).word)).map (fun n => side + 4 * n)

/-- The vector registers of a group from its part of an image. -/
def State.readVector (s : State) (gr : Grid) (v : Nat) (g : Group) : Group :=
  let at_ (n t : Nat) : Nat := v + t * gr.vregs * 4 + 4 * n
  let side := v + gr.width * gr.vregs * 4
  let ns := List.range gr.vregs
  let ts := List.range gr.width
  { g with
    v := ns.foldl (fun m n => ts.foldl (fun m t =>
      mset 0 m (64 * n + t) (BitVec.ofNat 32 (natOfBytes (bytesAt s.mem (at_ n t) 4)))) m) []
    vside := ns.foldl (fun m n =>
      let d := sideOf (natOfBytes (bytesAt s.mem (side + 4 * n) 4))
      mset Side.clear m n { d with lbl := ts.foldl (fun l t => s.readLbl l (at_ n t) 4) d.lbl }) []
    vtag := (List.range (gr.vregs / 4)).foldl (fun m q => ts.foldl (fun m t =>
      mset false m (64 * q + t) (s.loadTag (at_ (4 * q) t))) m) [] }

/-- A group from its part of an image. What the image does not hold is kept from the record of the group: the run that
stopped, the accesses of a wait, the loads whose elements are undelivered. -/
def State.readGroup (s : State) (gr : Grid) (ar : Areas) (g : Group) (base i : Nat) : Group :=
  let c := base + 4096 * (ar.ctl + i)
  let b := span s.mem c 4096
  let g1 := g.withCtl gr.width b (fun o => s.loadTag (c + o))
  let g2 := s.readVector gr (base + 4096 * (ar.vec + i * gr.vecUnits)) g1
  let recs := (List.range 2048).map (fun j => bytesAt s.mem (base + 4096 * (ar.defer + 16 * i) + 32 * j) 32)
  { g2 with
    srlbl := (List.range 3).foldl (fun m n => mmod 0 m n (fun l => s.readLbl l (c + 0x18 + 4 * n) 4)) g2.srlbl
    clbl := (List.range 8).foldl (fun m n => mmod 0 m n (fun l => s.readLbl l (c + 0x25) 1)) g2.clbl
    plbl := (List.range 16).foldl (fun m n => mmod 0 m n (fun l => s.readLbl l (c + 0x30 + 8 * n) 8)) g2.plbl
    sside := (List.range 64).foldl (fun m n =>
      mmod Side.clear m n (fun d => { d with lbl := s.readLbl d.lbl (c + 0x100 + 8 * n) 8 })) g2.sside
    loads := restoreLoads s.now g.nextIseq g.loads recs
    lats := [], aged := false, stall := false, readySince := s.clk, vbad := []
    qstamp := [0, 1, 2, 3, 4, 5, 6, 7].foldl (fun m n => mset 0 m n s.now) []
    admitStamp := s.now, acquiredRanges := [] }

/-- The value of a uniform operand in a group's registers (04 R78). -/
def Group.uniformVal (g : Group) (width kid : Nat) (x : Src) : DWord :=
  match x with
  | .s n => g.sget n.val
  | .gid => BitVec.ofNat 64 g.gid
  | .kid => BitVec.ofNat 64 kid
  | .width => BitVec.ofNat 64 width
  | .imm n => BitVec.ofInt 64 ((n.val : Int) - 256)
  | _ => 0

/-- The recorded condition of a restored group (02 R45, 19 R435, R436), before it is evaluated: one that became true while the team
was SAVED leaves the group READY, and so does a cause of a replay that is gone. Where the condition is that of an instruction which
is executed again, what the word does not hold comes from the record of the group (the lines, the scope), and the threshold of
`acq.ge` from its operand in the restored registers; a word that names another condition than the group's leaves it READY, to execute
its instruction again. -/
def Group.resume (g old : Group) (width kid : Nat) : Group :=
  let ready : Group := { g with status := .ready, wait := .none, waitAt := none, stopCode := 0 }
  let past : Group := { g with waitAt := old.waitAt }
  let here : Group := { g with waitAt := old.waitAt.map (fun w => { w with threads := g.threads }) }
  if old.met then (match g.status with | .stopped => { g with wait := .none, waitAt := none } | .exited => g | _ => ready)
  else
    match g.status with
    | .waiting =>
      match g.wait, old.wait with
      | .qwait _, _ => past
      | .mwait _, _ => past
      | .ewait _, _ => past
      | .sleep _, _ => past
      | .acqGe _ _ _, .acqGe e scope thr =>
        { here with wait := .acqGe e scope (match old.waitAt with
          | some w => g.uniformVal width kid (Src.ofCode (w.word.ops.getD 1 0).toNat)
          | none => thr) }
      | .dredge _, .dredge n => { here with wait := .dredge n }
      | .hold _, .hold ns => { here with wait := .hold ns }
      | _, _ => ready
    | .barrier => (match g.wait with | .bar _ _ => g | _ => ready)
    | .parked => (match g.wait, old.wait with | .park _, .park ls => { g with wait := .park ls } | _, _ => ready)
    | .replayable =>
      match old.status, old.wait with
      | .replayable, .page a st => { g with wait := .page a st }
      | _, _ => ready
    | .stopped => { g with wait := .none, waitAt := none }
    | .exited => { g with wait := .none, waitAt := none, loads := [] }
    | _ => { g with wait := .none, waitAt := none }

/-- A barrier whose wait ended while the team was SAVED, or that no longer counts the group. -/
def Group.barCheck (g : Group) (bars : List (Nat × Barrier)) : Group :=
  match g.status, g.wait with
  | .barrier, .bar n _ =>
    if (mget Barrier.zero bars n).arrived.getLsbD g.gid then g else { g with status := .ready, wait := .none }
  | _, _ => g

/-- The tiles, accumulators, mere scratch and tarn of a core from its image. The compute-only data of a tile whose KEYCOL is not the
one that it was saved under are decrypted with another key: they read as free values (03 R68, 18 R404). -/
def State.readCore (s : State) (gr : Grid) (ar : Areas) (r : CoreRes) (base : Nat) : CoreRes :=
  let u (o n : Nat) : Nat := natOfBytes (bytesAt s.mem (base + o) n)
  let tileAt (n : Nat) : Nat := base + 4096 * (ar.tile + 16 * n)
  let accAt (n : Nat) : Nat := base + 4096 * (ar.acc + 20 * n)
  let cells (a n : Nat) : List Host.Cell := cellsOf 0 (span s.mem a n)
  let acc (n : Nat) : Acc :=
    let w := u (0x80 + 4 * n) 4
    let words := (span s.mem (accAt n) 81920).toArray
    let word (j : Nat) : Word := BitVec.ofNat 32 (natOfBytes ((List.range 4).map (fun b => words.getD (4 * j + b) 0)))
    let el := (List.range 20480).foldl (fun m j => mset 0 m j (word j)) []
    ⟨el, s.readLbl (BitVec.ofNat 2 w) (accAt n) 81920, w / 4 % 2 == 1, w / 8 % 2 == 1,
      (mget Acc.zero r.accs n).inner && w / 8 % 2 == 1, []⟩
  { r with
    tiles := (List.range gr.tiles).foldl (fun m n =>
      let co := s.coAt (tileAt n) 0x10000
      let w := u (0x40 + 8 * n) 8
      let key := if co then w / 65536 % 4096 else 0
      let old := mget Tile.zero r.tiles n
      let data := if co && old.co && old.keycol != key then
          cellsOf 0 ((List.range 0x10000).map (fun j => Config.freeByte s.free (0x10000 * (16 * r.core + n) + j)))
        else cells (tileAt n) 0x10000
      let t : Tile := ⟨data, s.readLbl (BitVec.ofNat 2 w) (tileAt n) 0x10000, co, key, []⟩
      mset Tile.zero m n t) []
    accs := (List.range gr.accs).foldl (fun m n => mset Acc.zero m n (acc n)) []
    mscr := cells (base + 4096 * ar.mscr) (16384 * gr.mscr)
    tarn := cells (base + 4096 * ar.tarn) (4096 * gr.tarn)
    tline := (List.range (32 * gr.tarn)).foldl (fun m l =>
      let lb := s.readLbl (BitVec.ofNat 2 (u (4096 * ar.tline + l) 1 / 2)) (base + 4096 * ar.tarn + 128 * l) 128
      mset TLine.clear m l { (mget TLine.clear r.tline l) with lbl := lb }) [] }

/-- The stream of an accumulator from its word and the image in mere scratch, its label ids as the row headers hold them (10 R232). -/
def restoreStream (w : Nat) (mscr : List Host.Cell) : SWord :=
  let base := w % 16 * 16384
  let h := bytesAt mscr base 64
  let u (o n : Nat) : Nat := imgNat h o n
  if w / 16 % 2 = 0 then SWord.none
  else
    { live := true, pairs := w / 32 % 2 == 1, sbase := w % 16, k := u 0 2, nlbl := u 2 1, nsh := u 6 1, vlim := u 8 4
      lscale := BitVec.ofNat 32 (u 12 4), shlo := u 4 1, shhi := u 5 1, lids := (pieces 64 160 ((span mscr base 10304).drop 64)).flatMap (fun h => wordsOf (h.drop 0x10) 4) }

/-- The offset of the first field of a stream header that a restore refuses (10 R232, R220, R225). -/
def streamBad (w : SWord) (mscr : List Host.Cell) : Option Nat :=
  let h := bytesAt mscr w.base 64
  let u (o n : Nat) : Nat := imgNat h o n
  let bad : List (Nat × Bool) := [
    (0x00, w.k == 0 || decide (w.k > 256)), (0x02, decide (w.nlbl > 4)), (0x03, decide (u 3 1 ≥ 4)),
    (0x04, decide (w.shlo > w.shhi)), (0x05, decide (w.shhi ≥ w.nsh)), (0x06, w.nsh == 0 || decide (w.nsh > 64)),
    (0x07, decide (u 7 1 ≥ 4)), (0x0C, !posFinite w.lscale), (0x10, u 0x10 2 != 1), (0x12, !zeroAt h 0x12 46)]
  if w.live then (bad.find? (·.2)).map (·.1) else none

/-- The drains and receives that matrix records name (09 R216): the sender notifies again, and what its receiver held of it before
the save is gone; the receiver resumes. -/
def State.rearm (s0 : State) (t : Team) (pair : Bool) : State :=
  let s := s0.dropSender t.id
  let keep := s.arrops.filter (fun p => p.2.team != t.id)
  (List.range 16).foldl (fun s n =>
    let m := mget MRec.zero t.mrecs n
    let add (s : State) (k : ArrKind) (bad : Option Nat) (begun : Bool) : State :=
      let (id, s1) := s.fresh
      { s1 with arrops := mput s1.arrops id ⟨id, t.id, n, pair, k, 0, bad, false, begun, 0, []⟩ }
    let s1 := if m.draining then add s (.mdrain m.tcig m.tteam m.tacc) none false else s
    if m.armed then add s1 (.mrecv m.expect m.rslot) (if m.err = cUNCORR ∧ m.done ≠ 0 then some m.errAt else none) true else s1) { s with arrops := keep }

/-- The team-state area at `o`: guards, barriers, bindings, records and streams, whose images lie in mere scratch at `m`. With it come the
addresses of what the restore refuses there: of the first barrier word, which stops the lowest-numbered group (15 R339: true), and
of the first matrix record, stream word or field of a stream header, which stops the issuing group (09 R217, 10 R232: false). -/
def State.readTeam (s : State) (gr : Grid) (t : Team) (o m : Nat) (lead : CoreRes) (fol : Option CoreRes) :
    Team × List (Nat × Bool) :=
  let u (x n : Nat) : Nat := natOfBytes (bytesAt s.mem (o + x) n)
  let cap (x : Nat) : TCap := ⟨BitVec.ofNat 128 (u x 16), s.loadTag (o + x)⟩
  let t1 : Team := { t with
    guards := (List.range gr.guards).foldl (fun m n => mset .unresolved m n (guardOf (BitVec.ofNat 8 (u n 1)))) []
    bars := (List.range gr.bars).foldl (fun m n =>
      mset Barrier.zero m n ⟨BitVec.ofNat 16 (u (0x44 + 8 * n) 2), BitVec.ofNat 32 (u (0x40 + 8 * n) 4)⟩) []
    binds := (List.range gr.binds).foldl (fun m n =>
      let b : Binding := ⟨cap (0x100 + 32 * n), cap (0x110 + 32 * n), s.now, s.now⟩
      mset Binding.empty m n (if b.sync.bits = 0 ∧ b.region.bits = 0 ∧ !b.sync.tag ∧ !b.region.tag then Binding.empty else b)) []
    mrecs := (List.range gr.accs).foldl (fun m n =>
      mset MRec.zero m n ((mget MRec.zero t.mrecs n).withWord (u (0x400 + 16 * n) 16))) []
    streams := (List.range gr.accs).foldl (fun m n =>
      mset SWord.none m n (restoreStream (u (0x500 + 4 * n) 4) lead.mscr)) [] }
  let badBar := (List.range gr.bars).find? (fun n =>
    u (0x46 + 8 * n) 2 != 0 || decide (u (0x40 + 8 * n) 4 ≥ 2 ^ gr.ngroups))
  let badRec := (List.range 16).find? (fun n => decide (u (0x400 + 16 * n) 16 ≥ 2 ^ 112))
  let badStr := (List.range gr.accs).filterMap (fun n =>
    let w := mget SWord.none t1.streams n
    if u (0x500 + 4 * n) 4 ≥ 64 ∨ w.live ≠ (mget Acc.zero lead.accs n).stream ∨
        fol.any (fun r => (w.live && w.pairs) != (mget Acc.zero r.accs n).stream) then some (o + 0x500 + 4 * n)
    else (streamBad w lead.mscr).map (fun x => m + w.base + x))
  let issuing := (badRec.map (fun n => o + 0x400 + 16 * n)).toList ++ badStr
  (t1, (badBar.map (fun n => (o + 0x40 + 8 * n, true))).toList ++
    (match issuing with
      | [] => []
      | a :: rest => [(rest.foldl min a, false)]))

/-- The group that a refused part of the team state stops. -/
def State.stopsAt (s : State) (gr : Grid) (t : Team) (lowest : Bool) : Option Nat :=
  if lowest then ((s.teamGroups t.id).find? (fun g => g.status != .exited)).map (·.gid) else gr.issuer

/-- Stop the groups that refused parts of the team state stop, but for those that their own part of the image has stopped already: the
fault of a group is that of the first field (03 R68). -/
def State.stopFor (s : State) (gr : Grid) (t : Team) (stopped : List Nat) : List (Nat × Bool) → State
  | [] => s
  | (addr, lowest) :: rest =>
    match s.stopsAt gr t lowest with
    | none => s.stopFor gr t stopped rest
    | some gid =>
      if stopped.contains gid then s.stopFor gr t stopped rest
      else
        match s.group? t.id gid with
        | some g => (s.restoreStop g gr t addr).stopFor gr t (gid :: stopped) rest
        | none => s.stopFor gr t stopped rest

/-- Restore one group, or stop it. When all its threads are HELD, their values are tested (15 R333). -/
def State.restoreGroup (s : State) (gr : Grid) (t : Team) (ar : Areas) (base gid i : Nat) : State :=
  match s.group? t.id gid with
  | none => s
  | some old =>
    let g0 := ((s.readGroup gr ar old base i).resume old gr.width t.kid).barCheck t.bars
    let calm (h : Thread) : Thread := if t.calmed then { h with demoted := false, dleft := 0 } else h
    let g : Group := { g0 with threads := meetAll (g0.threads.map calm), met := false }
    match s.groupBad gr ar old base i with
    | some a => s.restoreStop g gr t a
    | none => s.setGroup g

/-- Every recorded condition of a restored team is evaluated (02 R45, 19 R436). -/
def State.wakeTeam (s : State) (team : Nat) (gr : Grid) (c : Ctx) : State :=
  (s.teamGroups team).foldl (fun s g =>
    match s.group? team g.gid, s.team? team with
    | some g, some t => s.wake g t gr c
    | _, _ => s) s

/-- The resources of a SAVED team are free again: its slots, its capacity, its groups' slots (02 R47, 16 R353). -/
def State.canRestore (s : State) (t : Team) (gr : Grid) : Bool :=
  t.status == .saved && t.term.isNone && !s.frozenTeam (s.fnOfTeam t.id) t.id &&
    t.cores.all (fun r => !(s.slotsOn r.core).contains r.slot) &&
    (s.teamGroups t.id).all (fun g => !(s.groupSlots g.core g.quad).contains g.slot) &&
    s.seatFits gr [] (t.cores.map (·.core))

/-- Restore a SAVED team from its core images. -/
def State.restoreTeam (s : State) (t : Team) (gr : Grid) (c : Ctx) : State :=
  let parts : List ((CoreRes × Nat) × Nat) := t.cores.zipIdx.map (fun p =>
    (p, c.saveBase + 4096 * (((s.dirOf c gr.tag t.kid).filterMap (fun i =>
      if natOfBytes (bytesAt s.mem (c.dirAt i + 12) 2) = p.1.core then some (natOfBytes (bytesAt s.mem (c.dirAt i + 16) 4))
      else none)).headD 0)))
  let bad := parts.findSome? (fun p =>
    (List.range (gr.areas p.1.2).size).findSome? (fun u => s.badSec? (p.2 + 4096 * u) 4096))
  match bad with
  | some sec => (s.teamRecord t cUNCORR (32 * sec)).terminateTeam t.id cUNCORR
  | none =>
    let cores := parts.map (fun p => s.readCore gr (gr.areas p.1.2) p.1.1 p.2)
    let lead := cores.headD (CoreRes.fresh 0 0)
    let base := (parts.headD ((lead, 0), 0)).2
    let (t1, badT) := s.readTeam gr { t with cores := cores, status := .admitted } (base + 4096 * (gr.areas 0).team)
      (base + 4096 * (gr.areas 0).mscr) lead (cores[1]?)
    let stopped := parts.flatMap (fun p => (gr.gidsAt p.1.2).zipIdx.filterMap (fun q =>
      (s.group? t.id q.1).bind (fun g => (s.groupBad gr (gr.areas p.1.2) g p.2 q.2).map (fun _ => q.1))))
    let s1 := ({ s with free := s.free + 1 }.clearDir t).setTeam t1
    let s2 := parts.foldl (fun s p =>
      (gr.gidsAt p.1.2).zipIdx.foldl (fun s q => s.restoreGroup gr t1 (gr.areas p.1.2) p.2 q.1 q.2) s) s1
    let t2 : Team := { t1 with calmed := false }
    let s3 := ((((s2.setTeam t2).rearm t2 gr.pair).stopFor gr t2 stopped badT).wakeTeam t.id gr c)
    if (s3.teamGroups t.id).all (fun g => g.status == .exited) then s3.modTeam t.id (fun t => { t with status := .draining })
    else s3

end Sys2Proof.Machine
end

