-- ==== Sys2Proof/Machine/Admit.lean ====
section
/-! DEFINITION. Machine/Admit.lean: the dispatcher: the unit it chooses for a function (16 R350), the victims it saves for
one (R352), and the function it serves next (R349). -/

namespace Sys2Proof.Machine

open Sys2Proof

/-! ### Victims (16 R352) -/

/-- The sublists of a list, shorter choices of early members first. -/
def subsets {α : Type} : List α → List (List α)
  | [] => [[]]
  | x :: xs => (subsets xs) ++ (subsets xs).map (fun r => x :: r)

/-- The sublists of n members, in lexical order. -/
def chooseN {α : Type} : Nat → List α → List (List α)
  | 0, _ => [[]]
  | _ + 1, [] => []
  | n + 1, x :: xs => (chooseN n xs).map (fun r => x :: r) ++ chooseN (n + 1) xs

/-- One choice from each of a list of lists, joined. -/
def product {α : Type} : List (List (List α)) → List (List α)
  | [] => [[]]
  | c :: cs => c.flatMap (fun x => (product cs).map (fun r => x ++ r))

/-- Every placement that 16 R351 could give a unit, first those that it would take first. -/
def State.placements (s : State) (c : Ctx) (gr : Grid) : List (List (List Nat)) :=
  if gr.vcl = 0 then (s.clusters c).flatMap (fun cl => (s.seats c gr.pair cl).map (fun x => [x]))
  else (chooseN gr.gang (s.clusters c)).flatMap (fun cls =>
    product (cls.map (fun cl => chooseN gr.vcl (s.seats c gr.pair cl))))

/-- A team may be a victim for a unit of priority P of a function. -/
def State.victimOk (s : State) (prio fn : Nat) (t : Team) : Bool :=
  t.status == .admitted && t.term.isNone &&
    (match s.grid? t.grid with
      | some g => decide (prio < g.prio) || ((s.fn g.fn).weight == 0 && (s.fn fn).weight != 0)
      | none => false)

/-- The teams saved together with a team: those of its gang (16 R352). -/
def State.block (s : State) (t : Team) : List Nat :=
  match s.grid? t.grid with
  | some g =>
    if g.vcl = 0 then [t.id]
    else (s.teams.filter (fun p => p.2.grid == t.grid && p.2.status == .admitted &&
      p.2.kid / (g.vcl * g.gang) == t.kid / (g.vcl * g.gang))).map (·.1)
  | none => [t.id]

/-- The blocks that touch the cores of a placement. -/
def State.blocksOn (s : State) (prio fn : Nat) (place : List (List Nat)) : List (List Nat) :=
  (s.teams.filterMap (fun p =>
    if s.victimOk prio fn p.2 && p.2.cores.any (fun r => place.any (fun seat => seat.contains r.core)) then some (s.block p.2)
    else none)).eraseDups

/-- Every context's images of a set of victims fit its save area. -/
def State.allFit (s : State) (vs : List Nat) : Bool :=
  s.ctxs.all (fun p =>
    let mine := vs.filter (fun v => ((s.team? v).bind (fun t => s.grid? t.grid)).any (fun g => g.colour == p.1))
    mine.isEmpty || s.savesFit p.2 mine)

/-- The sets of victims whose saving frees a placement. -/
def State.victimSets (s : State) (gr : Grid) (place : List (List Nat)) : List (List Nat) :=
  ((subsets (s.blocksOn gr.prio gr.fn place)).map List.flatten).filter (fun vs =>
    !vs.isEmpty && place.all (s.seatFits gr vs) && s.allFit vs)

/-- The preference of a team as a victim: PRIO, then the cycle of admission, then the grid, then `kid`. -/
def State.prefKey (s : State) (v : Nat) : List Nat :=
  match s.team? v with
  | some t => [((s.grid? t.grid).map (·.prio)).getD 0, t.admitClk, t.grid, t.kid]
  | none => []

/-- A key is before another in lexical order. -/
def keyLt : List Nat → List Nat → Bool
  | [], _ => false
  | _ :: _, [] => false
  | a :: as, b :: bs => decide (a < b) || (a == b && keyLt as bs)

/-- A list of keys ranks higher: the first difference decides. -/
def keysAbove : List (List Nat) → List (List Nat) → Bool
  | a :: as, b :: bs => keyLt b a || (a == b && keysAbove as bs)
  | _, _ => false

/-- The keys of a set in order of preference. -/
def State.prefKeys (s : State) (vs : List Nat) : List (List Nat) := sortBy (fun a b => keyLt b a) (vs.map s.prefKey)

/-- The placement and the victims that the dispatcher chooses for a unit. -/
def State.victims (s : State) (c : Ctx) (gr : Grid) : Option (List (List Nat) × List Nat) :=
  let all := (s.placements c gr).flatMap (fun p => (s.victimSets gr p).map (fun v => (p, v)))
  firstBy (fun (a b : List (List Nat) × List Nat) =>
    decide (a.2.length < b.2.length) ||
      (a.2.length == b.2.length && keysAbove (s.prefKeys a.2) (s.prefKeys b.2))) all

/-! ### The unit of a function (16 R350) -/

/-- What the dispatcher does next for a function. -/
inductive Plan where
  | restore (team : Nat)
  | seatUnit (grid : Nat) (place : List (List Nat))
  | preempt (grid : Nat) (place : List (List Nat)) (victims : List Nat)
  deriving DecidableEq, Repr

/-- The SAVED team of a function that is restored next: the lowest PRIO, then the one admitted first. -/
def State.savedNext (s : State) (fn : Nat) : Option Nat :=
  let ts := (s.teams.map (·.2)).filter (fun t =>
    t.status == .saved && ((s.grid? t.grid).any (fun g => g.fn == fn && s.canRestore t g)))
  (firstBy (fun a b => decide (s.prioOf a.id < s.prioOf b.id) || (s.prioOf a.id == s.prioOf b.id && decide (a.admitClk < b.admitClk)))
    ts).map (·.id)

/-- The victims of a claim are still being saved. -/
def State.savingFor (s : State) (c : Claim) : Bool :=
  c.victims.any (fun v => (s.team? v).any (fun t => t.status == .saving))

/-- What can be done for the next unit of a grid: place it, place it where its victims made room, or choose victims. -/
def State.gridPlan (s : State) (gr : Grid) : Option Plan :=
  match s.ctx? gr.colour with
  | none => none
  | some c =>
    let claim := s.claims.find? (fun k => k.grid == gr.id)
    if claim.any s.savingFor then none
    else
      match claim with
      | some k => if k.place.all (s.seatFits gr []) then some (.seatUnit gr.id k.place) else
          (s.placeBy c gr (s.seatFits gr [])).map (fun p => .seatUnit gr.id p)
      | none =>
        match s.placeBy c gr (s.seatFits gr []) with
        | some p => some (.seatUnit gr.id p)
        | none => (s.victims c gr).map (fun v => .preempt gr.id v.1 v.2)

/-- The accepted grids of a function with teams to admit, in order of PRIO and acceptance. -/
def State.gridOrder (s : State) (fn : Nat) : List Grid :=
  sortBy (fun a b => decide (a.prio < b.prio) || (a.prio == b.prio && decide (a.id < b.id)))
    ((s.grids.map (·.2)).filter (fun g => g.fn == fn && !g.complete && decide (g.nextKid < g.nteams)))

/-- The unit chosen for a function. -/
def State.plan (s : State) (fn : Nat) : Option Plan :=
  match s.savedNext fn with
  | some t => some (.restore t)
  | none => (s.gridOrder fn).findSome? s.gridPlan

/-- A function has a unit that can be served. -/
def State.hasUnit (s : State) (fn : Nat) : Bool :=
  match s.plan fn with
  | some (.restore _) => true
  | some (.seatUnit _ _) => true
  | _ => false

/-! ### The order of functions (16 R349) -/

/-- The function that the dispatcher serves next, and the deficits as it does. -/
def State.wdrrNext (s : State) : Option (Nat × List (Nat × Nat)) :=
  s.wdrrPick ⟨s.deficit, s.lastFn⟩ ((List.range 64).filter s.hasUnit)

/-- Serve the unit of a function. -/
def State.serve (s : State) (fn : Nat) : State :=
  match s.plan fn with
  | some (.restore id) =>
    match s.team? id with
    | some t =>
      match s.grid? t.grid with
      | some gr => match s.ctx? gr.colour with | some c => s.restoreTeam t gr c | none => s
      | none => s
    | none => s
  | some (.seatUnit grid place) => match s.grid? grid with | some gr => s.admitUnit gr place | none => s
  | _ => s

/-- TEAM_ADMIT (16 R349, R350): the dispatcher's turn is that of the function, and its unit is admitted or restored. -/
def execTeamAdmit (fn : Nat) (s : State) : Host.Outcome State Fault Refusal :=
  match s.wdrrNext with
  | some (f, d) =>
    if f = fn then .next { s.serve fn with deficit := mmod 0 d fn (fun n => n - 1), lastFn := fn } else .next s
  | none => .next s

/-- TEAM_RESTORE (19 R436): a SAVED team that its function restores next, in the function's turn (16 R349). -/
def execTeamRestore (team : Nat) (s : State) : Host.Outcome State Fault Refusal :=
  match (s.team? team).bind (fun t => s.grid? t.grid) with
  | none => .next s
  | some gr => if s.plan gr.fn = some (.restore team) then execTeamAdmit gr.fn s else .next s

/-- PREEMPTION (16 R352): the victims of the unit chosen for a function start to be saved. -/
def execPreemption (fn : Nat) (s : State) : Host.Outcome State Fault Refusal :=
  match s.plan fn with
  | some (.preempt grid place vs) =>
    .next { s with
      teams := mmap (fun t => if vs.contains t.id then { t with status := .saving } else t) s.teams
      claims := s.claims ++ [⟨grid, place, vs⟩] }
  | _ => .next s

end Sys2Proof.Machine
end

