-- ==== Sys2Proof/Machine/Manage.lean ====
section
/-! DEFINITION. Machine/Manage.lean: what the PF driver and the Dredge do: contexts (16 R348), grants and mints (17 R374,
R375), Dredge passes (17 R388 to R392), sealed imports (18 R400, R401), the TDI of a function (18 R411), and the end of a
session (18 R418) with its receipts (20 R443). -/

namespace Sys2Proof.Machine

open Sys2Proof

/-! ### Ranges -/

/-- [a, a + n) is covered by ranges of a list, within fuel. -/
def covered (rs : List (Nat × Nat)) : Nat → Nat → Nat → Bool
  | 0, _, n => n == 0
  | fuel + 1, a, n =>
    n == 0 ||
    (match rs.find? (fun r => decide (r.1 ≤ a) && decide (a < r.1 + r.2)) with
      | some r => covered rs fuel (r.1 + r.2) (a + n - (r.1 + r.2))
      | none => false)

/-- Every byte of [a, a + n) lies in ranges granted to a colour. -/
def State.grantedTo (s : State) (colour a n : Nat) : Bool :=
  covered ((s.granted.filter (fun r => r.colour == colour)).map (fun r => (r.base, r.len))) (s.granted.length + 1) a n

/-- The granted ranges of a colour, as (base, length). -/
def State.rangesOf (s : State) (colour : Nat) : List (Nat × Nat) :=
  (s.granted.filter (fun r => r.colour == colour)).map (fun r => (r.base, r.len))

/-- A retired page lies in [a, a + n) (20 R439). -/
def State.retiredIn (s : State) (a n : Nat) : Bool := s.retiredPages.any (fun p => overlaps (4096 * p) 4096 a n)

/-- The cells of [a, a + n) with given bytes. -/
def fillCells (f : Nat → Byte) : Nat → Nat → List Host.Cell
  | _, 0 => []
  | a, n + 1 => if f a = 0 then fillCells f (a + 1) n else (a, f a) :: fillCells f (a + 1) n

/-- A memory with the bytes of [a, a + n) replaced. -/
def fillRange (m : List Host.Cell) (a n : Nat) (f : Nat → Byte) : List Host.Cell :=
  m.filter (fun p => decide (p.1 < a)) ++ fillCells f a n ++ m.filter (fun p => decide (a + n ≤ p.1))

/-- The key of a range changes (17 R374, 18 R404): the bytes of its sectors that `hit` selects decrypt into free values. -/
def State.rekey (s : State) (a n : Nat) (hit : Nat → Bool) : State :=
  { s with
    mem := fillRange s.mem a n (fun x => if hit (x / 32) then Config.freeByte s.free x else byteAt s.mem x)
    free := s.free + 1 }

/-- The old ciphertext of a sector decrypts as it was under the key of a colour: when it last became ungranted, its contents were under
that same key (18 R404, 17 R374). -/
def State.sameKey (s : State) (colour sec : Nat) : Bool :=
  match s.ungranted.find? (fun r => overlaps r.base r.len (32 * sec) 32) with
  | some r => r.key.isSome && r.key == mfind s.keys colour
  | none => false

/-- Every sector of a range whose contents were under another key decrypts under that of a colour into values of no use (17 R374, 01
R18). -/
def State.scramble (s : State) (colour a n : Nat) : State := s.rekey a n (fun sec => !s.sameKey colour sec)

/-- A sector holds compute-only data. -/
def State.coSector (s : State) (sec : Nat) : Bool := (s.sideAt sec).getLsbD 4

/-- A tag-clear pass over [a, a + n) (17 R374): TAG0, TAG1, LBL and CO of every sector become zero, every cached copy is
dropped, no data byte is written. A sector that held CO goes from its weight key to the colour's key (18 R404). -/
def State.tagClear (s : State) (a n : Nat) : State :=
  let hit (sec : Nat) : Bool := overlaps (32 * sec) 32 a n
  let s1 := if s.side.any (fun p => hit p.1 && p.2.getLsbD 4) then s.rekey a n s.coSector else s
  { s1 with
    side := s.side.foldl (fun m p => if hit p.1 then mmod 0 m p.1 (fun b => b &&& 0xE0) else m) s.side
    copies := s.copies.filter (fun k => !(k.hpa.isNone && overlaps (128 * k.line) 128 a n)) }

/-- Split a granted range at the ends of [a, a + n): the parts outside keep it, the part inside is `inside`. -/
def GrantRange.carve (r : GrantRange) (a n : Nat) (inside : GrantRange → List GrantRange) : List GrantRange :=
  let lo := max r.base a
  let hi := min (r.base + r.len) (a + n)
  if hi ≤ lo then [r]
  else
    (if r.base < lo then [{ r with len := lo - r.base }] else []) ++ inside { r with base := lo, len := hi - lo } ++
      (if hi < r.base + r.len then [{ r with base := hi, len := r.base + r.len - hi }] else [])

/-! ### The end of contexts and keys (18 R418) -/

/-- A team that has not retired terminates with SESSION_LOST: its record, then its end (02 R48, 19 R420 rule 1). -/
def State.teamLost (s : State) (id : Nat) : State :=
  match s.team? id with
  | some t =>
    if t.status = .retired ∨ t.term.isSome then s else (s.teamRecord t cSESSION 0).terminateTeam id cSESSION
  | none => s

/-- Every grid of a context terminates with SESSION_LOST. -/
def State.gridsLost (s : State) (colour : Nat) : State :=
  s.grids.foldl (fun s p =>
    if p.2.colour = colour ∧ !p.2.complete then
      ((s.teams.filter (fun q => q.2.grid == p.1)).foldl (fun s q => s.teamLost q.1) s).terminateGrid p.1 cSESSION
    else s) s

/-- Destroy the keys of colours (18 R405): their entries become EMPTY and their CO map entries DEAD; what an ended context had pinned
is unpinned (13 R296). -/
def State.destroyKeys (s : State) (cols : List Nat) : State :=
  { s with
    keys := s.keys.filter (fun p => !cols.contains p.1)
    pins := s.pins.filter (fun p => !cols.contains p.2.2)
    comap := s.comap.map (fun e => if cols.contains e.keycol then { e with state := .dead } else e) }

/-- Wellhead has a receipt to issue per destroyed colour (20 R443). -/
def State.oweReceipts (s : State) (kind : Nat) (cols : List Nat) : State :=
  { s with receiptsDue := s.receiptsDue ++ cols.map (fun c =>
      ⟨kind, c, (s.ctx? c).isNone⟩) }

/-- The colours of a function's contexts. -/
def State.coloursOf (s : State) (fn : Nat) : List Nat := (s.ctxs.filter (fun p => p.2.fn == fn)).map (·.1)

/-- Every context of a function is terminated and 18 R418 applies. -/
def State.loseFn (s : State) (fn : Nat) : State :=
  let cols := (s.coloursOf fn).filter s.keyed
  let s1 := (s.destroyKeys cols).oweReceipts 1 cols
  let s2 := { s1 with
    comap := s1.comap.map (fun e => if e.fn = fn then { e with state := .dead } else e)
    devgroup := s1.devgroup.filter (fun g => g.fn != fn)
    sessions := mmap (fun x => if x.fn = some fn then { x with state := .lost } else x) s1.sessions }
  (s.coloursOf fn).foldl (fun s c => s.gridsLost c) s2

/-- The TDI of a VF moves to ERROR (18 R411). -/
def State.tdiError (s : State) (fn : Nat) : State := (s.setFn fn { s.fn fn with tdi := .error }).loseFn fn

/-- A change to the locked configuration of a function's TDI (18 R411); the PF is no TDI. -/
def State.tdiTouch (s : State) (fn : Nat) : State :=
  if fn = 0 then s
  else
    match (s.fn fn).tdi with
    | .locked => s.tdiError fn
    | .run => s.tdiError fn
    | _ => s

/-- The functions whose WEIGHT entries are among given colours: those that have imported weights under them. The spec names a VF's WEIGHT
entries (18 R411), which owner sessions bound to no function install (R414), and no other tie (DEDUCED, log entry 92). -/
def State.weightFns (s : State) (cols : List Nat) : List Nat :=
  ((s.comap.filter (fun e => cols.contains e.keycol)).map (·.fn)).eraseDups

/-- Steps 1 to 3 of 18 R418 for the weight keys of given colours: their parties are the teams that hold CO tile registers
under them. The entries are locked configuration of the TDIs that use them (R411). -/
def State.loseWeights (s : State) (kind : Nat) (cols : List Nat) : State :=
  let s0 := (s.weightFns cols).foldl State.tdiTouch s
  let s1 := (s0.destroyKeys cols).oweReceipts kind cols
  s1.teams.foldl (fun s p => if p.2.holdsKey (fun k => cols.contains k) then s.teamLost p.1 else s) s1

/-- A change to the grants or the shared set of a colour. -/
def State.colourTouch (s : State) (colour : Nat) : State :=
  match s.ctx? colour with
  | some c => s.tdiTouch c.fn
  | none => s

/-- A session becomes LOST (18 R418). -/
def State.loseSession (s : State) (sess : Nat) : State :=
  match mfind s.sessions sess with
  | none => s
  | some x =>
    let s1 := { s with sessions := mput s.sessions sess { x with state := .lost } }
    match x.fn with
    | some fn => if (s.fn fn).session = sess then s1.loseFn fn else s1
    | none =>
      s1.loseWeights 1 ((s.keys.filter (fun p => match p.2 with | .weight _ i => i == sess | _ => false)).map (·.1))

/-! ### Contexts (16 R348; 17 R372; 19 R433) -/

/-- The 64 bytes of a context-creation reply. -/
def State.ctxReply (s : State) (c : Ctx) : List Byte :=
  bytesOfNat 2 1 ++ [BitVec.ofNat 8 c.fn, BitVec.ofNat 8 s.cl] ++ bytesOfNat 2 c.colour ++ [0, 0] ++
    bytesOfNat 8 c.pmask.toNat ++ bytesOfNat 48 (c.retired.foldl (fun a p => a + 2 ^ p) 0)

/-- The request for a context is in order. -/
def State.ctxReqOk (s : State) (r : CtxReq) : Bool :=
  decide (s.part.boot ≥ 9) && decide (r.colour < 4096) && decide (r.fn < 64) && (s.ctx? r.colour).isNone &&
    !s.keyed r.colour && decide (r.shared.length ≤ 15) && r.shared.all (fun c => decide (c < 4096)) &&
    r.saveBase % 4096 == 0 && r.saveLen % 4096 == 0 && decide (r.saveLen ≥ 0x80000) &&
    s.grantedTo r.colour r.saveBase r.saveLen

/-- CONTEXT_CREATE (16 R348; 18 R405): the key is drawn, under which what the granted ranges hold decrypts into free values (18 R404),
and the reply is written. -/
def execContextCreate (req : CtxReq) (s : State) : Host.Outcome State Fault Refusal :=
  if !s.ctxReqOk req then .next s
  else
    let c : Ctx := { colour := req.colour, fn := req.fn, pmask := req.pmask &&& (firstMask (8 * s.cl)),
                     shared := req.shared, retired := s.retiredPairs, saveBase := req.saveBase, saveLen := req.saveLen,
                     shapes := [], grants := [], debugger := false, teamstop := false, breaks := [] }
    let p := s.ringPasid 0
    let made (s : State) : State :=
      let (n, s1) := s.fresh
      ({ s1 with keys := mput s1.keys req.colour (.context (Config.drawKey n)) }).setCtx c
    let rekeyed (s : State) : State :=
      (s.rangesOf req.colour).foldl (fun s r => s.rekey r.1 r.2 (fun sec => !s.coSector sec)) s
    if isHost req.replyAt then
      match s.reach 0 p req.replyAt 64 true with
      | .ok => .next (made ((rekeyed s).putAt 0 p req.replyAt (s.ctxReply c)))
      | .wait asks => .next (s.askAll 0 asks true)
      | .bad _ => .next (s.takeRange 0 p req.replyAt 64)
    else if req.replyAt + 64 ≤ s.reservedBase then .next (made ((rekeyed s).putAt 0 p req.replyAt (s.ctxReply c)))
    else .next s

/-- CONTEXT_DESTROY (20 R443): the key is destroyed, the context's grids end, a receipt is due. -/
def execContextDestroy (colour : Nat) (s : State) : Host.Outcome State Fault Refusal :=
  if (s.ctx? colour).isNone || !s.keyed colour then .next s
  else .next (((s.destroyKeys [colour]).oweReceipts 2 [colour]).gridsLost colour)

/-- SET_SHARED_COLOURS (17 R372; 18 R411). -/
def execSetSharedColours (colour : Nat) (shared : List Nat) (s : State) : Host.Outcome State Fault Refusal :=
  match s.ctx? colour with
  | none => .next s
  | some c =>
    if 15 < shared.length ∨ shared.any (fun x => decide (x ≥ 4096)) ∨ shared = c.shared then .next s
    else
      let s1 := s.tdiTouch c.fn
      match s1.ctx? colour with
      | some c1 => .next (s1.setCtx { c1 with shared := shared })
      | none => .next s1

/-- SET_FUNCTION_WEIGHT (16 R349). -/
def execSetFunctionWeight (fn w : Nat) (s : State) : Host.Outcome State Fault Refusal :=
  if fn ≥ 64 ∨ w > 255 then .next s else .next (s.setFn fn { s.fn fn with weight := w })

/-! ### The grant block (17 R374; 20 R439) -/

/-- GSTAT when an operation ends. -/
def State.grantDone (s : State) (stat : Byte) : State := { s with gblock := { s.gblock with gstat := stat, pass := 0 } }

/-- A grant of the block's range is refused. -/
def State.grantRefused (s : State) : Bool :=
  let a := s.gblock.gbase.toNat
  let n := s.gblock.glen.toNat
  a % 4096 != 0 || n % 4096 != 0 || n == 0 || decide (s.gblock.gcol.toNat ≥ 4096) || decide (a + n > s.reservedBase) ||
    s.granted.any (fun r => overlaps r.base r.len a n) || s.retiredIn a n

/-- GRANT (17 R374): GOP 1. -/
def execGrant (s : State) : Host.Outcome State Fault Refusal :=
  if s.gblock.gstat ≠ 1 ∨ s.gblock.gop ≠ 1 then .next s
  else if s.grantRefused then .next (s.grantDone 3)
  else
    let a := s.gblock.gbase.toNat
    let n := s.gblock.glen.toNat
    let col := s.gblock.gcol.toNat
    let s1 := ((s.colourTouch col).tagClear a n).scramble col a n
    .next (({ s1 with granted := s1.granted ++ [(⟨a, n, col, false⟩ : GrantRange)] } : State).grantDone 2)

/-- The number of the first pass that begins after now (17 R392), which becomes requested. -/
def State.requestPass (s : State) : Nat × State :=
  let n := match s.dredge.state with | .idle => s.dredge.completed + 1 | _ => s.dredge.completed + 2
  (n, { s with dredge := { s.dredge with requested := max s.dredge.requested n } })

/-- WITHDRAW (17 R374): GOP 2 marks the range and waits for a pass. -/
def execWithdraw (s : State) : Host.Outcome State Fault Refusal :=
  let a := s.gblock.gbase.toNat
  let n := s.gblock.glen.toNat
  let col := s.gblock.gcol.toNat
  if s.gblock.gstat ≠ 1 ∨ s.gblock.gop ≠ 2 ∨ s.gblock.pass ≠ 0 then .next s
  else if a % 4096 ≠ 0 ∨ n % 4096 ≠ 0 ∨ n = 0 ∨ !s.grantedTo col a n then .next (s.grantDone 3)
  else
    let s1 := (s.colourTouch col).revokeRange a (a + n)
    let (pass, s2) := s1.requestPass
    .next { s2 with
      granted := s2.granted.flatMap (fun (r : GrantRange) => r.carve a n (fun (x : GrantRange) => [{ x with withdrawing := true }]))
      gblock := { s2.gblock with pass := pass } }

/-- The CO map entries inside a range that becomes ungranted are removed (18 R400); an import that still runs into one ends refused
(DESIGN CHOICE, log entry 117). -/
def State.dropEntries (s : State) (a n : Nat) : State :=
  let inside (e : CoEntry) : Bool := decide (a ≤ e.base) && decide (e.base + e.len ≤ a + n)
  let busy := (s.comap.filter (fun e => inside e && e.state == .busy)).map (·.fn)
  let s1 := { s with comap := s.comap.filter (fun e => !inside e) }
  busy.foldl (fun s fn => s.setFn fn { s.fn fn with sstat := 3 }) s1

/-- WITHDRAW_COMPLETE (17 R374): the awaited pass has ended and the range becomes ungranted. -/
def execWithdrawComplete (s : State) : Host.Outcome State Fault Refusal :=
  if s.gblock.gstat ≠ 1 ∨ s.gblock.pass = 0 ∨ s.dredge.completed < s.gblock.pass then .next s
  else
    let a := s.gblock.gbase.toNat
    let n := s.gblock.glen.toNat
    let s1 := s.dropEntries a n
    let old : OldRange := ⟨a, n, mfind s.keys s.gblock.gcol.toNat⟩
    .next (({ s1 with
      granted := s1.granted.flatMap (fun (r : GrantRange) => r.carve a n (fun _ => []))
      ungranted := old :: s1.ungranted.filter (fun r => !(decide (a ≤ r.base) && decide (r.base + r.len ≤ a + n))) } :
        State).grantDone 2)

/-! ### The mint block (17 R375) -/

/-- A mint is refused. -/
def State.mintRefused (s : State) (fn : Nat) : Bool :=
  let f := s.fn fn
  let col := f.mcol.toNat
  let host (a n : Nat) : Bool := f.mkind == 0 && isHost a && decide (a + n ≤ 0x100000000000000)
  let within (a n : Nat) : Bool := s.granted.any (fun r =>
    r.colour == col && !r.withdrawing && decide (r.base ≤ a) && decide (a + n ≤ r.base + r.len))
  decide (s.part.boot < 9) || decide (f.mperm.toNat ≥ 4096) || decide (col ≥ 4096) || !s.colourOf fn col ||
    !(f.mkind == 0 || f.mkind == 1 || f.mkind == 4) || decide (f.mlbl.toNat ≥ 4) || f.mdest.toNat % 16 != 0 ||
    (match roundBounds f.mbase.toNat (f.mbase.toNat + f.mlen.toNat) with
      | none => true
      | some (_, _, _, nb, nt) => !(within nb (nt - nb) || host nb (nt - nb)) || s.retiredIn nb (nt - nb)) ||
    !within f.mdest.toNat 16 || f.mperm.getLsbD pSEAL || f.mperm.getLsbD pUNSEAL || f.mperm.getLsbD pENG ||
    (f.mperm.getLsbD pDECLASS && decide (fn ≠ 0)) || (f.mperm.getLsbD pEXEC && f.mkind != 1)

/-- The capability that a mint writes. -/
def Fn.mintCap (f : Fn) : TCap :=
  match roundBounds f.mbase.toNat (f.mbase.toNat + f.mlen.toNat) with
  | some (ex, bb, bt, _, _) =>
    ⟨capBits f.mkind.toNat 0 (BitVec.ofNat 2 f.mlbl.toNat) f.mcol.toNat (f.mperm.setWidth 12) bt bb ex f.mbase.toNat, true⟩
  | none => TCap.null

/-- MINT (17 R375). -/
def execMint (fn : Nat) (s : State) : Host.Outcome State Fault Refusal :=
  let f := s.fn fn
  if fn ≥ 64 ∨ f.mstat ≠ 1 then .next s
  else if s.mintRefused fn then .next (s.setFn fn { f with mstat := 3 })
  else
    let k := f.mintCap
    let s1 := s.pointWrite f.mdest.toNat (fullMask (bytesOfNat 16 k.bits.toNat)) 0 (s.storedTag k)
    .next ((s1.softTouch f.mdest.toNat 16).setFn fn { s1.fn fn with mstat := 2 })

/-! ### Sealed imports (18 R400, R401) -/

/-- An import is refused. -/
def State.importRefused (s : State) (fn : Nat) : Bool :=
  let f := s.fn fn
  let col := f.scol.toNat
  let src := f.ssrc.toNat
  let dst := f.sdst.toNat
  let n := f.slen.toNat
  decide (col ≥ 4096) || !s.colourOf fn col || decide (f.skey.toNat ≥ 4096) || src % 32 != 0 || dst % 4096 != 0 ||
    n == 0 || n % 4096 != 0 || (decide (fn ≠ 0) && (s.fn fn).tdi != .run) ||
    !s.grantedTo col src (n + 16) || !s.grantedTo col dst n || overlaps src (n + 16) dst n ||
    s.comap.any (fun e => overlaps e.base e.len dst n) ||
    (match mfind s.keys f.skey.toNat with | some (.weight _ _) => false | _ => true) || decide (s.comap.length ≥ 256)

/-- W, the IV and the additional data of a function's import. -/
def State.sealArgs (s : State) (fn : Nat) : List Byte × List Byte × List Byte :=
  let f := s.fn fn
  ((match mfind s.keys f.skey.toNat with | some (.weight k _) => k | _ => []),
    (List.range 12).map (fun j => mget 0 f.siv j), bytesOfNat 8 f.slen.toNat)

/-- The CO map entry that a function's seal block names exactly. -/
def State.sealEntry (s : State) (fn : Nat) : Option CoEntry :=
  s.comap.find? (fun e => e.base == (s.fn fn).sdst.toNat && e.len == (s.fn fn).slen.toNat)

/-- SEAL_IMPORT (18 R400): SOP 1. The blob is read once: the bytes decrypted are those whose tag is verified. The entry is BUSY, and the
decrypted sectors are written as CO with label 0 and no tag. A blob with an uncorrectable sector does not verify (01 R19; DESIGN CHOICE, log
entry 132). -/
def execSealImport (fn : Nat) (s : State) : Host.Outcome State Fault Refusal :=
  let f := s.fn fn
  if fn ≥ 64 ∨ f.sstat ≠ 1 ∨ f.sop ≠ 1 ∨ (s.sealEntry fn).any (fun e => e.state == .busy && e.fn == fn) then .next s
  else if s.importRefused fn then .next (s.setFn fn { f with sstat := 3 })
  else
    let (key, iv, aad) := s.sealArgs fn
    let n := f.slen.toNat
    let dst := f.sdst.toNat
    let blob := bytesAt s.mem f.ssrc.toNat n
    let plain := Config.gcmDecrypt key iv blob
    let good := (s.badSec? f.ssrc.toNat (n + 16)).isNone &&
      Config.gcmVerifies key iv aad blob (bytesAt s.mem (f.ssrc.toNat + n) 16)
    let s1 := { s with
      comap := s.comap ++ [⟨dst, n, f.skey.toNat, .busy, fn, good⟩]
      mem := setBytes s.mem dst ((List.range n).map (fun j => plain.getD j 0))
      copies := s.copies.filter (fun k => !(k.hpa.isNone && overlaps (128 * k.line) 128 dst n)) }
    .next ((sectors dst n).foldl (fun s x => s.setSide x 0x10) s1)

/-- SEAL_IMPORT_COMPLETE (18 R400): the tag decides between LIVE and FAILED; an entry that has become DEAD stays so. -/
def execSealImportComplete (fn : Nat) (s : State) : Host.Outcome State Fault Refusal :=
  let f := s.fn fn
  match s.sealEntry fn with
  | none => .next s
  | some e =>
    if fn ≥ 64 ∨ f.sstat ≠ 1 ∨ f.sop ≠ 1 ∨ e.fn ≠ fn then .next s
    else
      let good := e.state == .busy && e.good
      let st : CoState := if e.state = .busy then (if good then .live else .failed) else e.state
      .next { s.setFn fn { f with sstat := if good then 2 else 4 } with
        comap := s.comap.map (fun x => if x.base = e.base then { x with state := st } else x) }

/-- SEAL_RELEASE (18 R400): SOP 2. -/
def execSealRelease (fn : Nat) (s : State) : Host.Outcome State Fault Refusal :=
  let f := s.fn fn
  if fn ≥ 64 ∨ f.sstat ≠ 1 ∨ f.sop ≠ 2 then .next s
  else
    match s.sealEntry fn with
    | some e =>
      if !s.colourOf fn f.scol.toNat || !s.grantedTo f.scol.toNat e.base e.len then .next (s.setFn fn { f with sstat := 3 })
      else
        let s1 := s.tagClear e.base e.len
        .next ({ s1 with comap := s1.comap.filter (fun x => x.base != e.base) }.setFn fn { f with sstat := 2 })
    | none => .next (s.setFn fn { f with sstat := 3 })

/-! ### The Dredge (17 R391) -/

/-- An element of a load has not returned. -/
def LoadElem.isOpen (x : LoadElem) : Bool :=
  match x.status with
  | .waiting => true
  | .pageWait _ => true
  | _ => false

/-- A synchronisation operation that writes a sync object when it performs. -/
def SyncKind.writes : SyncKind → Bool
  | .rel _ _ _ => true
  | .engine _ => true
  | _ => false

/-- A pass enters SNAP (17 R391): S(N) is recorded, and the accesses under way are those that the pass waits for. -/
def State.enterSnap (s : State) : State :=
  { s with dredge := { s.dredge with
      state := .snap
      snap := s.revoked.map (·.1)
      waits := s.atoms.map (·.1) ++ s.wins.map (·.1) ++ (s.syncs.filter (fun p => p.2.kind.writes)).map (·.1)
      waitLoads := s.groups.flatMap (fun p =>
        (p.2.loads.filter (fun l => l.elems.any LoadElem.isOpen)).map (fun l => (p.2.team, p.2.gid, l.iseq))) } }

/-- DREDGE_SNAP: a pass that was asked for begins. -/
def execDredgeSnap (s : State) : Host.Outcome State Fault Refusal :=
  if s.dredge.state ≠ .idle ∨ s.dredge.requested ≤ s.dredge.completed then .next s
  else .next s.enterSnap

/-- A capability is marked by a bit of S(N). -/
def marked (bits : List Nat) (k : TCap) : Bool :=
  (k.kind == 0 || k.kind == 1 || k.kind == 4) && k.otype != 62 &&
    (let b := k.bounds.1; decide (0 ≤ b) && isDev b.toNat && bits.contains (b.toNat / 64))

/-- A capability after the sweep. -/
def TCap.swept (bits : List Nat) (k : TCap) : TCap := k.withTag (k.tag && !marked bits k)

/-- The capabilities of a group after the sweep: registers, code capability, the KCODE of an active frame. -/
def Group.swept (bits : List Nat) (g : Group) : Group :=
  { g with
    vtag := g.vtag.filter (fun p => !marked bits (g.capQuad (4 * (p.1 / 64)) (p.1 % 64)))
    stag := g.stag.filter (fun p => !marked bits (g.capPair (2 * p.1)))
    kcode := g.kcode.swept bits
    frame := if g.frame.active then { g.frame with kcode := g.frame.kcode.swept bits } else g.frame }

/-- A shape record after the sweep. -/
def Shape.swept (bits : List Nat) (x : Shape) : Shape :=
  { x with src := x.src.swept bits, dst := x.dst.swept bits, synca := x.synca.swept bits, syncr := x.syncr.swept bits,
           cmpl := x.cmpl.swept bits, idx := x.idx.swept bits }

/-- The device tables of a context after the sweep: shape records, and grant entries, which are withdrawn. -/
def Ctx.swept (bits : List Nat) (c : Ctx) : Ctx :=
  { c with
    shapes := mmap (fun sl => { sl with rcd := sl.rcd.map (Shape.swept bits) }) c.shapes
    grants := mmap (fun sl =>
      match sl.entry with
      | some (k, _, _) => if marked bits k then ⟨nextGen sl.gen, none⟩ else sl
      | none => sl) c.grants }

/-- A sector becomes uncorrectable: its page is retired with it (20 R439). -/
def State.markUnc (s : State) (sec : Nat) : State :=
  { s with
    unc := mset false s.unc sec true
    retiredPages := if s.retiredPages.contains (sec / 128) then s.retiredPages else s.retiredPages ++ [sec / 128] }

/-- Sweep the capability at a granule of device memory. A side band that cannot be read loses both tags and is marked
uncorrectable. -/
def State.sweepSector (s : State) (bits : List Nat) (sec : Nat) : State :=
  let b := s.sideAt sec
  if b.toNat ≥ 32 then (s.setSide sec (b &&& 0xFC)).markUnc sec
  else
    let cut (h : Nat) : Byte :=
      if b.getLsbD h && marked bits ⟨BitVec.ofNat 128 (natOfBytes (bytesAt s.mem (32 * sec + 16 * h) 16)), true⟩
      then 1#8 <<< h else 0#8
    s.setSide sec (b &&& ~~~(cut 0 ||| cut 1))

/-- A cached copy after the sweep. -/
def Copy.swept (bits : List Nat) (k : Copy) : Copy :=
  { k with tags := (List.range 8).foldl (fun (t : BitVec 8) j =>
      if t.getLsbD j && marked bits ⟨BitVec.ofNat 128 (natOfBytes (bytesAt k.data (16 * j) 16)), true⟩
      then t &&& ~~~(1#8 <<< j) else t) k.tags }

/-- What SNAP waits for has performed or ended. -/
def State.snapOver (s : State) : Bool :=
  s.dredge.waits.all (fun i => (mfind s.atoms i).isNone && (mfind s.wins i).isNone && (mfind s.syncs i).isNone) &&
    s.dredge.waitLoads.all (fun w =>
      match s.group? w.1 w.2.1 with
      | some g => g.loads.all (fun l => l.iseq != w.2.2 || !l.elems.any LoadElem.isOpen)
      | none => true)

/-- DREDGE_SWEEP: once SNAP's wait ends and no group is in a run, the tag of every capability that a bit of S(N) marks is
cleared wherever tags are held, the record snapshots of engine commands among them. -/
def execDredgeSweep (s : State) : Host.Outcome State Fault Refusal :=
  if s.dredge.state ≠ .snap ∨ !s.snapOver ∨ s.groups.any (fun p => p.2.status == .running) then .next s
  else
    let bits := s.dredge.snap
    let s1 := s.side.foldl (fun s p => s.sweepSector bits p.1) s
    .next { s1 with
      copies := s1.copies.map (Copy.swept bits)
      groups := mmap (fun g =>
        if (s1.team? g.team).any (fun t => t.status != .saved) then g.swept bits else g) s1.groups
      teams := mmap (fun t =>
        { t with binds := mmap (fun b => { b with sync := b.sync.swept bits, region := b.region.swept bits }) t.binds })
        s1.teams
      ctxs := mmap (Ctx.swept bits) s1.ctxs
      cmds := mmap (fun c => { c with rcd := c.rcd.swept bits }) s1.cmds
      dredge := { s1.dredge with state := .sweep } }

/-- DREDGE_CLEAR: the bits of S(N) are cleared, their lines are unpinned, the pass has completed. The next pass enters SNAP at once when it
has been asked for (17 R391). -/
def execDredgeClear (s : State) : Host.Outcome State Fault Refusal :=
  if s.dredge.state ≠ .sweep then .next s
  else
    let bits := s.dredge.snap
    let s1 : State := { s with
      revoked := s.revoked.filter (fun p => !bits.contains p.1)
      pins := bits.foldl (fun ps b => unpinRange (64 * b / 128 * 128) (64 * b / 128 * 128 + 128) ps) s.pins
      dredge := { s.dredge with state := .idle, completed := s.dredge.completed + 1, snap := [], waits := [],
                                waitLoads := [] } }
    .next (if s1.dredge.completed < s1.dredge.requested then s1.enterSnap else s1)

/-! ### The TDI of a function (18 R411, 20 R447) -/

/-- TDI_CONFIG_CHANGE (18 R411): a change to a locked configuration that has no row of its own. -/
def execTdiConfigChange (fn : Nat) (s : State) : Host.Outcome State Fault Refusal :=
  if fn ≥ 64 then .next s else .next (s.tdiTouch fn)

/-- FUNCTION_LEVEL_RESET of a VF (20 R447). -/
def execFunctionLevelReset (fn : Nat) (s : State) : Host.Outcome State Fault Refusal :=
  if fn = 0 ∨ fn ≥ 64 then .next s
  else
    match (s.fn fn).tdi with
    | .locked => .next (s.tdiError fn)
    | .run => .next (s.tdiError fn)
    | _ => .next (s.loseFn fn)

/-! ### Scrub receipts (20 R443) -/

/-- The action that causes a receipt is over: no grid of the colour is in progress, no team holds tiles under the key. -/
def State.receiptReady (s : State) (d : ReceiptDue) : Bool :=
  s.grids.all (fun p => p.2.colour != d.colour || p.2.complete) &&
    s.teams.all (fun p => p.2.status == .retired || !p.2.holdsKey (fun k => k == d.colour))

/-- The bytes that a receipt's signatures cover. -/
def receiptBytes (kind colour seq clk : Nat) (ret unc : List Nat) : List Byte :=
  bytesOfNat 2 1 ++ [BitVec.ofNat 8 kind, 0] ++ bytesOfNat 2 colour ++ [0, 0] ++ bytesOfNat 8 seq ++ bytesOfNat 8 clk ++
    Config.sha384 Config.certificate ++ bytesOfNat 4 ret.length ++ bytesOfNat 4 unc.length ++
    ret.flatMap (bytesOfNat 8) ++ unc.flatMap (bytesOfNat 8)

/-- The bytes of a receipt: SIGRSA and SIGSLH follow what they cover. -/
def Receipt.bytes (r : Receipt) : List Byte :=
  receiptBytes r.kind r.colour r.seq r.clk r.retired r.uncorr ++
    padTo 384 (r.sigs.getD 0 []) ++ padTo 16224 (r.sigs.getD 1 [])

/-- Numbers in ascending order. -/
def sorted (l : List Nat) : List Nat := (l.foldl (fun m x => mput m x ()) []).map (·.1)

/-- The ranges that the tag-clear pass of a receipt covers: those granted to the colour, or those of the CO map under the destroyed weight
key (20 R443). -/
def State.scrubRanges (s : State) (d : ReceiptDue) : List (Nat × Nat) :=
  if d.weight then (s.comap.filter (fun e => e.keycol == d.colour)).map (fun e => (e.base, e.len)) else s.rangesOf d.colour

/-- SCRUB_RECEIPT (20 R443): the tag-clear pass, then the receipt; the context of a destroyed key is gone. -/
def execScrubReceipt (s : State) : Host.Outcome State Fault Refusal :=
  match s.receiptsDue.find? s.receiptReady with
  | none => .next s
  | some d =>
    let rs := s.scrubRanges d
    let s1 := rs.foldl (fun s r => s.tagClear r.1 r.2) s
    let inRange (a n : Nat) : Bool := rs.any (fun r => overlaps r.1 r.2 a n)
    let ret := sorted ((s1.retiredPages.filter (fun p => inRange (4096 * p) 4096)).map (4096 * ·))
    let unc := sorted ((s1.unc.filter (fun p => inRange (32 * p.1) 32)).map (fun p => 32 * p.1))
    let h := Config.sha384 (receiptBytes d.kind d.colour s.nextReceipt s.clk ret unc)
    let r : Receipt := ⟨d.kind, d.colour, s.nextReceipt, s.clk, ret, unc, [Config.sign 0 h, Config.sign 1 h]⟩
    let all := s1.receipts ++ [r]
    .next { s1 with
      receiptsDue := s1.receiptsDue.erase d
      receipts := all.drop (all.length - 64)
      nextReceipt := s.nextReceipt + 1
      ctxs := if d.weight then s1.ctxs else s1.ctxs.filter (fun p => p.1 != d.colour) }

end Sys2Proof.Machine
end

