-- ==== Sys2Proof/Machine/Session.lean ====
section
/-! DEFINITION. Machine/Session.lean: Wellhead as an SPDM responder (18 R413 to R418), the lock and the run of a TDI (18
R411, R412), and the reading of receipts (20 R443). What an SPDM message holds, and whether it verifies, comes with the
event; the bodies of responses are opaque (log entry 4). -/

namespace Sys2Proof.Machine

open Sys2Proof

/-- Send an SPDM response. -/
def State.answer (s : State) (sess : Nat) : State :=
  let (n, s1) := s.fresh
  s1.reply (.spdm sess n)

/-- Write a session back. -/
def State.setSession (s : State) (x : Session) : State := { s with sessions := mput s.sessions x.id x }

/-- The session through which a secured message came: ACTIVE, or FROZEN, which the message makes ACTIVE again (18 R416). -/
def State.secured (s : State) (m : SpdmMsg) : Option (Session × State) :=
  match mfind s.sessions m.sess with
  | none => none
  | some x =>
    if !m.valid then none
    else
      match x.state with
      | .active => some (x, s)
      | .frozen => let y := { x with state := .active }; some (y, s.setSession y)
      | _ => none

/-- A request is refused: InvalidSession for a session that is LOST, else an error (18 R414, R416). -/
def State.refuse (s : State) (sess : Nat) : State :=
  s.reply (if (mfind s.sessions sess).any (fun x => x.state == .lost) then .invalidSession sess else .error sess)

/-- A secured request: what it does, or an error. -/
def State.request (s : State) (m : SpdmMsg) (h : Session → State → State) : Host.Outcome State Fault Refusal :=
  match s.secured m with
  | some (x, s1) => .next (h x s1)
  | none => .next (s.refuse m.sess)

/-- A request that is accepted in or outside a session (18 R413; 20 R443). -/
def State.openly (s : State) (m : SpdmMsg) (h : Nat → State → State) : Host.Outcome State Fault Refusal :=
  if m.sess = 0 then .next (if m.valid then h 0 s else s.reply (.error 0))
  else s.request m (fun x s => h x.id s)

/-- A request that is answered in or outside a session (18 R413). -/
def State.openRequest (s : State) (m : SpdmMsg) : Host.Outcome State Fault Refusal :=
  s.openly m (fun sess s => s.answer sess)

/-- GET_VERSION (18 R413). -/
def execGetVersion (m : SpdmMsg) (s : State) : Host.Outcome State Fault Refusal := s.openRequest m

/-- GET_CAPABILITIES (18 R413). -/
def execGetCapabilities (m : SpdmMsg) (s : State) : Host.Outcome State Fault Refusal := s.openRequest m

/-- NEGOTIATE_ALGORITHMS (18 R413). -/
def execNegotiateAlgorithms (m : SpdmMsg) (s : State) : Host.Outcome State Fault Refusal := s.openRequest m

/-- GET_DIGESTS (18 R413). -/
def execGetDigests (m : SpdmMsg) (s : State) : Host.Outcome State Fault Refusal := s.openRequest m

/-- GET_CERTIFICATE (18 R413). -/
def execGetCertificate (m : SpdmMsg) (s : State) : Host.Outcome State Fault Refusal := s.openRequest m

/-- CHALLENGE (18 R413). -/
def execChallenge (m : SpdmMsg) (s : State) : Host.Outcome State Fault Refusal := s.openRequest m

/-- The configuration block (18 R413): grade, NUMA mode, CL and retired pairs as they stand. -/
def State.configBlock (s : State) : List Byte :=
  Config.configBlock s.part.grade576 s.part.numa s.cl (s.retiredPairs.eraseDups.foldl (fun a p => a + 2 ^ p) 0)

/-- The measurements by index (18 R413): the registers, as extended up to the last accepted stage (20 R445), and the configuration
block. -/
def State.measurements (s : State) : List (Nat × List Byte) :=
  (List.range 8).map (fun i => (i + 1, (mfind s.measure (i + 1)).getD (List.replicate 48 0))) ++ [(9, s.configBlock)]

/-- GET_MEASUREMENTS (18 R413; 20 R445). -/
def execGetMeasurements (m : SpdmMsg) (s : State) : Host.Outcome State Fault Refusal :=
  s.openly m (fun sess s => s.reply (.measurements sess s.measurements))

/-- The sessions that are not LOST. -/
def State.liveSessions (s : State) : Nat := (s.sessions.filter (fun p => p.2.state != .lost)).length

/-- KEY_EXCHANGE (18 R413, R414): a session begins, for a function or for none; the grace period is 2,000 ms. -/
def execKeyExchange (m : SpdmMsg) (fn : Option Nat) (heartbeat : Nat) (s : State) : Host.Outcome State Fault Refusal :=
  let taken := (mfind s.sessions m.sess).any (fun x => x.state != .lost)
  if !m.valid || m.sess == 0 || taken || decide (s.liveSessions ≥ 64) || fn.any (fun f => decide (f ≥ 64)) then
    .next (s.reply (.error m.sess))
  else .next ((s.setSession ⟨m.sess, fn, .handshake, 2000, heartbeat⟩).answer m.sess)

/-- FINISH (18 R416): the session is ACTIVE. -/
def execFinishh (m : SpdmMsg) (s : State) : Host.Outcome State Fault Refusal :=
  match mfind s.sessions m.sess with
  | some x =>
    if x.state = .handshake ∧ m.valid then .next ((s.setSession { x with state := .active }).answer m.sess)
    else .next (s.refuse m.sess)
  | none => .next (s.refuse m.sess)

/-- HEARTBEAT (18 R416). -/
def execHeartbeat (m : SpdmMsg) (s : State) : Host.Outcome State Fault Refusal := s.request m (fun x s => s.answer x.id)

/-- KEY_UPDATE (18 R413). -/
def execKeyUpdate (m : SpdmMsg) (s : State) : Host.Outcome State Fault Refusal := s.request m (fun x s => s.answer x.id)

/-- END_SESSION (18 R416): the session is LOST. -/
def execEndSession (m : SpdmMsg) (s : State) : Host.Outcome State Fault Refusal :=
  s.request m (fun x s => (s.loseSession x.id).answer x.id)

/-- SET_WEIGHT_KEY (18 R414): refused unless the entry is EMPTY and no context has the colour. For a VF it is accepted only in RUN (R411): every
VF whose CO map entries name the colour is in RUN (log entry 92). -/
def execSetWeightKey (m : SpdmMsg) (colour : Nat) (key : List Byte) (s : State) : Host.Outcome State Fault Refusal :=
  s.request m (fun x s =>
    if x.fn.isSome || decide (colour ≥ 4096) || s.keyed colour || (s.ctx? colour).isSome ||
        (s.weightFns [colour]).any (fun fn => decide (fn ≠ 0) && (s.fn fn).tdi != .run) then s.reply (.error x.id)
    else ({ s with keys := mput s.keys colour (.weight key x.id) }).answer x.id)

/-- A collective of the device group is in progress (18 R414). -/
def State.ringBusy (s : State) : Bool :=
  s.cmds.any (fun p => decide (p.2.rcd.coll ≠ 0) &&
    (match p.2.state with | .queued => false | .done _ _ => false | .finishing _ _ => false | _ => true))

/-- SET_GROUP (18 R414, R415): through the session bound to a TDI in RUN. The group that another TDI had joined was part of that
one's locked configuration (R411). -/
def execSetGroup (m : SpdmMsg) (g : GroupReq) (s : State) : Host.Outcome State Fault Refusal :=
  s.request m (fun x s =>
    match x.fn with
    | none => s.reply (.error x.id)
    | some fn =>
      if fn == 0 || (s.fn fn).session != x.id || (s.fn fn).tdi != .run || decide (64 < g.hashes.length) ||
          decide (g.hashes.length ≤ g.own) || (s.devgroup.isSome && s.ringBusy) then s.reply (.error x.id)
      else
        let s1 := match s.devgroup with
          | some d => if d.fn = fn then s else s.tdiTouch d.fn
          | none => s
        ({ s1 with devgroup := some ⟨g.gid, g.own, g.hashes, g.key, fn, [], [], []⟩ }).answer x.id)

/-- SET_GRACE (18 R414): 100 to 60,000 ms. -/
def execSetGrace (m : SpdmMsg) (ms : Nat) (s : State) : Host.Outcome State Fault Refusal :=
  s.request m (fun x s =>
    if ms < 100 ∨ 60000 < ms then s.reply (.error x.id) else (s.setSession { x with grace := ms }).answer x.id)

/-- DESTROY_KEY (18 R414, R418): a WEIGHT entry of the session. -/
def execDestroyKey (m : SpdmMsg) (colour : Nat) (s : State) : Host.Outcome State Fault Refusal :=
  s.request m (fun x s =>
    match mfind s.keys colour with
    | some (.weight _ i) => if i = x.id ∧ x.fn.isNone then (s.loseWeights 3 [colour]).answer x.id else s.reply (.error x.id)
    | _ => s.reply (.error x.id))

/-- GET_RECEIPT (20 R443): any requester reads the bytes of a kept receipt by number, inside or outside a session. -/
def execGetReceipt (r : ReceiptReq) (s : State) : Host.Outcome State Fault Refusal :=
  s.openly r.msg (fun _ s => s.reply (.receipt r.seq ((s.receipts.find? (fun x => x.seq == r.seq)).map Receipt.bytes)))

/-- SESSION_TIMEOUT (18 R416): an ACTIVE session freezes. -/
def execSessionTimeout (sess : Nat) (s : State) : Host.Outcome State Fault Refusal :=
  match mfind s.sessions sess with
  | some x => if x.state = .active then .next (s.setSession { x with state := .frozen }) else .next s
  | none => .next s

/-- GRACE_EXPIRY (18 R416, R418): a FROZEN session is LOST. -/
def execGraceExpiry (sess : Nat) (s : State) : Host.Outcome State Fault Refusal :=
  match mfind s.sessions sess with
  | some x => if x.state = .frozen then .next (s.loseSession sess) else .next s
  | none => .next s

/-- TDISP_LOCK (18 R411, R414): a VF's TDI is CONFIG_LOCKED and bound to its function session. -/
def execTdispLock (fn sess : Nat) (s : State) : Host.Outcome State Fault Refusal :=
  match mfind s.sessions sess with
  | some x =>
    if fn = 0 ∨ fn ≥ 64 ∨ s.part.boot < 9 ∨ x.state ≠ .active ∨ x.fn ≠ some fn ∨ (s.fn fn).tdi ≠ .unlocked then .next s
    else .next (s.setFn fn { s.fn fn with tdi := .locked, session := sess })
  | none => .next s

/-- TDI_RUN (18 R411): a locked TDI runs. -/
def execTdiRun (fn : Nat) (s : State) : Host.Outcome State Fault Refusal :=
  if fn < 64 ∧ (s.fn fn).tdi = .locked then .next (s.setFn fn { s.fn fn with tdi := .run }) else .next s

/-- IDE_KM (18 R412): the selective stream of the session's function is keyed. -/
def execIdeKm (m : SpdmMsg) (s : State) : Host.Outcome State Fault Refusal :=
  s.request m (fun x s =>
    match x.fn with
    | some fn => (s.setFn fn { s.fn fn with ide := true }).answer x.id
    | none => s.reply (.error x.id))

end Sys2Proof.Machine
end

