-- ==== Sys2Proof/Machine/Reliab.lean ====
section
/-! DEFINITION. Machine/Reliab.lean: errors and what they take out of service (20 R437 to R439), snapshots (20 R440 to
R442), boot, power and the cold reset (20 R444 to R447). -/

namespace Sys2Proof.Machine

open Sys2Proof

/-! ### Errors (20 R437, R438) -/

/-- An element of a list once. -/
def addOnce {α : Type} [DecidableEq α] (x : α) (l : List α) : List α := if x ∈ l then l else l ++ [x]

/-- The sectors of the data that an instance holds at the point of coherence. A cache line is named by the line address
of the data that it holds. -/
def siteSectors : ErrSite → List Nat
  | .page n j => [128 * n + j % 128]
  | .l2Line _ line => [4 * line, 4 * line + 1, 4 * line + 2, 4 * line + 3]
  | .atomLine _ line => [4 * line, 4 * line + 1, 4 * line + 2, 4 * line + 3]
  | _ => []

/-- The copies of a line in a private level. -/
def State.copiesAt (s : State) (c : CacheId) (line : Nat) : List Copy :=
  s.copies.filter (fun k => k.cache == c && k.line == line)

/-- The dirty bits of a line in a private level are written back. -/
def State.flushLine (s : State) (c : CacheId) (line : Nat) : State :=
  (s.copiesAt c line).foldl (fun s k => s.writeBack c line k.colour) s

/-- A line of a private level is disabled: its dirty bits are written back, and it holds no copy (20 R437). -/
def State.disableLine (s : State) (x : ErrSite) (c : CacheId) (line : Nat) : State :=
  let s1 := s.flushLine c line
  let s2 := (s1.copiesAt c line).foldl (fun s k => s.dropCopy c line k.colour) s1
  { s2 with disabled := addOnce x s2.disabled }

/-- The action when an instance is lasting (20 R437). A lane whose quadrant's spare is not in use yet is replaced by it (01 R15;
DESIGN CHOICE, log entry 118: at once), and the counts of the logical lane begin anew: it is found lasting again when its spare is. -/
def State.retire (s : State) (x : ErrSite) : State :=
  match x with
  | .page n _ => { s with retiredPages := addOnce n s.retiredPages }
  | .l1Line core line => s.disableLine x (.l1 core) line
  | .rdcLine die line => s.disableLine x (.rdc die) line
  | .sramRow core _ => { s with retiredPairs := addOnce (core / 2) s.retiredPairs }
  | .lane core quad _ =>
    if (core, quad) ∈ s.spares then { s with retiredPairs := addOnce (core / 2) s.retiredPairs }
    else { s with spares := s.spares ++ [(core, quad)], errs := s.errs.filter (fun q => q.site != x) }
  | .l2Line _ _ => { s with disabled := addOnce x s.disabled }
  | .atomLine _ _ => { s with disabled := addOnce x s.disabled }
  | .icacheLine _ _ => { s with disabled := addOnce x s.disabled }
  | .axdalLane _ _ => { s with disabled := addOnce x s.disabled }

/-- The instance that a site belongs to: a page counts as one, whichever sector failed. -/
def instOf : ErrSite → ErrSite
  | .page n _ => .page n 0
  | x => x

/-- The record of an instance. -/
def State.errRec (s : State) (x : ErrSite) : ErrRec := (s.errs.find? (fun r => r.site == x)).getD ⟨x, [], false⟩

/-- Write a record back. -/
def State.setErr (s : State) (r : ErrRec) : State :=
  { s with errs := s.errs.filter (fun q => q.site != r.site) ++ [r] }

/-- Four events within the window (20 R438). -/
def withinWindow (w : Nat) (events : List Nat) : Bool :=
  match events with
  | [a, _, _, d] => decide (a - d < 2 ^ w)
  | _ => false

/-- The memory controller of the site's page counts an error. -/
def State.countEcc (s : State) (x : ErrSite) (hard : Bool) : State :=
  match x with
  | .page n _ =>
    { s with eccCounts := mmod (0, 0) s.eccCounts (s.homeDie (4096 * n)) (fun p =>
        if hard then (p.1, p.2 + 1) else (p.1 + 1, p.2)) }
  | _ => s

/-- An error of an Axdal lane is a link-level retry of its port (20 R437, R442). -/
def State.linkRetry (s : State) (x : ErrSite) : State :=
  match x with
  | .axdalLane port _ => { s with ports := mmod PortState.reset s.ports port (fun p => { p with retries := p.retries + 1 }) }
  | _ => s

/-- CORRECTABLE_ERROR (20 R438): counted; the fourth within the window makes the instance lasting. -/
def execCorrectableError (site : ErrSite) (s : State) : Host.Outcome State Fault Refusal :=
  let s0 := s.countEcc site false
  let s0 := s0.linkRetry site
  let r := s0.errRec (instOf site)
  let events := (s0.clk :: r.events).take 4
  let hit := withinWindow s0.errW events && !r.lasting
  let s1 := s0.setErr { r with events := events, lasting := r.lasting || hit }
  .next (if hit then s1.retire site else s1)

/-- A copy that holds an uncorrectable line is gone; the sectors whose dirty bits it held are uncorrectable, and the host bytes whose
write it held are lost. -/
def State.loseCopies (s : State) (c : CacheId) (line : Nat) : State :=
  (s.copiesAt c line).foldl (fun s k =>
    let s1 := s.dropCopy c line k.colour
    match k.hpa with
    | some h => { s1 with hostBad := s1.hostBad ++ k.dirty.map (fun p => h + p.1) }
    | none =>
      ((List.range 4).filter (fun j => k.dirtySector j || (k.dirtyTags.extractLsb' (2 * j) 2) != 0)).foldl
        (fun s j => s.markUnc (4 * line + j)) s1) s

/-- Numbers of a block of 32. -/
def block32 (n : Nat) : List Nat := (List.range 32).map (fun j => 32 * n + j)

/-- What an SRAM row held is uncorrectable where a team that is not SAVED holds it there (20 R437). -/
def State.loseRow (s : State) (core : Nat) (row : SramRow) : State :=
  let here (team : Nat) (h : Grid → State) : State :=
    match s.team? team with
    | some t =>
      if t.status == .saved || t.status == .retired || !t.cores.any (fun r => r.core == core) then s
      else match s.grid? t.grid with | some gr => h gr | none => s
    | none => s
  let regs (team gid base half : Nat) : State :=
    here team (fun gr => s.modGroup team gid (fun g =>
      if g.core = core then
        { g with vbad := g.vbad ++ ((block32 half).filter (fun i => decide (i < gr.width))).map (fun i => base + i) }
      else g))
  let res (team : Nat) (ok : Grid → Bool) (h : CoreRes → CoreRes) : State :=
    here team (fun gr => if ok gr then s.modCore team core h else s)
  match row with
  | .vreg team gid n half => if n < 384 then regs team gid (64 * n) half else s
  | .latch team gid n half => if n < 3 then regs team gid (65536 + 64 * n) half else s
  | .tile team n line => res team (fun gr => decide (n < gr.tiles) && decide (line < 512)) (fun r =>
      { r with tiles := mmod Tile.zero r.tiles n (fun x => { x with bad := x.bad ++ block32 line }) })
  | .acc team n i => res team (fun gr => decide (n < gr.accs) && decide (i < 640)) (fun r =>
      { r with accs := mmod Acc.zero r.accs n (fun x => { x with bad := x.bad ++ block32 i }) })
  | .mscr team line => res team (fun gr => decide (line < 128 * gr.mscr)) (fun r => { r with mbad := r.mbad ++ block32 line })
  | .tarn team line => res team (fun gr => decide (line < 32 * gr.tarn)) (fun r => { r with tbad := r.tbad ++ block32 line })

/-- UNCORRECTABLE_ERROR (20 R437, R438): lasting at once, and the data is uncorrectable. -/
def execUncorrectableError (site : ErrSite) (s : State) : Host.Outcome State Fault Refusal :=
  let s0 := s.countEcc site true
  let s0 := s0.linkRetry site
  let s1 := s0.setErr { s0.errRec (instOf site) with lasting := true }
  let s2 := match site with
    | .l1Line core line => s1.loseCopies (.l1 core) line
    | .rdcLine die line => s1.loseCopies (.rdc die) line
    | .sramRow core row => s1.loseRow core row
    | _ => (siteSectors site).foldl State.markUnc s1
  .next (s2.retire site)

/-- PATROL_SCRUB (20 R437): the scrub of a die visits a sector; what it corrects changes no value. -/
def execPatrolScrub (sector : Nat) (s : State) : Host.Outcome State Fault Refusal :=
  if isDev (32 * sector) then .next { s with patrol := mset 0 s.patrol (s.homeDie (32 * sector)) sector } else .next s

/-- SET_ERROR_WINDOW (20 R438): W from 28 to 36. -/
def execSetErrorWindow (w : Nat) (s : State) : Host.Outcome State Fault Refusal :=
  if w < 28 ∨ 36 < w then .next s else .next { s with errW := w }

/-- SET_POWER_LIMIT (20 R446): 2,000 to 5,200 W. -/
def execSetPowerLimit (watts : Nat) (s : State) : Host.Outcome State Fault Refusal :=
  if watts < 2000 ∨ 5200 < watts then .next s else .next { s with powerLimit := watts }

/-! ### Snapshots (20 R440 to R442) -/

/-- SBUF names 256 KiB granted to a colour of the PF. -/
def State.sbufOk (s : State) : Bool :=
  s.snapb.sbuf.toNat % 4096 == 0 && (s.coloursOf 0).any (fun c => s.grantedTo c s.snapb.sbuf.toNat 0x40000)

/-- SNAPSHOT_ARM: a write of 1 to SGO (20 R440). -/
def execSnapshotArm (s : State) : Host.Outcome State Fault Refusal :=
  if s.snapb.sarm = 0 ∨ (s.snapb.sstat ≠ 0 ∧ s.snapb.sstat ≠ 3) then .next s
  else .next { s with snapb := { s.snapb with sstat := 1, srcmask := 0 } }

/-- SNAPSHOT_TRIGGER (20 R440, R441): a source occurs. -/
def execSnapshotTrigger (src : SnapSource) (s : State) : Host.Outcome State Fault Refusal :=
  .next (match src with
    | .sw imm fn => s.snapSource 0 0 fn (imm.setWidth 32)
    | .fault code fn => s.snapFault code fn
    | .debug => s.snapSource 2 0 0 0
    | .fabric => s.snapSource 3 0 0 0)

/-- FABRIC_TRIGGER (20 R441): a trigger message of a member arrives through its port (18 R415); it is the next message of its
direction. -/
def execFabricTrigger (member : Nat) (s : State) : Host.Outcome State Fault Refusal :=
  match s.devgroup with
  | none => .next s
  | some dg =>
    if member = dg.own ∨ !s.portOk dg member then .next s
    else
      let s1 := { s with devgroup := some { dg with recvCtr := mput dg.recvCtr member (mget 0 dg.recvCtr member + 1) } }
      .next (s1.snapSource 3 0 0 0)

/-- The blocks that latch, as (type, instances): quadrants; TXE and GXE of a core; ring sequencers; atomic engines;
Dredges; Axdal ports; memory controllers (20 R442, 01 R13, R16, R25). -/
def State.snapBlocks (s : State) : List (Nat × Nat) :=
  [(1, 4 * (96 * s.cl)), (2, 96 * s.cl), (3, 18), (4, 8 * s.cl), (5, 8), (6, 18), (7, 8)]

/-- The state that a block latches, in the order of its row (20 R442): a slot holds one more than the R67 code of its group, 0 when it
is empty, and the PC of the group in a run. -/
def State.blockState (s : State) (type i : Nat) : List Nat :=
  match type with
  | 1 =>
    let gs := s.onQuad (i / 4) (i % 4)
    (List.range 16).flatMap (fun k =>
      match gs.find? (fun g => g.slot == k) with
      | some g => [g.status.code + 1, if g.status = .running then g.pc % 2 ^ 32 else 0]
      | none => [0, 0])
  | 2 =>
    [false, true].flatMap (fun gx =>
      let cs := (s.cmds.map (·.2)).filter (fun c => c.core == i && c.gather == gx && !c.isDone)
      (List.range 64).flatMap (fun fn =>
        match cs.find? (fun c => c.fn == fn) with
        | some c => [c.handle.toNat, c.step.toNat]
        | none => [0, 0]) ++ [(cs.filter (fun c => c.state == .active)).length])
  | 3 =>
    ((s.cmds.map (·.2)).filter (fun c => decide (c.rcd.coll ≠ 0) && !c.isDone && c.id % 18 == i)).flatMap (fun c =>
      [c.rcd.cid, c.ringPos, c.chunks, c.rcd.swstate])
  | 4 =>
    let ks := s.contribs.filter (fun c => c.cluster == i)
    [ks.length, (ks.filter (fun c => c.entry.isSome)).length]
  | 5 =>
    [match s.dredge.state with | .idle => 0 | .snap => 1 | .sweep => 2 | .clear => 3, s.dredge.completed, s.dredge.requested]
  | 6 =>
    let p := mget PortState.reset s.ports i
    [p.retries, p.paused.toNat, 4 - (s.disabled.filter (fun x => match x with | .axdalLane port _ => port == i | _ => false)).length]
  | _ =>
    let c := mget (0, 0) s.eccCounts i
    [c.1, c.2, s.stackOffset (32 * mget 0 s.patrol i)]

/-- The records of a snapshot; how a block's state lies in its 60 bytes is not stated (log entry 3). -/
def State.snapRecords (s : State) : List Byte :=
  s.snapBlocks.flatMap (fun b => (List.range b.2).flatMap (fun i =>
    BitVec.ofNat 8 b.1 :: bytesOfNat 3 i ++ padTo 60 (Config.snapLayout b.1 (s.blockState b.1 i))))

/-- The header of a snapshot (20 R442). -/
def State.snapHeader (s : State) : List Byte :=
  let b := s.snapb
  bytesOfNat 8 b.tclk ++ [b.srcmask, b.code, BitVec.ofNat 8 b.fn, 0] ++ bytesOfNat 4 b.tag.toNat ++
    bytesOfNat 4 ((s.snapBlocks.map (·.2)).foldl (· + ·) 0) ++ List.replicate 44 0

/-- The records of a snapshot are written at the point of coherence. -/
def State.latchRecords (s : State) : State :=
  let a := s.snapb.sbuf.toNat
  let bs := s.snapHeader ++ s.snapRecords
  if s.sbufOk then (s.pointWrite a (fullMask bs) 0 false).softTouch a bs.length else s

/-- SNAPSHOT_LATCH (20 R441): at TCLK every block latches, and the records are written. -/
def execSnapshotLatch (s : State) : Host.Outcome State Fault Refusal :=
  if s.snapb.sstat ≠ 2 ∨ s.clk < s.snapb.tclk then .next s
  else
    let s1 := s.latchRecords
    .next { s1 with free := s1.free + 1, snapb := { s1.snapb with sstat := 3 } }

/-! ### Boot and reset (20 R444 to R447) -/

/-- M := SHA-384(M ‖ SHA-384(image)) for a measurement register. -/
def extend (m : List (Nat × List Byte)) (i : Nat) (image : List Byte) : List (Nat × List Byte) :=
  let old := (mfind m i).getD (List.replicate 48 0)
  mput m i (Config.sha384 (old ++ Config.sha384 image))

/-- An image is accepted for a stage (20 R444). -/
def imageOk (i : Nat) (image : List Byte) : Bool :=
  Config.imageVerifies image && decide (Config.fusedVersion i ≤ Config.imageVersion image)

/-- Load the stages from `i` on: the last stage accepted and the registers (20 R444, R445). -/
def bootStages : Nat → List (List Byte) → List (Nat × List Byte) → Nat × List (Nat × List Byte)
  | i, [], m => (i - 1, m)
  | i, x :: xs, m =>
    if i > 6 then (6, m) else if imageOk i x then bootStages (i + 1) xs (extend m i x) else (i - 1, m)

/-- Firmware staged by the PF, in order: whether all of it was accepted, and the registers (20 R445). -/
def bootStaged : List (List Byte) → List (Nat × List Byte) → Bool × List (Nat × List Byte)
  | [], m => (true, m)
  | x :: xs, m => if imageOk 7 x then bootStaged xs (extend m 7 x) else (false, m)

/-- A boot: the stage reached and the measurement registers; the policy holds the W that a cold reset leaves. -/
def bootRun (images staged : List (List Byte)) : Nat × List (Nat × List Byte) :=
  let (n, m) := bootStages 1 images []
  if n < 6 then (n, m)
  else
    let (ok, m1) := bootStaged staged m
    if ok then (9, extend m1 8 (Config.policyBytes 32)) else (6, m1)

/-- What outlives the loss of everything the device holds: host memory, what is still to arrive, what is out of service,
and the model's own counters. -/
def State.wiped (s : State) (p : Part) : State :=
  { State.reset with
    part := p
    now := s.now, inputs := s.inputs, free := s.free, nextId := s.nextId, hostMem := s.hostMem, unc := s.unc
    hostBad := s.hostBad, retiredPairs := s.retiredPairs, spares := s.spares, retiredPages := s.retiredPages, disabled := s.disabled, staged := s.staged
    replies := s.replies }

/-- THERMAL_SHUTDOWN (20 R446): the module powers off; its keys are lost and no receipt is issued. -/
def execThermalShutdown (s : State) : Host.Outcome State Fault Refusal :=
  .next (s.wiped { s.part with powered := false, boot := 0 })

/-- COLD_RESET (20 R447): everything ends, pages that can be are repaired, the device boots. -/
def execColdReset (boot : BootReq) (s : State) : Host.Outcome State Fault Refusal :=
  let (n, m) := bootRun boot.images s.staged
  let s1 := s.wiped ⟨boot.grade576, boot.numa, min (boot.reservedLen / 4096 * 4096) 0x8000000000, s.part.paths, n, true⟩
  let mended := s.retiredPages.filter (fun p => Config.repairWorks s.free p)
  .next { s1 with
    measure := m
    spares := boot.spares.foldl (fun l x => addOnce x l) s.spares
    staged := []
    free := s.free + 1
    retiredPages := s.retiredPages.filter (fun p => !mended.contains p)
    unc := s.unc.filter (fun x => !mended.contains (x.1 / 128)) }

/-- FIRMWARE_STAGE (20 R445): it takes effect at the next cold reset. -/
def execFirmwareStage (image : List Byte) (s : State) : Host.Outcome State Fault Refusal :=
  .next { s with staged := s.staged ++ [image] }

end Sys2Proof.Machine
end

