-- ==== Sys2Proof/Machine/Debug.lean ====
section
/-! DEFINITION. Machine/Debug.lean: the debugger (16 R363, R364; 18 R402; 19 R428) and the actions on a stopped group that it
shares with the fault ring (19 R432). -/

namespace Sys2Proof.Machine

open Sys2Proof

/-- CO_DEBUG (19 R419). -/
def cCODEBUG : Byte := 0x1E

/-- DEBUGGER_ATTACH (19 R428; 16 R363). -/
def execDebuggerAttach (colour : Nat) (attached teamstop : Bool) (s : State) : Host.Outcome State Fault Refusal :=
  match s.ctx? colour with
  | some c => .next (s.setCtx { c with debugger := attached, teamstop := teamstop })
  | none => .next s

/-- DEBUG_SET_BREAKPOINT (16 R363): at most 16 addresses per context. -/
def execDebugSetBreakpoint (colour addr : Nat) (s : State) : Host.Outcome State Fault Refusal :=
  match s.ctx? colour with
  | some c =>
    let b : BitVec 56 := BitVec.ofNat 56 addr
    if c.breaks.length ≥ 16 ∨ b ∈ c.breaks then .next s else .next (s.setCtx { c with breaks := c.breaks ++ [b] })
  | none => .next s

/-- A debugger is attached to the context of a team. -/
def State.debugged (s : State) (team : Nat) : Bool :=
  (((s.team? team).bind (fun t => s.grid? t.grid)).bind (fun g => s.ctx? g.colour)).any (fun c => c.debugger)

/-- DEBUG_HALT (19 R420). -/
def execDebugHalt (team gid : Nat) (s : State) : Host.Outcome State Fault Refusal :=
  if s.debugged team then .next (s.modGroup team gid Group.askHalt) else .next s

/-- A STOPPED group goes on: the threads of SUBSET take PC := RPC after a fault (19 R432). -/
def Group.goOn (g : Group) (clk : Nat) : Group :=
  let g1 : Group :=
    if g.debugStop then g
    else g.mapThreads g.frame.subset (fun t => { t with pc := BitVec.setWidth 56 g.frame.rpc })
  { g1 with
    stopCode := 0, debugStop := false, haltAtEnd := false
    run := { g1.run with skipBreak := false, stepped := false } }.enter clk .ready .none

/-- DEBUG_RESUME (16 R364). -/
def execDebugResume (team gid : Nat) (s : State) : Host.Outcome State Fault Refusal :=
  if !s.debugged team then .next s
  else .next (s.modGroup team gid (fun g => if g.status = .stopped then g.goOn s.clk else g))

/-- DEBUG_STEP (16 R364): one run of the subset that holds a thread, outside run arbitration, while no other run is in progress. No run
of a frozen party begins (18 R417), nor one before the window accesses that its group still has to take (03 R64). -/
def execDebugStep (team gid thread : Nat) (s : State) : Host.Outcome State Fault Refusal :=
  match s.liveGroup team gid with
  | some g =>
    match g.thread thread with
    | some t =>
      let m := subsetMask (g.subsetAt t.pc)
      let busy := s.groups.any (fun p => p.2.status == .running)
      if g.status ≠ .stopped ∨ !s.debugged team ∨ !m.getLsbD thread ∨ busy ∨ s.winHolds g ∨
          s.frozenTeam (s.fnOfTeam team) team then .next s
      else
        let r : Run :=
          if g.run.resumed && g.run.subset == m then { g.run with skipBreak := true, stepped := true }
          else { Run.idle with subset := m, skipBreak := true, stepped := true }
        .next (s.setGroup { g.begin r with stopCode := 0, debugStop := false, haltAtEnd := false })
    | none => .next s
  | none => .next s

/-- The debugger's capability lets it read [a, a + n) of a team (17 R373). -/
def dbgCheck (c : Ctx) (k : TCap) (a n : Nat) : Option Byte :=
  match capCheck c [0, 3] [pLD] k with
  | some x => some x
  | none =>
    if needsTile ((a + n - 1 : Nat) : Int) && !k.has pTILE then some cPERM
    else if !k.inBounds a n then some cBOUND
    else if isWin a && !winAligned a n then some cALIGN
    else none

/-- A debugger's read of a window waits: a run of the target group is in progress, a line is absent, or an access to the same bytes was
accepted earlier (03 R64, 17 R373). -/
def State.debugWaits (s : State) (a n : Nat) : Bool :=
  isWin a && !s.winReady
    { id := s.nextId, byTeam := 0, byGid := 0, load := none, addr := a, bytes := n, data := [], mask := [], tag := none, lbl := 0 }

/-- A debugger's read reaches the host window through a KIND 0 capability (17 R369). -/
def debugHosted (k : TCap) (a n : Nat) : Bool := k.kind == 0 && isHost a && isHost (a + n - 1)

/-- The translations of a debugger's read (18 R407, R408). -/
def State.debugReach (s : State) (c : Ctx) (k : TCap) (a n : Nat) : Reach :=
  if debugHosted k a n then reachOf ((s.hostPieces c.fn k.col a n false).map (·.2.2)) else .ok

/-- The bytes of a debugger's read of the host window: a code where one is lost (20 R437). -/
def State.debugHost (s : State) (ps : List (Nat × Nat × Trans)) : Byte × List Byte :=
  ps.foldl (fun x p =>
    match p.2.2 with
    | .ok h => if x.1 = 0 then (if s.hostLost h p.2.1 then (cUNCORR, []) else (0, x.2 ++ bytesAt s.hostMem h p.2.1)) else x
    | _ => (cHDENIED, [])) (0, [])

/-- What a debugger's read returns: a code, or bytes (18 R402; 13 R271; 03 R64). CO data gives CO_DEBUG and no byte. -/
def State.debugData (s : State) (c : Ctx) (k : TCap) (a n : Nat) : Byte × List Byte :=
  match dbgCheck c k a n with
  | some x => (x, [])
  | none =>
    if isDev a && decide (a + n ≤ 0x8000000000) then
      if !s.keyed k.col then (cCOLOUR, [])
      else if s.coAt a n then (cCODEBUG, [])
      else if (s.badSec? a n).isSome then (cUNCORR, [])
      else (0, bytesAt s.mem a n)
    else if isWin a then
      match s.winFault a n false none with
      | some x => (if x = cCOREAD then cCODEBUG else x, [])
      | none => (0, (s.winRead a n).bytes)
    else if debugHosted k a n then
      if !s.keyed k.col then (cCOLOUR, []) else s.debugHost (s.hostPieces c.fn k.col a n false)
    else (cBOUND, [])

/-- The context of a debugger that may read for a team. -/
def State.debugCtx (s : State) (team : Nat) : Option Ctx :=
  (((s.team? team).bind (fun t => s.grid? t.grid)).bind (fun g => s.ctx? g.colour)).filter (fun c => c.debugger)

/-- DEBUG_READ (18 R402; 17 R373): the debugger's access is checked, and it reads; at a window it waits until the target core performs
it between runs, and in the host window for its translation. -/
def execDebugRead (team : Nat) (cap : DbgCap) (addr size : Nat) (s : State) : Host.Outcome State Fault Refusal :=
  let x := (team, cap, addr, size)
  let rest : State := { s with dbgReads := s.dbgReads.erase x }
  match s.debugCtx team with
  | some c =>
    if size == 0 || decide (16 < size) then .next s
    else if (dbgCheck c ⟨cap.bits, cap.tag⟩ addr size).isNone && s.debugWaits addr size then
      .next { s with dbgReads := if s.dbgReads.contains x then s.dbgReads else s.dbgReads ++ [x] }
    else
      match (dbgCheck c ⟨cap.bits, cap.tag⟩ addr size), s.debugReach c ⟨cap.bits, cap.tag⟩ addr size with
      | none, .wait asks =>
        .next { s.askAll c.fn asks false with dbgReads := if s.dbgReads.contains x then s.dbgReads else s.dbgReads ++ [x] }
      | none, .bad code =>
        .next ((rest.takeRange c.fn (s.pasidOf c.fn (TCap.col ⟨cap.bits, cap.tag⟩)) addr size).reply (.debug code []))
      | _, _ =>
        let (code, bs) := s.debugData c ⟨cap.bits, cap.tag⟩ addr size
        .next (rest.reply (.debug code bs))
  | none => .next rest

/-- The first debug read that has waited and can go on, or whose team is gone (17 R373). -/
def State.debugDue (s : State) : Option (Nat × DbgCap × Nat × Nat) :=
  s.dbgReads.find? (fun x =>
    match s.debugCtx x.1 with
    | none => true
    | some c =>
      !s.debugWaits x.2.2.1 x.2.2.2 &&
        (match s.debugReach c ⟨x.2.1.bits, x.2.1.tag⟩ x.2.2.1 x.2.2.2 with
          | .wait asks => (s.askAll c.fn asks false).ats != s.ats
          | _ => true))

/-- The pages that debug reads of a function wait for. -/
def State.debugPages (s : State) (fn : Nat) : List (Nat × Nat) :=
  s.dbgReads.flatMap (fun x =>
    match (s.debugCtx x.1).filter (fun c => c.fn == fn) with
    | some c =>
      let k : TCap := ⟨x.2.1.bits, x.2.1.tag⟩
      match (if debugHosted k x.2.2.1 x.2.2.2 then s.pasidOf fn k.col else none) with
      | some p => (hostPages x.2.2.1 x.2.2.2).map (fun y => (p, iovaOf y / 4096))
      | none => []
    | none => [])

end Sys2Proof.Machine
end

