-- ==== Sys2Proof/Machine/HostIf.lean ====
section
/-! DEFINITION. Machine/HostIf.lean: what reaches the device from its host: the registers of BAR0 (00 R11; 16 R341; 17 R374,
R375; 18 R400, R407, R412; 19 R431; 20 R440), the fault ring (19 R431, R432), and translations (18 R408 to R410). -/

namespace Sys2Proof.Machine

open Sys2Proof

/-! ### The fault ring (19 R431, R432) -/

/-- FLOG. -/
def Fn.flog (f : Fn) : Nat := (f.fcfg.extractLsb' 0 5).toNat

/-- FAULT_RING_ENABLE (19 R431; 16 R344): a write of 1 to FCTL.ENABLE. -/
def execFaultRingEnable (fn : Nat) (s : State) : Host.Outcome State Fault Refusal :=
  let f := s.fn fn
  if fn ≥ 64 ∨ f.fenable then .next s
  else
    let off := s.setFn fn { f with fenabling := false }
    if f.flog < 4 ∨ 12 < f.flog ∨ (f.fcfg &&& 0xF800FFE0) ≠ 0 ∨ f.fbase.toNat % 4096 ≠ 0 then .next off
    else
      let p := s.ringPasid fn
      let n := 64 * 2 ^ f.flog
      match s.reach fn p f.fbase.toNat n true with
      | .ok => .next (s.setFn fn { f with fenable := true, fenabling := false })
      | .bad _ => .next (off.takeRange fn p f.fbase.toNat n)
      | .wait asks => .next ((s.askAll fn asks true).setFn fn { f with fenabling := true })

/-- The 64 bytes of a fault record. -/
def FaultRec.bytes (r : FaultRec) (n : Word) : List Byte :=
  bytesOfNat 8 r.tag.toNat ++ bytesOfNat 4 r.kid ++ bytesOfNat 2 r.core ++ [BitVec.ofNat 8 r.gid, r.code] ++
    bytesOfNat 8 r.fpc.toNat ++ bytesOfNat 8 r.faddr.toNat ++ bytesOfNat 8 r.aux.toNat ++ bytesOfNat 8 r.subset.toNat ++
    bytesOfNat 4 n.toNat ++ bytesOfNat 2 r.colour ++
    [BitVec.ofNat 8 ((if r.nested then 1 else 0) + (if r.teamterm then 2 else 0))] ++ List.replicate 9 0

/-- FAULT_RECORD_WRITE (19 R431): the oldest pending record, when the ring is enabled and has room; its MSI-X message
follows. -/
def execFaultRecordWrite (fn : Nat) (s : State) : Host.Outcome State Fault Refusal :=
  let f := s.fn fn
  match f.pendingRecs with
  | [] => .next s
  | r :: rs =>
    if !f.fenable || decide ((f.fwr - f.frd).toNat ≥ 2 ^ f.flog) then .next s
    else
      let p := s.ringPasid fn
      let a := f.fbase.toNat + 64 * (f.fwr.toNat % 2 ^ f.flog)
      match s.reach fn p a 64 true with
      | .ok =>
        let s1 := s.putAt fn p a (r.bytes f.fwr)
        let f1 := s1.fn fn
        .next ((s1.setFn fn { f1 with
          pendingRecs := rs, fwr := f.fwr + 1, ring := mput f1.ring f.fwr.toNat r }).message fn true
            (f.fcfg.extractLsb' 16 11).toNat)
      | .bad _ => .next (s.takeRange fn p a 64)
      | .wait asks => .next (s.askAll fn asks true)

/-- The record that FCMD acts on. -/
def State.fseqRec (s : State) (fn : Nat) : Option FaultRec := mfind (s.fn fn).ring (s.fn fn).fseq.toNat

/-- A later record names the same group. -/
def State.laterRec (s : State) (fn : Nat) (r : FaultRec) : Bool :=
  let f := s.fn fn
  let same (q : FaultRec) : Bool := q.team == r.team && q.gid == r.gid && !q.teamterm
  f.pendingRecs.any same ||
    f.ring.any (fun p => same p.2 && decide (0 < (BitVec.ofNat 32 p.1 - f.fseq).toNat) &&
      decide ((BitVec.ofNat 32 p.1 - f.fseq).toNat < 2 ^ 31))

/-- FAULT_RESUME (19 R432): the group, still STOPPED with the record's fault, goes on at RPC. -/
def execFaultResume (fn : Nat) (s : State) : Host.Outcome State Fault Refusal :=
  match s.fseqRec fn with
  | none => .next s
  | some r =>
    if r.teamterm || s.laterRec fn r then .next s
    else
      .next (s.modGroup r.team r.gid (fun g =>
        if g.status = .stopped ∧ !g.debugStop ∧ g.stopCode = r.code then g.goOn s.clk else g))

/-- FAULT_TERMINATE (19 R432): the grid of the record terminates with its code. -/
def execFaultTerminate (fn : Nat) (s : State) : Host.Outcome State Fault Refusal :=
  match s.fseqRec fn with
  | none => .next s
  | some r =>
    match s.team? r.team with
    | some t => .next (s.terminateGrid t.grid r.code)
    | none => .next s

/-! ### Translations (18 R408 to R410) -/

/-- Page requests are sent, oldest first, up to the number that the host allocated (18 R409). -/
def Fn.sendPages (f : Fn) : Fn :=
  let k := f.pageMax - f.pageReqs.length
  { f with pageReqs := f.pageReqs ++ f.pageQueue.take k, pageQueue := f.pageQueue.drop k }

/-- A page request with the access type of the access that met the page (18 R409): one per page, which waits when the host's number is
outstanding. -/
def State.pageRequest (s : State) (fn pasid page : Nat) (write : Bool) : State :=
  let f := s.fn fn
  if f.paging pasid page then s
  else s.setFn fn { f with pageQueue := f.pageQueue ++ [(⟨pasid, page, write⟩ : PageReq)] }.sendPages

/-- A granted translation is cached, and a refusal that it overtakes is forgotten. -/
def State.cacheTlb (s : State) (c : AtsReply) : State :=
  let old := s.tlb.filter (fun x => !(x.fn == c.fn && x.pasid == c.pasid && overlaps x.iova x.size c.iova c.size))
  let f := s.fn c.fn
  let s1 : State := { s with tlb := ⟨c.fn, c.pasid, c.iova, c.size, c.read, c.write, c.frame⟩ :: old.take 4095 }
  s1.setFn c.fn { f with
    denied := f.denied.filter (fun d => !(d.1 == c.pasid && overlaps (4096 * d.2) 4096 c.iova c.size)) }

/-- ATS_COMPLETION (18 R408, R410): the oldest request that it covers is answered. A completion that covers a range invalidated
since that request was sent is discarded, and the access asks again. -/
def execAtsCompletion (c : AtsReply) (s : State) : Host.Outcome State Fault Refusal :=
  match s.ats.find? (fun r => r.fn == c.fn && r.pasid == c.pasid && decide (c.iova ≤ 4096 * r.page) &&
      decide (4096 * r.page < c.iova + c.size)) with
  | none => .next s
  | some r =>
    let s1 := { s with ats := s.ats.erase r }
    if r.inval.any (fun v => overlaps v.1 v.2 c.iova c.size) then .next s1
    else if c.read || c.write then .next (s1.cacheTlb c)
    else if r.quiet then .next s1
    else .next (s1.pageRequest r.fn r.pasid r.page r.write)

/-- A host address lies on a page. -/
def onPage (page a : Nat) : Bool := isHost a && iovaOf a / 4096 == page

/-- The first address of [a, a + n) on a page. -/
def firstOn (page a n : Nat) : Option Nat :=
  if onPage page a then some a
  else if onPage page (a + n - 1) then some (a + n - 1 - iovaOf (a + n - 1) % 4096) else none

/-- The elements that wait on a page request: those that wait for the page, and those that still read and have no other translation
of it (18 R408), go on with the status that the response gives. -/
def State.pageElems (s : State) (fn pasid page : Nat) (st : Nat → ElemStatus) : State :=
  { s with groups := mmap (fun g =>
      if s.fnOfTeam g.team ≠ fn then g
      else
        { g with loads := g.loads.map (fun ld => { ld with elems := ld.elems.map (fun x =>
            if s.pasidOf fn x.colour ≠ some pasid then x
            else
              match x.status with
              | .pageWait a => if onPage page a then { x with status := st a } else x
              | .waiting =>
                if ld.kind.isAtomic || (s.tlbFind fn pasid (4096 * page)).isSome then x
                else
                  match firstOn page x.addr x.bytes with
                  | some a => { x with status := st a }
                  | none => x
              | _ => x) }) }) s.groups }

/-- The groups that are REPLAYABLE on a page become READY; one that is SAVED becomes so at its restore. A store whose request
failed is refused when it is replayed. -/
def State.pageGroups (s : State) (fn pasid page : Nat) (ok : Bool) : State :=
  { s with groups := mmap (fun g =>
      match g.status, g.wait with
      | .replayable, .page a store =>
        if onPage page a && s.fnOfTeam g.team == fn then
          let g1 := if store && !ok then { g with refused := some (pasid, page) } else g
          if (s.team? g.team).any (fun t => t.status == .saved) then { g1 with met := true }
          else { g1 with stopCode := 0 }.enter s.clk .ready .none
        else g
      | _, _ => g) s.groups }

/-- The engine commands whose next chunk waits for a page go on; a failed request is a fault of that chunk (14 R313). -/
def State.pageCmds (s : State) (fn pasid page : Nat) (ok : Bool) : State :=
  { s with cmds := mmap (fun c =>
      if c.fn == fn && c.page.any (fun p => p.1 == pasid && p.2.1 == page) then
        (if ok then { c with page := none } else { c with lost := true })
      else c) s.cmds }

/-- The pages of a range under a PASID, none for device memory. -/
def pagesUnder (p : Option Nat) (a n : Nat) : List (Nat × Nat) :=
  match p with
  | some p => if isHost a then (hostPages a n).map (fun x => (p, iovaOf x / 4096)) else []
  | none => []

/-- The pages that a launch queue waits for or reads next: its ring at an enable, its packet and the packet's CMPL. -/
def State.queuePages (s : State) (fn q : Nat) : List (Nat × Nat) :=
  let x := s.queue fn q
  let rp := s.ringPasid fn
  if x.enabling then pagesUnder rp x.qbase.toNat (64 * 2 ^ x.qlog)
  else if x.running && x.wridx != x.rdidx then
    pagesUnder rp (x.qbase.toNat + 64 * (x.rdidx.toNat % 2 ^ x.qlog)) 64 ++
      (match s.packet fn q with
        | .bytes b =>
          pagesUnder (if imgNat b 0 2 = x.rev then s.cmplPasid fn (s.lrecCtx fn b) else rp) (imgNat b 0x10 8) 32
        | _ => [])
  else []

/-- The pages that the packets and control blocks of a function wait for. -/
def State.blockPages (s : State) (fn : Nat) : List (Nat × Nat) :=
  let f := s.fn fn
  let rp := s.ringPasid fn
  f.queues.flatMap (fun q => s.queuePages fn q.1) ++
    (if f.fenabling then pagesUnder rp f.fbase.toNat (64 * 2 ^ f.flog)
      else if f.fenable && !f.pendingRecs.isEmpty then
        pagesUnder rp (f.fbase.toNat + 64 * (f.fwr.toNat % 2 ^ f.flog)) 64
      else []) ++
    s.heapPages fn ++ s.debugPages fn ++
    s.grids.flatMap (fun p =>
      if p.2.fn == fn && !p.2.complete && s.allRetired p.2 then pagesUnder (s.pasidOf fn p.2.colour) p.2.cmpl 32 else [])

/-- A refusal outlives no access: those of pages that nothing waits for are forgotten. -/
def State.pruneDenied (s : State) (fn : Nat) : State :=
  let ps := s.blockPages fn
  s.setFn fn { s.fn fn with denied := (s.fn fn).denied.filter ps.contains }

/-- PAGE_RESPONSE (18 R409). A request that waited for one of the host's number is sent. -/
def execPageResponse (r : PageReply) (s : State) : Host.Outcome State Fault Refusal :=
  let f := s.fn r.fn
  let same (q : PageReq) : Bool := q.pasid == r.pasid && q.page == r.page
  if !f.pageReqs.any same then .next s
  else
    let f1 : Fn := { f with
      pageReqs := f.pageReqs.filter (fun q => !same q)
      denied := if !r.ok && (s.blockPages r.fn).contains (r.pasid, r.page) then f.denied ++ [(r.pasid, r.page)] else f.denied }
    let s1 := s.setFn r.fn f1.sendPages
    let s2 := if r.ok then s1.pageElems r.fn r.pasid r.page (fun _ => .waiting)
      else s1.pageElems r.fn r.pasid r.page (fun a => .failed cHDENIED a)
    .next ((s2.pageGroups r.fn r.pasid r.page r.ok).pageCmds r.fn r.pasid r.page r.ok)

/-- ATS_INVALIDATE (18 R410): the write-backs leave, the copies and the translations go, and the Invalidate Completion is sent. -/
def execAtsInvalidate (fn pasid iova len : Nat) (s : State) : Host.Outcome State Fault Refusal :=
  let cols := ((s.fn fn).pasids.map (fun p => p.2.colour)).filter (fun c => s.pasidOf fn c == some pasid)
  let s1 := s.purge (2 ^ 55 + iova) len true (some cols)
  .next { s1 with
    tlb := s1.tlb.filter (fun t => !(t.fn == fn && t.pasid == pasid && overlaps t.iova t.size iova len))
    ats := s1.ats.map (fun r => if r.fn = fn ∧ r.pasid = pasid then { r with inval := r.inval ++ [(iova, len)] } else r)
    replies := s1.replies ++ [.invalidated fn pasid iova len] }

/-! ### Registers (00 R11) -/

/-- A register field at an offset of BAR0: its length, the value that a read gives, and the effect of a write. -/
structure Reg where
  off : Nat
  len : Nat
  get : Nat
  put : Nat → State → State

/-- The next state of an outcome that has one. -/
def orElse (s : State) (o : Host.Outcome State Fault Refusal) : State :=
  match o with
  | .next s' => s'
  | _ => s

/-- A read-only field. -/
def ro (off len get : Nat) : Reg := ⟨off, len, get, fun _ s => s⟩

/-- The control block and the notify page of a launch queue (16 R341). -/
def State.queueRegs (s : State) (fn q : Nat) : List Reg :=
  let x := s.queue fn q
  let b := 0x10000 + 64 * q
  let set (h : LQueue → LQueue) (s : State) : State := s.setQueue fn q (h (s.queue fn q))
  let idle (h : LQueue → LQueue) (s : State) : State := if (s.queue fn q).enable then s else set h s
  [⟨b, 8, x.qbase.toNat, fun v => idle (fun x => { x with qbase := BitVec.ofNat 64 v })⟩,
   ⟨b + 8, 4, x.qcfg.toNat, fun v => idle (fun x => { x with qcfg := BitVec.ofNat 32 v &&& 0xFFFF001F })⟩,
   ⟨b + 0xC, 4, if x.enable then 1 else 0, fun v s =>
     if v % 2 = 1 then orElse s (execLqEnable fn q s)
     else (set (fun x => { x with enable := false, running := false, enabling := false }) s).pruneDenied fn⟩,
   ro (b + 0x10) 4 ((if x.running then 1 else 0) + (if x.stopped then 2 else 0) + 256 * x.stopcode.toNat),
   ro (b + 0x14) 4 x.rdidx.toNat,
   ⟨b + 0x18, 8, x.ktag.toNat, fun v => set (fun x => { x with ktag := BitVec.ofNat 64 v })⟩,
   ⟨b + 0x20, 4, 0, fun v s => orElse s (execLqTerminate fn q (BitVec.ofNat 32 v) s)⟩,
   ro (b + 0x24) 4 x.kstat,
   ⟨0x20000 + 4096 * q, 4, 0, fun v s => orElse s (execLqNotify fn q (BitVec.ofNat 32 v) s)⟩]

/-- The grant block of the PF (17 R374). -/
def State.grantRegs (s : State) : List Reg :=
  let b := s.gblock
  let idle (h : GrantBlock → GrantBlock) (s : State) : State :=
    if s.gblock.gstat = 1 then s else { s with gblock := h s.gblock }
  [⟨0x30000, 8, b.gbase.toNat, fun v => idle (fun b => { b with gbase := BitVec.ofNat 64 v })⟩,
   ⟨0x30008, 8, b.glen.toNat, fun v => idle (fun b => { b with glen := BitVec.ofNat 64 v })⟩,
   ⟨0x30010, 2, b.gcol.toNat, fun v => idle (fun b => { b with gcol := BitVec.ofNat 16 v })⟩,
   ⟨0x30012, 1, b.gop.toNat, fun v => idle (fun b => { b with gop := BitVec.ofNat 8 v })⟩,
   ro 0x30013 1 b.gstat.toNat,
   ⟨0x30014, 4, 0, fun v => if v = 1 then
       idle (fun b => { b with gstat := if b.gop = 1 ∨ b.gop = 2 then 1 else 3, pass := 0 }) else id⟩,
   ro 0x30018 8 s.reservedBase, ro 0x30020 8 s.part.reserved]

/-- The mint block (17 R375). -/
def State.mintRegs (s : State) (fn : Nat) : List Reg :=
  let f := s.fn fn
  let idle (h : Fn → Fn) (s : State) : State := if (s.fn fn).mstat = 1 then s else s.setFn fn (h (s.fn fn))
  [⟨0x31000, 8, f.mbase.toNat, fun v => idle (fun f => { f with mbase := BitVec.ofNat 64 v })⟩,
   ⟨0x31008, 8, f.mlen.toNat, fun v => idle (fun f => { f with mlen := BitVec.ofNat 64 v })⟩,
   ⟨0x31010, 8, f.mdest.toNat, fun v => idle (fun f => { f with mdest := BitVec.ofNat 64 v })⟩,
   ⟨0x31018, 2, f.mperm.toNat, fun v => idle (fun f => { f with mperm := BitVec.ofNat 16 v })⟩,
   ⟨0x3101A, 2, f.mcol.toNat, fun v => idle (fun f => { f with mcol := BitVec.ofNat 16 v })⟩,
   ⟨0x3101C, 1, f.mkind.toNat, fun v => idle (fun f => { f with mkind := BitVec.ofNat 8 v })⟩,
   ⟨0x3101D, 1, f.mlbl.toNat, fun v => idle (fun f => { f with mlbl := BitVec.ofNat 8 v })⟩,
   ro 0x3101E 1 f.mstat.toNat,
   ⟨0x3101F, 1, 0, fun v => if v = 1 then idle (fun f => { f with mstat := 1 }) else id⟩]

/-- The seal block (18 R400). -/
def State.sealRegs (s : State) (fn : Nat) : List Reg :=
  let f := s.fn fn
  let idle (h : Fn → Fn) (s : State) : State := if (s.fn fn).sstat = 1 then s else s.setFn fn (h (s.fn fn))
  [⟨0x32000, 8, f.ssrc.toNat, fun v => idle (fun f => { f with ssrc := BitVec.ofNat 64 v })⟩,
   ⟨0x32008, 8, f.sdst.toNat, fun v => idle (fun f => { f with sdst := BitVec.ofNat 64 v })⟩,
   ⟨0x32010, 8, f.slen.toNat, fun v => idle (fun f => { f with slen := BitVec.ofNat 64 v })⟩,
   ⟨0x32018, 2, f.scol.toNat, fun v => idle (fun f => { f with scol := BitVec.ofNat 16 v })⟩,
   ⟨0x3201A, 2, f.skey.toNat, fun v => idle (fun f => { f with skey := BitVec.ofNat 16 v })⟩,
   ⟨0x3201C, 1, f.sop.toNat, fun v => idle (fun f => { f with sop := BitVec.ofNat 8 v })⟩,
   ro 0x3201D 1 f.sstat.toNat,
   ⟨0x3201E, 1, 0, fun v => if v = 1 then
       idle (fun f => { f with sstat := if f.sop = 1 ∨ f.sop = 2 then 1 else 3 }) else id⟩] ++
  (List.range 12).map (fun j =>
    ⟨0x32020 + j, 1, (mget 0 f.siv j).toNat, fun v => idle (fun f => { f with siv := mset 0 f.siv j (BitVec.ofNat 8 v) })⟩)

/-- A PASID table entry as 64 bits (18 R407). -/
def PasidEntry.word (p : PasidEntry) : Nat := p.colour + 4096 * p.pasid + (if p.valid then 2 ^ 32 else 0)

/-- An entry that is not in use. -/
def PasidEntry.none : PasidEntry := ⟨false, 0, 0⟩

/-- The PASID table (18 R407): a change of a locked table is a change of the TDI's configuration (R411). -/
def State.pasidRegs (s : State) (fn : Nat) : List Reg :=
  (List.range 16).map (fun j =>
    ⟨0x33000 + 8 * j, 8, (mget PasidEntry.none (s.fn fn).pasids j).word, fun v s =>
      let e : PasidEntry := ⟨v / 2 ^ 32 % 2 == 1, v / 4096 % 2 ^ 20, v % 4096⟩
      if mget PasidEntry.none (s.fn fn).pasids j = e then s
      else
        let s1 := s.tdiTouch fn
        s1.setFn fn { s1.fn fn with pasids := mset PasidEntry.none (s1.fn fn).pasids j e }⟩)

/-- The fault block (19 R431). -/
def State.faultRegs (s : State) (fn : Nat) : List Reg :=
  let f := s.fn fn
  let set (h : Fn → Fn) (s : State) : State := s.setFn fn (h (s.fn fn))
  let idle (h : Fn → Fn) (s : State) : State := if (s.fn fn).fenable then s else set h s
  [⟨0x34000, 8, f.fbase.toNat, fun v => idle (fun f => { f with fbase := BitVec.ofNat 64 v })⟩,
   ⟨0x34008, 4, f.fcfg.toNat, fun v => idle (fun f => { f with fcfg := BitVec.ofNat 32 v })⟩,
   ⟨0x3400C, 4, if f.fenable then 1 else 0, fun v s =>
     if v % 2 = 1 then orElse s (execFaultRingEnable fn s) else
       (set (fun f => { f with fenable := false, fenabling := false }) s).pruneDenied fn⟩,
   ro 0x34010 4 f.fwr.toNat,
   ⟨0x34014, 4, f.frd.toNat, fun v => set (fun f => { f with frd := BitVec.ofNat 32 v })⟩,
   ⟨0x34018, 4, f.fseq.toNat, fun v => set (fun f => { f with fseq := BitVec.ofNat 32 v })⟩,
   ⟨0x3401C, 4, 0, fun v s =>
     if v % 4 = 1 then orElse s (execFaultResume fn s)
     else if v % 4 = 2 then orElse s (execFaultTerminate fn s) else s⟩]

/-- The snapshot block of the PF (20 R440). -/
def State.snapRegs (s : State) : List Reg :=
  let b := s.snapb
  let set (h : Snapshot → Snapshot) (s : State) : State := { s with snapb := h s.snapb }
  [⟨0x35000, 8, b.sbuf.toNat, fun v => set (fun b => { b with sbuf := BitVec.ofNat 64 v })⟩,
   ⟨0x35008, 1, b.sarm.toNat, fun v => set (fun b => { b with sarm := BitVec.ofNat 8 v &&& 0x1F })⟩,
   ⟨0x35009, 1, b.scode.toNat, fun v => set (fun b => { b with scode := BitVec.ofNat 8 v })⟩,
   ro 0x3500A 1 b.sstat.toNat,
   ⟨0x3500B, 1, 0, fun v s => if v = 1 then orElse s (execSnapshotArm s) else s⟩,
   ro 0x3500C 4 b.smiss.toNat]

/-- The fields of the block that holds an offset of a function's BAR0. -/
def State.regsAt (s : State) (fn off : Nat) : List Reg :=
  if 0x10000 ≤ off ∧ off < 0x10400 then s.queueRegs fn ((off - 0x10000) / 64)
  else if 0x20000 ≤ off ∧ off < 0x30000 then s.queueRegs fn ((off - 0x20000) / 4096)
  else if 0x30000 ≤ off ∧ off < 0x31000 then (if fn = 0 then s.grantRegs else [])
  else if 0x31000 ≤ off ∧ off < 0x32000 then s.mintRegs fn
  else if 0x32000 ≤ off ∧ off < 0x33000 then s.sealRegs fn
  else if 0x33000 ≤ off ∧ off < 0x34000 then s.pasidRegs fn
  else if 0x34000 ≤ off ∧ off < 0x35000 then s.faultRegs fn
  else if 0x35000 ≤ off ∧ off < 0x36000 then (if fn = 0 then s.snapRegs else [])
  else []

/-- Byte j of a number. -/
def natByte (v j : Nat) : Nat := v / 256 ^ j % 256

/-- A write of `n` bytes at `a` meets a field: the field's bytes outside the write keep their value. -/
def Reg.merge (r : Reg) (a n v : Nat) : Nat :=
  ((List.range r.len).map (fun j =>
    let x := r.off + j
    (if a ≤ x ∧ x < a + n then natByte v (x - a) else natByte r.get j) * 256 ^ j)).foldl (· + ·) 0

/-- A host write to BAR0: the fields that it meets, in ascending order. A part whose boot stopped shows no VF (20 R445). -/
def State.barWrite (s : State) (fn off n v : Nat) : State :=
  if fn ≥ 64 ∨ (fn ≠ 0 ∧ s.part.boot < 9) then s
  else
    (List.range (s.regsAt fn off).length).foldl (fun s i =>
      match (s.regsAt fn off)[i]? with
      | some r => if overlaps r.off r.len off n then r.put (r.merge off n v) s else s
      | none => s) s

/-- The bits of a byte of BAR0 that are not reserved (00 R10): a field keeps what was written there, for the operation that refuses
it, and reads zero. -/
def readable (off : Nat) : Nat :=
  match off with
  | 0x30007 => 0
  | 0x30011 => 0x0F
  | 0x31019 => 0x0F
  | 0x3101B => 0x0F
  | 0x3101D => 0x03
  | 0x32019 => 0x0F
  | 0x3201B => 0x0F
  | 0x34008 => 0x1F
  | 0x34009 => 0
  | 0x3400B => 0x07
  | _ => 0xFF

/-- A host read of BAR0; reserved bits and bytes read zero. -/
def State.barRead (s : State) (fn off n : Nat) : Nat :=
  ((List.range n).map (fun j =>
    let x := off + j
    (match (s.regsAt fn x).find? (fun r => decide (r.off ≤ x) && decide (x < r.off + r.len)) with
      | some r => natByte r.get (x - r.off) &&& readable x
      | none => 0) * 256 ^ j)).foldl (· + ·) 0

/-- REGISTER_WRITE (00 R11). -/
def execRegisterWrite (fn off size : Nat) (val : BitVec 64) (s : State) : Host.Outcome State Fault Refusal :=
  .next (s.barWrite fn off (min size 8) val.toNat)

/-- HOST_BAR_REQUEST (18 R412): outside its stream or without the T bit, a request to a RUN TDI is an Unsupported Request;
every other is a read or a write of BAR0. -/
def execHostBarRequest (fn : Nat) (inStream tbit : Bool) (off size : Nat) (write : Option (BitVec 64)) (s : State) :
    Host.Outcome State Fault Refusal :=
  if fn ≥ 64 ∨ (fn ≠ 0 ∧ s.part.boot < 9) ∨ ((s.fn fn).tdi = .run ∧ !(inStream && tbit && (s.fn fn).ide)) then
    .next (s.reply (.bar fn none))
  else
    match write with
    | some v => .next (s.barWrite fn off (min size 8) v.toNat)
    | none => .next (s.reply (.bar fn (some (BitVec.ofNat 64 (s.barRead fn off (min size 8))))))

end Sys2Proof.Machine
end

