-- ==== Sys2Proof/Machine/Fetch.lean ====
section
/-! DEFINITION. Machine/Fetch.lean: fetching an instruction (04 R73, R77, R85; 15 R331), words that are not instructions (04
R97), breakpoints (16 R363), what happens between instructions, and what arrives from outside. -/

namespace Sys2Proof.Machine

open Sys2Proof

/-! ### The word at a PC -/

/-- [a, a + n) can be fetched through a group's code capability (04 R85 steps 1 and 3; 17 R391). -/
def Group.canFetch (g : Group) (a n : Nat) : Bool := g.kcode.tag && g.kcode.inBounds a n

/-- The units of code from an address on. -/
def State.codeUnits (s : State) (a : Nat) : Nat → List Word
  | 0 => []
  | n + 1 => BitVec.ofNat 32 (s.codeUnit a) :: s.codeUnits (a + 4) n

/-- The fault of a decode error (04 R85, R97). -/
def decodeFault : DecodeError → Byte
  | .truncated => cFETCH
  | .illegalLen => cILLEN
  | .reservedBit => cILFORM
  | .unimplemented => cUNIMPL
  | .illegalForm => cILFORM
  | .illegalOperand => cILOPER

/-- The opcode in the first unit of a word. -/
def unitOpc (dense : Bool) (u : Nat) : BitVec 10 := BitVec.ofNat 10 (if dense then u / 2 else u / 4)

/-- Fetch and decode at an address (04 R85 steps 1 to 6): an instruction, a word that is none, or FETCH_BOUND. The key of
the code's colour must exist (18 R405), and the bytes must be readable: of a word with a unit that is not, the units before it are known. -/
def State.fetchAt (s : State) (g : Group) (native : Bool) (a : Nat) : Instr :=
  let bad (units : List Word) (len : Nat) (c : Byte) : Instr :=
    .nonInstructionEncoding ⟨!native, units, len, unitOpc (!native) ((units.headD 0).toNat), c⟩
  if !g.canFetch a 4 then .fetchBound a
  else if !s.keyed g.kcode.col then bad [] 0 cCOLOUR
  else if (s.badSec? a 4).isSome then bad [] 0 cUNCORR
  else if s.coAt a 4 then bad [] 0 cCOREAD
  else
    let u := s.codeUnit a
    match unitLength native u with
    | none => bad (s.codeUnits a 1) 0 cILLEN
    | some len =>
      match (List.range (len / 4)).find? (fun j => !g.canFetch (a + 4 * j) 4) with
      | some j => .fetchBound (a + 4 * j)
      | none =>
        let units := s.codeUnits a (len / 4)
        match (List.range (len / 4)).find? (fun j => (s.badSec? (a + 4 * j) 4).isSome || s.coAt (a + 4 * j) 4) with
        | some j => bad (units.take j) len (if (s.badSec? (a + 4 * j) 4).isSome then cUNCORR else cCOREAD)
        | none =>
        if native ∧ 32 < a % 32 + len then bad units len cILFORM
        else
          match decode (!native) units with
          | .ok i => i
          | .error e => bad units len (decodeFault e)

/-- Where the instruction at a PC starts: a fill is passed over (04 R73). -/
def State.instrAt (s : State) (g : Group) (native : Bool) (a : Nat) : Nat :=
  if g.canFetch a 4 && s.isFill native a then a + 4 else a

/-! ### Words that are not instructions (04 R97, 19 R421) -/

/-- The operand codes, MOD, QUAL, QUAL2, guards and immediate that a frame shows of a raw word. -/
structure RawFields where
  ops : List Nat
  mods : List Nat
  g1 : Guard
  g2 : Guard
  imm : Nat

/-- The fields of a word whose length is not known. -/
def RawFields.none : RawFields := ⟨[475, 475, 475, 475, 475], [0, 0, 0], Guard.always, Guard.always, 0⟩

/-- The raw fields of a Torub-N word. -/
def rawNative (w : Nat) : RawFields :=
  if w % 4 = 0 then
    match unpack layoutN64 w with
    | [_, _, _, _, dst, a, b, gp, gn, mod, qual] =>
      ⟨[dst, a, b, 475, 475], [mod, qual, 0], .ofCode gp gn, Guard.always, 0⟩
    | _ => RawFields.none
  else if w % 4 = 1 then
    match unpack layoutN96 w with
    | [_, _, _, _, dst, a, b, gp, gn, mod, qual, c, gp2, gn2, imm] =>
      ⟨[dst, a, b, c, 475], [mod, qual, 0], .ofCode gp gn, .ofCode gp2 gn2, imm⟩
    | _ => RawFields.none
  else
    match unpack layoutN128 w with
    | [_, _, _, _, dst, a, b, gp, gn, mod, qual, c, d, gp2, gn2, qual2, imm] =>
      ⟨[dst, a, b, c, d], [mod, qual, qual2], .ofCode gp gn, .ofCode gp2 gn2, imm⟩
    | _ => RawFields.none

/-- The raw fields of a Torub-D word; `asC` decodes the SRCC field as an operand (19 R421). -/
def rawDense (asC : Bool) (w : Nat) : RawFields :=
  match unpack layoutD1 (w % 2 ^ 32) with
  | [wbit, _, dst, a, mods] =>
    if wbit = 0 then ⟨[dst, a, 475, 475, 475], [mods, 0, 0], Guard.always, Guard.always, 0⟩
    else
      let fu := mods / 2 == 1
      let iu := mods % 2 == 1
      let ext := w / 2 ^ 64
      let imm := if iu then (if fu then ext / 2 ^ 32 % 2 ^ 32 else ext % 2 ^ 32) else 0
      match unpack layoutD2 (w / 2 ^ 32), unpack layoutDF (if fu then ext % 2 ^ 32 else 0) with
      | [b, cq, gp, gn, mod, _], [d, gp2, gn2, qual2, fqual, _] =>
        ⟨[dst, a, b, if asC then cq else 475, if fu then d else 475], [mod, if asC then fqual else cq % 256, qual2],
          .ofCode gp gn, if fu then .ofCode gp2 gn2 else Guard.always, imm⟩
      | _, _ => RawFields.none
  | _ => RawFields.none

/-- The frame fields of a word that is not an instruction. -/
def badFrame (e : BadWord) (g : Group) (width : Nat) : FrameWord :=
  let w := joinUnits e.units
  let known := e.length != 0
  let asC := e.fault == cUNIMPL || (opRow e.opc.toNat).any (fun r => r.c)
  let r := if !known then RawFields.none else if e.dense then rawDense asC w else rawNative w
  { form := BitVec.ofNat 8 (e.length + (if e.dense then 128 else 0))
    opc := if known then e.opc.setWidth 16 else 0
    words := e.units
    ops := r.ops.map (BitVec.ofNat 16)
    mods := r.mods.map (BitVec.ofNat 8)
    guards := [guardByte r.g1, guardByte r.g2]
    imm := BitVec.ofNat 32 r.imm
    amask := if known then g.run.subset &&& g.guardMask width r.g1 &&& g.guardMask width r.g2 else g.run.subset
    length := e.length }

/-- The current group in its run, with its team, grid and context. -/
def State.running? (s : State) : Option (Group × Team × Grid × Ctx) :=
  match s.cur with
  | none => none
  | some (team, gid) =>
    match s.group? team gid, s.team? team with
    | some g, some t =>
      match s.grid? t.grid with
      | some gr =>
        match s.ctx? gr.colour with
        | some c => if g.status == .running && named team gid g t gr c then some (g, t, gr, c) else none
        | none => none
      | none => none
    | _, _ => none

/-- NON_INSTRUCTION_ENCODING (04 R97): the fault of the word, before any effect. A unit that cannot be read follows the units of the
word. -/
def execNonInstructionEncoding (e : BadWord) (s : State) : Host.Outcome State Fault Refusal :=
  match s.running? with
  | none => .next s
  | some (g, t, gr, c) =>
    let at_ := g.pc + 4 * e.units.length
    let addr :=
      if e.fault = cUNCORR then 32 * (at_ / 32)
      else if e.fault = cCOLOUR ∨ e.fault = cCOREAD then at_
      else 0
    .next (takeFault s g t gr c (badFrame e g gr.width) { code := e.fault, faddr := addr })

/-- What a fetch outside the code capability leaves known of the word (19 R421): the units before the address, and the length when the
first unit is one of them. -/
def State.fetchedWord (s : State) (g : Group) (native : Bool) (addr : Nat) : BadWord :=
  let a := s.instrAt g native g.pc
  match (if g.canFetch a 4 && decide (a < addr) then unitLength native (s.codeUnit a) else none) with
  | some len =>
    if addr < a + len then ⟨!native, s.codeUnits a ((addr - a) / 4), len, unitOpc (!native) (s.codeUnit a), cFETCH⟩
    else ⟨!native, [], 0, 0, cFETCH⟩
  | none => ⟨!native, [], 0, 0, cFETCH⟩

/-- FETCH_BOUND (15 R331, 04 R85): the fault of a fetch outside the code capability. A unit that was not fetched reads as zero in the
frame (DEDUCED, log entry 119). -/
def execFetchBound (addr : Nat) (s : State) : Host.Outcome State Fault Refusal :=
  match s.running? with
  | none => .next s
  | some (g, t, gr, c) =>
    .next (takeFault s g t gr c (badFrame (s.fetchedWord g gr.native addr) g gr.width)
      { code := cFETCH, faddr := addr })

/-! ### Breakpoints (16 R363) -/

/-- A breakpoint triggers at the instruction that a group is about to execute. -/
def Group.breaks (g : Group) (c : Ctx) (pc : Nat) : Bool :=
  g.run.count == 0 && !g.run.skipBreak && c.breaks.contains (BitVec.ofNat 56 pc)

/-- The stop of a breakpoint, in front of the instruction. -/
def State.breakAt (s : State) (g : Group) (t : Team) (gr : Grid) (c : Ctx) (row : OpRow) (f : Fields) : State :=
  takeFault s g t gr c (Env.frameWord ⟨g, t, gr, c, row, f⟩ false) { code := cBREAK }

/-! ### What a step can execute -/

/-- A group whose instruction can be executed now. -/
def Group.canIssue (g : Group) : Bool := g.status == .running && !g.stall

/-- The group whose instruction is executed next: the current one, else the first that can be. -/
def State.nextGroup (s : State) : Option (Nat × Nat) :=
  match s.cur.filter (fun p => (s.group? p.1 p.2).any Group.canIssue) with
  | some p => some p
  | none => ((s.groups.map (·.2)).find? Group.canIssue).map (fun g => (g.team, g.gid))

/-- Every instruction that waits at issue is tried again. -/
def State.unstall (s : State) : State :=
  { s with groups := mmap (fun g => if g.stall then { g with stall := false } else g) s.groups }

/-- The current group with its PCs moved past a fill. -/
def State.pastFill (s : State) (g : Group) (a : Nat) : State :=
  if a = g.pc then s else s.setGroup (g.setPcs a)

/-! ### What the device does by itself -/

/-- The events that accesses under way, engines, arrays and releases can lead to. -/
def State.workEvents (s : State) : List Instr :=
  s.groups.flatMap (fun p => p.2.loads.flatMap (fun ld =>
    (ld.elems.filter (fun x => x.status == .waiting)).map (fun x => .loadReturn p.2.team p.2.gid ld.iseq x.thread))) ++
  s.atoms.map (fun p => .atomicRequest p.1) ++ s.wins.map (fun p => .windowAccess p.1) ++
  s.syncs.flatMap (fun p => p.2.markers.map (fun m => .flushMarkerArrival p.1 m.1 m.2)) ++
  s.arrops.map (fun p => .arrayOperationExecute p.1) ++
  s.teams.flatMap (fun p => p.2.mrecs.filterMap (fun m =>
    m.2.nextSender.map (fun x => .drainTake p.1 m.1 x.1))) ++
  s.cmds.map (fun p => .engineCommandBegin p.1) ++ s.cmds.map (fun p => .engineChunk p.1) ++
  s.cmds.map (fun p => .engineCommandComplete p.1)

/-- The events of groups and teams. -/
def State.groupEvents (s : State) : List Instr :=
  s.teams.map (fun p => .teamRetire p.1) ++ s.teams.map (fun p => .teamSave p.1) ++
  s.groups.map (fun p => .groupWake p.2.team p.2.gid) ++ s.groups.map (fun p => .sleepWake p.2.team p.2.gid) ++
  s.groups.map (fun p => .runGrant p.2.core p.2.quad)

/-- The events of functions: their rings, queues, blocks and units to place. -/
def State.fnEvents (s : State) : List Instr :=
  s.fns.flatMap (fun p =>
    (p.2.queues.filter (fun q => q.2.enabling)).map (fun q => .lqEnable p.1 q.1) ++
    (p.2.queues.filter (fun q => q.2.running)).flatMap (fun q => [.nopPacket p.1 q.1, .launch p.1 q.1]) ++
    (if p.2.fenabling then [.faultRingEnable p.1] else []) ++
    (if p.2.pendingRecs.isEmpty then [] else [.faultRecordWrite p.1]) ++
    (if p.2.mstat = 1 then [.mint p.1] else []) ++
    (if p.2.sstat = 1 then [.sealImportComplete p.1, .sealImport p.1, .sealRelease p.1] else [])) ++
  (if s.grids.isEmpty then [] else
    (List.range 64).map (fun f => .preemption f) ++ (List.range 64).map (fun f => .teamAdmit f)) ++
  s.grids.map (fun p => .gridComplete p.1)

/-- The events of the device as a whole. -/
def State.deviceEvents (s : State) : List Instr :=
  (if s.gblock.gstat = 1 then [.grant, .withdrawComplete, .withdraw] else []) ++ [.dredgeSnap, .dredgeSweep, .dredgeClear] ++
    (if s.snapb.sstat = 2 then [.snapshotLatch] else []) ++ (if s.receiptsDue.isEmpty then [] else [.scrubReceipt]) ++
    s.groups.map (fun p => .aging p.2.team p.2.gid)

/-- What the device may do by itself, in the order in which a step tries it. -/
def State.candidates (s : State) : List Instr :=
  s.workEvents ++ s.groupEvents ++ s.fnEvents ++ s.deviceEvents

/-! ### What arrives (log entry 2) -/

/-- An event of the outside world is one that reaches a module with power (20 R446): without it, a cold reset alone. -/
def State.hears (s : State) (i : Instr) : Bool :=
  s.part.powered || (match i with | .coldReset _ => true | _ => false)

/-- The blocks of the device latch now: the first boundary between steps at or after TCLK has come (20 R441). -/
def State.snapDue (s : State) : Bool := s.snapb.sstat == 2 && decide (s.snapb.tclk ≤ s.clk)

/-- Cycles pass; a latch within them is made at its cycle. -/
def State.elapse (s : State) (n : Nat) : State :=
  if s.snapb.sstat = 2 ∧ s.clk < s.snapb.tclk ∧ s.snapb.tclk ≤ s.clk + n then
    let s1 := orElse s (execSnapshotLatch (s.tick (s.snapb.tclk - s.clk)))
    s1.tick (s.clk + n - s.snapb.tclk)
  else s.tick n

/-- What an input other than an event does. -/
def State.take (s : State) : Input → State
  | .event _ => s
  | .elapse n => (s.elapse n).unstall
  | .select team gid => { s with cur := some (team, gid) }
  | .hostWrite a b => s.putHost a [b]
  | .priAlloc fn n => s.setFn fn { s.fn fn with pageMax := n }.sendPages
  | .peerCert m hash => { s with certs := mput s.certs m hash }
  | .linkPause port lanes => { s with ports := mmod PortState.reset s.ports port (fun p => { p with paused := lanes }) }

end Sys2Proof.Machine
end

