-- ==== Sys2Proof/Machine/Dispatch.lean ====
section
/-! DEFINITION. Machine/Dispatch.lean: one arm for every instruction and event, a direct call of its meaning. -/

namespace Sys2Proof.Machine

open Sys2Proof

/-- Execute an instruction, or let an event happen. -/
def exec (i : Instr) (s : State) : Host.Outcome State Fault Refusal :=
  match i with
  | .nop f => Sys2Proof.Machine.execNop f s
  | .br f => Sys2Proof.Machine.execBr f s
  | .bra f => Sys2Proof.Machine.execBra f s
  | .call f => Sys2Proof.Machine.execCall f s
  | .ret f => Sys2Proof.Machine.execRet f s
  | .retK f => Sys2Proof.Machine.execRetK f s
  | .callk f => Sys2Proof.Machine.execCallk f s
  | .fork f => Sys2Proof.Machine.execFork f s
  | .meetSet f => Sys2Proof.Machine.execMeetSet f s
  | .meetGet f => Sys2Proof.Machine.execMeetGet f s
  | .exitt f => Sys2Proof.Machine.execExitt f s
  | .endGroup f => Sys2Proof.Machine.execEndGroup f s
  | .bar f => Sys2Proof.Machine.execBar f s
  | .barArrive f => Sys2Proof.Machine.execBarArrive f s
  | .barWait f => Sys2Proof.Machine.execBarWait f s
  | .gset f => Sys2Proof.Machine.execGset f s
  | .gclr f => Sys2Proof.Machine.execGclr f s
  | .cset f => Sys2Proof.Machine.execCset f s
  | .cop f => Sys2Proof.Machine.execCop f s
  | .elect f => Sys2Proof.Machine.execElect f s
  | .yield f => Sys2Proof.Machine.execYield f s
  | .sleep f => Sys2Proof.Machine.execSleep f s
  | .qwait f => Sys2Proof.Machine.execQwait f s
  | .mwait f => Sys2Proof.Machine.execMwait f s
  | .ewait f => Sys2Proof.Machine.execEwait f s
  | .rdclk f => Sys2Proof.Machine.execRdclk f s
  | .snap f => Sys2Proof.Machine.execSnap f s
  | .srd f => Sys2Proof.Machine.execSrd f s
  | .swr f => Sys2Proof.Machine.execSwr f s
  | .brk f => Sys2Proof.Machine.execBrk f s
  | .trap f => Sys2Proof.Machine.execTrap f s
  | .rfe f => Sys2Proof.Machine.execRfe f s
  | .add f => Sys2Proof.Machine.execAdd f s
  | .subb f => Sys2Proof.Machine.execSubb f s
  | .addc f => Sys2Proof.Machine.execAddc f s
  | .subc f => Sys2Proof.Machine.execSubc f s
  | .mul f => Sys2Proof.Machine.execMul f s
  | .mulh f => Sys2Proof.Machine.execMulh f s
  | .mad f => Sys2Proof.Machine.execMad f s
  | .madh f => Sys2Proof.Machine.execMadh f s
  | .idiv f => Sys2Proof.Machine.execIdiv f s
  | .irem f => Sys2Proof.Machine.execIrem f s
  | .minn f => Sys2Proof.Machine.execMinn f s
  | .maxx f => Sys2Proof.Machine.execMaxx f s
  | .abss f => Sys2Proof.Machine.execAbss f s
  | .negg f => Sys2Proof.Machine.execNegg f s
  | .andd f => Sys2Proof.Machine.execAndd f s
  | .orr f => Sys2Proof.Machine.execOrr f s
  | .xor f => Sys2Proof.Machine.execXor f s
  | .andn f => Sys2Proof.Machine.execAndn f s
  | .orn f => Sys2Proof.Machine.execOrn f s
  | .nott f => Sys2Proof.Machine.execNott f s
  | .shl f => Sys2Proof.Machine.execShl f s
  | .shr f => Sys2Proof.Machine.execShr f s
  | .sar f => Sys2Proof.Machine.execSar f s
  | .rol f => Sys2Proof.Machine.execRol f s
  | .ror f => Sys2Proof.Machine.execRor f s
  | .popc f => Sys2Proof.Machine.execPopc f s
  | .clz f => Sys2Proof.Machine.execClz f s
  | .ctz f => Sys2Proof.Machine.execCtz f s
  | .brev f => Sys2Proof.Machine.execBrev f s
  | .bfe f => Sys2Proof.Machine.execBfe f s
  | .bfi f => Sys2Proof.Machine.execBfi f s
  | .bperm f => Sys2Proof.Machine.execBperm f s
  | .sel f => Sys2Proof.Machine.execSel f s
  | .cmp f => Sys2Proof.Machine.execCmp f s
  | .mov f => Sys2Proof.Machine.execMov f s
  | .li f => Sys2Proof.Machine.execLi f s
  | .sext f => Sys2Proof.Machine.execSext f s
  | .zext f => Sys2Proof.Machine.execZext f s
  | .mul24 f => Sys2Proof.Machine.execMul24 f s
  | .mad24 f => Sys2Proof.Machine.execMad24 f s
  | .med3 f => Sys2Proof.Machine.execMed3 f s
  | .fadd f => Sys2Proof.Machine.execFadd f s
  | .fsub f => Sys2Proof.Machine.execFsub f s
  | .fmul f => Sys2Proof.Machine.execFmul f s
  | .ffma f => Sys2Proof.Machine.execFfma f s
  | .fmin f => Sys2Proof.Machine.execFmin f s
  | .fmax f => Sys2Proof.Machine.execFmax f s
  | .fminn f => Sys2Proof.Machine.execFminn f s
  | .fmaxn f => Sys2Proof.Machine.execFmaxn f s
  | .fabs f => Sys2Proof.Machine.execFabs f s
  | .fneg f => Sys2Proof.Machine.execFneg f s
  | .fcpsgn f => Sys2Proof.Machine.execFcpsgn f s
  | .fcmp f => Sys2Proof.Machine.execFcmp f s
  | .fclass f => Sys2Proof.Machine.execFclass f s
  | .frint f => Sys2Proof.Machine.execFrint f s
  | .fldexp f => Sys2Proof.Machine.execFldexp f s
  | .fdiv f => Sys2Proof.Machine.execFdiv f s
  | .cvt f => Sys2Proof.Machine.execCvt f s
  | .cvtf f => Sys2Proof.Machine.execCvtf f s
  | .pack f => Sys2Proof.Machine.execPack f s
  | .unpack f => Sys2Proof.Machine.execUnpack f s
  | .qscale f => Sys2Proof.Machine.execQscale f s
  | .bpsplit f => Sys2Proof.Machine.execBpsplit f s
  | .bpjoin f => Sys2Proof.Machine.execBpjoin f s
  | .satrd f => Sys2Proof.Machine.execSatrd f s
  | .satclr f => Sys2Proof.Machine.execSatclr f s
  | .rcp f => Sys2Proof.Machine.execRcp f s
  | .rsqrt f => Sys2Proof.Machine.execRsqrt f s
  | .sqrt f => Sys2Proof.Machine.execSqrt f s
  | .exp2 f => Sys2Proof.Machine.execExp2 f s
  | .log2 f => Sys2Proof.Machine.execLog2 f s
  | .sinpi f => Sys2Proof.Machine.execSinpi f s
  | .cospi f => Sys2Proof.Machine.execCospi f s
  | .tanh f => Sys2Proof.Machine.execTanh f s
  | .rng f => Sys2Proof.Machine.execRng f s
  | .csamp f => Sys2Proof.Machine.execCsamp f s
  | .vote f => Sys2Proof.Machine.execVote f s
  | .shfl f => Sys2Proof.Machine.execShfl f s
  | .red f => Sys2Proof.Machine.execRed f s
  | .scan f => Sys2Proof.Machine.execScan f s
  | .part f => Sys2Proof.Machine.execPart f s
  | .matchv f => Sys2Proof.Machine.execMatchv f s
  | .ld f => Sys2Proof.Machine.execLd f s
  | .st f => Sys2Proof.Machine.execSt f s
  | .ldt f => Sys2Proof.Machine.execLdt f s
  | .stt f => Sys2Proof.Machine.execStt f s
  | .ldk f => Sys2Proof.Machine.execLdk f s
  | .stk f => Sys2Proof.Machine.execStk f s
  | .atom f => Sys2Proof.Machine.execAtom f s
  | .atomf f => Sys2Proof.Machine.execAtomf f s
  | .atomfAddOrd f => Sys2Proof.Machine.execAtomfAddOrd f s
  | .cas f => Sys2Proof.Machine.execCas f s
  | .bind f => Sys2Proof.Machine.execBind f s
  | .unbind f => Sys2Proof.Machine.execUnbind f s
  | .acq f => Sys2Proof.Machine.execAcq f s
  | .acqGe f => Sys2Proof.Machine.execAcqGe f s
  | .rel f => Sys2Proof.Machine.execRel f s
  | .fence f => Sys2Proof.Machine.execFence f s
  | .ordflush f => Sys2Proof.Machine.execOrdflush f s
  | .l2pin f => Sys2Proof.Machine.execL2pin f s
  | .l2unpin f => Sys2Proof.Machine.execL2unpin f s
  | .prefetch f => Sys2Proof.Machine.execPrefetch f s
  | .tclr f => Sys2Proof.Machine.execTclr f s
  | .kmov f => Sys2Proof.Machine.execKmov f s
  | .kbound f => Sys2Proof.Machine.execKbound f s
  | .kaddr f => Sys2Proof.Machine.execKaddr f s
  | .kadd f => Sys2Proof.Machine.execKadd f s
  | .kperm f => Sys2Proof.Machine.execKperm f s
  | .kseal f => Sys2Proof.Machine.execKseal f s
  | .kunseal f => Sys2Proof.Machine.execKunseal f s
  | .kunsealGrant f => Sys2Proof.Machine.execKunsealGrant f s
  | .kdeleg f => Sys2Proof.Machine.execKdeleg f s
  | .kget f => Sys2Proof.Machine.execKget f s
  | .ktest f => Sys2Proof.Machine.execKtest f s
  | .krevoke f => Sys2Proof.Machine.execKrevoke f s
  | .lblup f => Sys2Proof.Machine.execLblup f s
  | .lbldn f => Sys2Proof.Machine.execLbldn f s
  | .lblget f => Sys2Proof.Machine.execLblget f s
  | .mma f => Sys2Proof.Machine.execMma f s
  | .mzero f => Sys2Proof.Machine.execMzero f s
  | .mrd f => Sys2Proof.Machine.execMrd f s
  | .mwr f => Sys2Proof.Machine.execMwr f s
  | .mscale f => Sys2Proof.Machine.execMscale f s
  | .mdrain f => Sys2Proof.Machine.execMdrain f s
  | .mrecv f => Sys2Proof.Machine.execMrecv f s
  | .vinit f => Sys2Proof.Machine.execVinit f s
  | .vfold f => Sys2Proof.Machine.execVfold f s
  | .vfoldBwd f => Sys2Proof.Machine.execVfoldBwd f s
  | .vmerge f => Sys2Proof.Machine.execVmerge f s
  | .vread f => Sys2Proof.Machine.execVread f s
  | .tx f => Sys2Proof.Machine.execTx f s
  | .gx f => Sys2Proof.Machine.execGx f s
  | .shp f => Sys2Proof.Machine.execShp f s
  | .shpfree f => Sys2Proof.Machine.execShpfree f s
  | .eqry f => Sys2Proof.Machine.execEqry f s
  | .swslot f => Sys2Proof.Machine.execSwslot f s
  | .dredgeStart f => Sys2Proof.Machine.execDredgeStart f s
  | .dredgeWait f => Sys2Proof.Machine.execDredgeWait f s
  | .dredgeQuery f => Sys2Proof.Machine.execDredgeQuery f s
  | .demotionExpiry team gid thread => Sys2Proof.Machine.execDemotionExpiry team gid thread s
  | .sleepWake team gid => Sys2Proof.Machine.execSleepWake team gid s
  | .aging team gid => Sys2Proof.Machine.execAging team gid s
  | .runGrant core quad => Sys2Proof.Machine.execRunGrant core quad s
  | .groupWake team gid => Sys2Proof.Machine.execGroupWake team gid s
  | .loadReturn team gid iseq thread => Sys2Proof.Machine.execLoadReturn team gid iseq thread s
  | .atomicRequest rid => Sys2Proof.Machine.execAtomicRequest rid s
  | .windowAccess wid => Sys2Proof.Machine.execWindowAccess wid s
  | .dirtyWriteback c line colour => Sys2Proof.Machine.execDirtyWriteback c line colour s
  | .copyDrop c line colour => Sys2Proof.Machine.execCopyDrop c line colour s
  | .flushMarkerArrival op die path => Sys2Proof.Machine.execFlushMarkerArrival op die path s
  | .arrayOperationExecute oid => Sys2Proof.Machine.execArrayOperationExecute oid s
  | .drainTake team acc sender => Sys2Proof.Machine.execDrainTake team acc sender s
  | .engineCommandBegin cid => Sys2Proof.Machine.execEngineCommandBegin cid s
  | .engineChunk cid => Sys2Proof.Machine.execEngineChunk cid s
  | .engineCommandComplete cid => Sys2Proof.Machine.execEngineCommandComplete cid s
  | .collectiveRingForm cid peers => Sys2Proof.Machine.execCollectiveRingForm cid peers s
  | .switchResponse cid granted => Sys2Proof.Machine.execSwitchResponse cid granted s
  | .groupChunkReceive msg => Sys2Proof.Machine.execGroupChunkReceive msg s
  | .linkLost member => Sys2Proof.Machine.execLinkLost member s
  | .lqEnable fn q => Sys2Proof.Machine.execLqEnable fn q s
  | .lqNotify fn q wridx => Sys2Proof.Machine.execLqNotify fn q wridx s
  | .launch fn q => Sys2Proof.Machine.execLaunch fn q s
  | .nopPacket fn q => Sys2Proof.Machine.execNopPacket fn q s
  | .lqTerminate fn q kcmd => Sys2Proof.Machine.execLqTerminate fn q kcmd s
  | .teamAdmit fn => Sys2Proof.Machine.execTeamAdmit fn s
  | .preemption fn => Sys2Proof.Machine.execPreemption fn s
  | .teamSave team => Sys2Proof.Machine.execTeamSave team s
  | .teamRestore team => Sys2Proof.Machine.execTeamRestore team s
  | .teamRetire team => Sys2Proof.Machine.execTeamRetire team s
  | .gridComplete grid => Sys2Proof.Machine.execGridComplete grid s
  | .contextCreate req => Sys2Proof.Machine.execContextCreate req s
  | .contextDestroy colour => Sys2Proof.Machine.execContextDestroy colour s
  | .grant => Sys2Proof.Machine.execGrant s
  | .withdraw => Sys2Proof.Machine.execWithdraw s
  | .withdrawComplete => Sys2Proof.Machine.execWithdrawComplete s
  | .mint fn => Sys2Proof.Machine.execMint fn s
  | .sealImport fn => Sys2Proof.Machine.execSealImport fn s
  | .sealImportComplete fn => Sys2Proof.Machine.execSealImportComplete fn s
  | .sealRelease fn => Sys2Proof.Machine.execSealRelease fn s
  | .faultRingEnable fn => Sys2Proof.Machine.execFaultRingEnable fn s
  | .faultRecordWrite fn => Sys2Proof.Machine.execFaultRecordWrite fn s
  | .faultResume fn => Sys2Proof.Machine.execFaultResume fn s
  | .faultTerminate fn => Sys2Proof.Machine.execFaultTerminate fn s
  | .snapshotArm => Sys2Proof.Machine.execSnapshotArm s
  | .snapshotTrigger src => Sys2Proof.Machine.execSnapshotTrigger src s
  | .snapshotLatch => Sys2Proof.Machine.execSnapshotLatch s
  | .fabricTrigger member => Sys2Proof.Machine.execFabricTrigger member s
  | .dredgeSnap => Sys2Proof.Machine.execDredgeSnap s
  | .dredgeSweep => Sys2Proof.Machine.execDredgeSweep s
  | .dredgeClear => Sys2Proof.Machine.execDredgeClear s
  | .atsCompletion c => Sys2Proof.Machine.execAtsCompletion c s
  | .pageResponse r => Sys2Proof.Machine.execPageResponse r s
  | .atsInvalidate fn pasid iova len => Sys2Proof.Machine.execAtsInvalidate fn pasid iova len s
  | .hostBarRequest fn inStream tbit off size write => Sys2Proof.Machine.execHostBarRequest fn inStream tbit off size write s
  | .tdiConfigChange fn => Sys2Proof.Machine.execTdiConfigChange fn s
  | .getVersion m => Sys2Proof.Machine.execGetVersion m s
  | .getCapabilities m => Sys2Proof.Machine.execGetCapabilities m s
  | .negotiateAlgorithms m => Sys2Proof.Machine.execNegotiateAlgorithms m s
  | .getDigests m => Sys2Proof.Machine.execGetDigests m s
  | .getCertificate m => Sys2Proof.Machine.execGetCertificate m s
  | .challenge m => Sys2Proof.Machine.execChallenge m s
  | .getMeasurements m => Sys2Proof.Machine.execGetMeasurements m s
  | .keyExchange m fn heartbeat => Sys2Proof.Machine.execKeyExchange m fn heartbeat s
  | .finishh m => Sys2Proof.Machine.execFinishh m s
  | .heartbeat m => Sys2Proof.Machine.execHeartbeat m s
  | .keyUpdate m => Sys2Proof.Machine.execKeyUpdate m s
  | .endSession m => Sys2Proof.Machine.execEndSession m s
  | .setWeightKey m colour key => Sys2Proof.Machine.execSetWeightKey m colour key s
  | .setGroup m g => Sys2Proof.Machine.execSetGroup m g s
  | .setGrace m ms => Sys2Proof.Machine.execSetGrace m ms s
  | .destroyKey m colour => Sys2Proof.Machine.execDestroyKey m colour s
  | .getReceipt r => Sys2Proof.Machine.execGetReceipt r s
  | .sessionTimeout sess => Sys2Proof.Machine.execSessionTimeout sess s
  | .graceExpiry sess => Sys2Proof.Machine.execGraceExpiry sess s
  | .scrubReceipt => Sys2Proof.Machine.execScrubReceipt s
  | .debugSetBreakpoint colour addr => Sys2Proof.Machine.execDebugSetBreakpoint colour addr s
  | .debugStep team gid thread => Sys2Proof.Machine.execDebugStep team gid thread s
  | .debugHalt team gid => Sys2Proof.Machine.execDebugHalt team gid s
  | .debugResume team gid => Sys2Proof.Machine.execDebugResume team gid s
  | .debugRead team cap addr size => Sys2Proof.Machine.execDebugRead team cap addr size s
  | .setFunctionWeight fn w => Sys2Proof.Machine.execSetFunctionWeight fn w s
  | .setSharedColours colour shared => Sys2Proof.Machine.execSetSharedColours colour shared s
  | .setPowerLimit watts => Sys2Proof.Machine.execSetPowerLimit watts s
  | .setErrorWindow w => Sys2Proof.Machine.execSetErrorWindow w s
  | .correctableError site => Sys2Proof.Machine.execCorrectableError site s
  | .uncorrectableError site => Sys2Proof.Machine.execUncorrectableError site s
  | .patrolScrub sector => Sys2Proof.Machine.execPatrolScrub sector s
  | .thermalShutdown => Sys2Proof.Machine.execThermalShutdown s
  | .coldReset boot => Sys2Proof.Machine.execColdReset boot s
  | .functionLevelReset fn => Sys2Proof.Machine.execFunctionLevelReset fn s
  | .registerWrite fn off size val => Sys2Proof.Machine.execRegisterWrite fn off size val s
  | .nonInstructionEncoding e => Sys2Proof.Machine.execNonInstructionEncoding e s
  | .fetchBound addr => Sys2Proof.Machine.execFetchBound addr s
  | .tdispLock fn sess => Sys2Proof.Machine.execTdispLock fn sess s
  | .tdiRun fn => Sys2Proof.Machine.execTdiRun fn s
  | .ideKm m => Sys2Proof.Machine.execIdeKm m s
  | .firmwareStage image => Sys2Proof.Machine.execFirmwareStage image s
  | .debuggerAttach colour attached teamstop => Sys2Proof.Machine.execDebuggerAttach colour attached teamstop s
  | .switchFailure cid => Sys2Proof.Machine.execSwitchFailure cid s

end Sys2Proof.Machine
end

