-- ==== Sys2Proof/Machine/Advance.lean ====
section
/-! DEFINITION. Machine/Advance.lean: the parts of a step: an input arrives, a group executes its next instruction, or the
device goes on by itself. -/

namespace Sys2Proof.Machine

open Sys2Proof

/-- An event that may arrive as an input: no instruction, and no fault of a fetch. -/
def arrives (i : Instr) : Bool :=
  i.parts.isNone &&
    (match i with
      | .nonInstructionEncoding _ => false
      | .fetchBound _ => false
      | _ => true)

/-- An input arrives. -/
def State.receive (s : State) (x : Input) : Host.Outcome State Fault Refusal :=
  match x with
  | .event i =>
    if arrives i && s.hears i then
      match exec i s with
      | .next t => .next t.unstall
      | o => o
    else .next s
  | y => .next (s.take y)

/-- The current group executes the instruction that its PC names: the fetch, a breakpoint in front of it, then its
meaning. -/
def State.execute (s : State) (g : Group) (t : Team) (gr : Grid) (c : Ctx) : Host.Outcome State Fault Refusal :=
  let a := s.instrAt g gr.native g.pc
  let s1 := s.pastFill g a
  let g1 := if a = g.pc then g else g.setPcs a
  let i := s1.fetchAt g1 gr.native a
  match i.parts with
  | some (row, f) => if g1.breaks c a then .next (s1.breakAt g1 t gr c row f) else exec i s1
  | none => exec i s1

/-- The current group, when it is in a run, executes an instruction. -/
def State.executeCur (s : State) : Host.Outcome State Fault Refusal :=
  match s.running? with
  | some (g, t, gr, c) => s.execute g t gr c
  | none => .next s

/-- The first event of a list that changes the state. -/
def State.firstEffect (s : State) : List Instr → Option (Host.Outcome State Fault Refusal)
  | [] => none
  | i :: is =>
    match exec i s with
    | .next t => if t = s then s.firstEffect is else some (.next t.unstall)
    | o => some o

/-- The device goes on by itself: a debug read that has waited is performed, else the first event that changes the state; when nothing
can happen, a cycle passes. -/
def State.proceed (s : State) : Host.Outcome State Fault Refusal :=
  match s.debugDue with
  | some x => execDebugRead x.1 x.2.1 x.2.2.1 x.2.2.2 s
  | none =>
    match s.firstEffect s.candidates with
    | some o => o
    | none => .next (s.tick 1).unstall

end Sys2Proof.Machine
end

