-- ==== Sys2Proof/Machine/Step.lean ====
section
/-! DEFINITION. Machine/Step.lean: one step of the machine, and a state that executes a given word next. -/

namespace Sys2Proof.Machine

open Sys2Proof

/-- One step. A snapshot that is due is latched before anything else (20 R441). Else an input that has arrived comes first; then the
group whose turn it is executes one instruction; else the device does one thing by itself. A module without power does nothing (20
R446). -/
def step (s0 : State) : Host.Outcome State Fault Refusal :=
  let s : State := { s0 with now := s0.now + 1 }
  if s.snapDue then execSnapshotLatch s
  else
  match s.inputs with
  | x :: rest => State.receive { s with inputs := rest } x
  | [] =>
    if !s.part.powered then .next s
    else
      match s.nextGroup with
      | some p => State.executeCur { s with cur := some p }
      | none => s.proceed

/-- The colour of the context in which `withFetchWord` runs a word. -/
def fetchColour : Nat := 1

/-- The address at which `withFetchWord` puts a word. -/
def fetchAddr : Nat := 0x10000

/-- A Torub-D grid of one team of one group of 16 threads, all of whose resources are present. -/
def fetchGrid (id : Nat) : Grid :=
  { id := id, colour := fetchColour, fn := 0, queue := 0, tag := 0, cmpl := 0, irq := false, vector := 0
    width := 16, pair := false, ngroups := 1, prio := 8, issuer := some 0, native := false, mode := 0
    vregs := 384, tarn := 8, tiles := 8, accs := 16, mscr := 4, guards := 16, bars := 16, binds := 16
    vcl := 0, gang := 0, nteams := 1, entry := 0, fmt := List.replicate 8 0
    code := rootCap 1 0 fetchColour [pLD, pEXEC] fetchAddr 0x1000
    arg := TCap.null, spill := TCap.null, ovfl := TCap.null
    sarg := List.replicate 8 0, sargLbl := List.replicate 8 0
    nextKid := 1, start := 0, term := none, serial := false, complete := false, seqs := [], gathered := false }

/-- A state whose very next step executes the word `w` as Torub-D: a context with its key, a grid, a team and a group in a
run stand as launching a program leaves them (16 R343 to R353), and the word lies at the group's PC. Bits from `nbits` up
are zero. -/
def State.withFetchWord (s : State) (nbits w : Nat) : State :=
  let gr := fetchGrid s.nextId
  let team := s.nextId + 1
  let c : Ctx := { colour := fetchColour, fn := 0, pmask := 1, shared := [], retired := [], saveBase := 0, saveLen := 0,
                   shapes := [], grants := [], debugger := false, teamstop := false, breaks := [] }
  let t : Team := { id := team, grid := gr.id, kid := 0, status := .admitted, cores := [CoreRes.fresh 0 0], cluster := 0,
                    guards := [], bars := [], binds := [], mrecs := [], streams := [], admitClk := s.clk, term := none,
                    contributed := [], calmed := false }
  let g : Group := (Group.fresh gr team 0 0 0 0 s.clk s.now).begin { Run.idle with subset := firstMask 16 }
  { s with
    nextId := s.nextId + 2
    inputs := []
    cur := some (team, 0)
    mem := setBytes s.mem fetchAddr (unitBytes (splitUnits 4 (w % 2 ^ nbits)))
    keys := mput s.keys fetchColour (.context [])
    ctxs := mput s.ctxs fetchColour c
    grids := mput s.grids gr.id gr
    teams := mput s.teams team t
    groups := mput s.groups (gkey team 0) g }

end Sys2Proof.Machine
end

