-- ==== Sys2Proof/Safety.lean ====
section
/-! DEFINITION. Safety.lean: what counts as a safe run, and the terms in which the statements speak of the machine. -/

namespace Sys2Proof.Machine

open Sys2Proof

/-- Memory is in its one canonical form: device memory, host memory and the side band. -/
def State.memOk (s : State) : Bool :=
  Memory.wf s.mem && Memory.wf s.hostMem && rising s.side && lean0 (0 : Byte) s.side

/-- A run of `k` steps ends in a state: no step stops. -/
def Safe (k : Nat) (s : State) : Prop := ∃ t, Sys2Proof.core.run k s = .next t

/-! ### An instruction at its issue -/

/-- The instruction `i` is at hand in `s`: its group is in a run and `e` is what it sees, no fault of an earlier window store
is owed (03 R64), the decode checks of 04 R85 pass (`cap`: its description permits a capture), and no register it reads holds
an uncorrectable error (00 R5). -/
def Issues (i : Instr) (s : State) (e : Env) (cap : Bool) : Prop :=
  ∃ row f, i.parts = some (row, f) ∧ s.env? row f = some e ∧ e.g.owed = none ∧ e.decodeCheck cap = none ∧
    e.badSource s = none

/-- The state after an instruction that has committed and goes on at its sequential successor (04 R82, R87), from the state
`s1` that its own effect leaves. -/
def Env.done (e : Env) (s1 : State) : State :=
  e.commit s1 ((e.groupIn s1).setPcs e.nextPc) none false .ready .none

/-- The operand rules that result instructions share (08 R149 to R151): SRCB unused beside an immediate, an s or c
destination only from uniform sources (03 R51, R53), nothing pending (13 R273). -/
structure Fits (e : Env) (xs : List Src) : Prop where
  b : e.bOk = true
  dst : e.dstOk false xs = true
  ready : e.early xs = false

/-! ### What changed -/

/-- The number of the v register that a destination names. -/
def dstV : Dst → Option Nat
  | .v n => some n.val
  | _ => none
/-- The number of the s register that a destination names. -/
def dstS : Dst → Option Nat
  | .s n => some n.val
  | _ => none
/-- The number of the p register that a destination names. -/
def dstP : Dst → Option Nat
  | .p n => some n.val
  | _ => none
/-- The number of the c register that a destination names. -/
def dstC : Dst → Option Nat
  | .c n => some n.val
  | _ => none

/-- Two groups hold the same in every register, side bit, system register, code capability and trap frame. -/
structure SameRegs (g g' : Group) : Prop where
  v : g'.v = g.v
  vside : g'.vside = g.vside
  vtag : g'.vtag = g.vtag
  s : g'.s = g.s
  sside : g'.sside = g.sside
  stag : g'.stag = g.stag
  p : g'.p = g.p
  plbl : g'.plbl = g.plbl
  c : g'.c = g.c
  clbl : g'.clbl = g.clbl
  mode : g'.mode = g.mode
  sat : g'.sat = g.sat
  psize : g'.psize = g.psize
  srlbl : g'.srlbl = g.srlbl
  kcode : g'.kcode = g.kcode
  frame : g'.frame = g.frame

/-- Nothing outside the executing group has changed but CLK, the run state and demotion of groups, and, when the group has
exited, what its exit does to its team (15 R337, R340): no memory, no key, no other group's register. -/
structure SameWorld (e : Env) (s t : State) : Prop where
  rest : { t with clk := s.clk, groups := s.groups, teams := s.teams, cmds := s.cmds } = s
  groups : ∀ team gid g, gkey team gid ≠ gkey e.g.team e.g.gid → s.group? team gid = some g →
    ∃ g', t.group? team gid = some g' ∧ SameRegs g g'
  live : (∃ g', t.group? e.g.team e.g.gid = some g' ∧ g'.status = .exited) ∨ (t.teams = s.teams ∧ t.cmds = s.cmds)

/-- DST holds the results `w` of the threads `ws` that write (03 R51 to R53): a v register per thread, an s register the
value extended from 32 bits (whole when `wide`), a p register a bit per thread, 1 where the value is not zero, p0 as it
was, a c register whether it is not zero. -/
def Holds (e : Env) (g' : Group) (ws : List Nat) (w : Nat → DWord) (wide : Bool) : Prop :=
  match e.f.dst with
  | .v n => ∀ i ∈ ws, g'.vget n.val i = (w i).setWidth 32 ∧ mget false g'.vtag (64 * (n.val / 4) + i) = false
  | .s n => ∀ i, ws.head? = some i →
      g'.sget n.val = (if wide then w i else ((w i).setWidth 32).setWidth 64) ∧ mget false g'.stag (n.val / 2) = false
  | .p n => ∀ i ∈ ws, (g'.pget e.gr.width n.val).getLsbD i =
      (if n.val = 0 then (e.g.pget e.gr.width 0).getLsbD i else (w i).setWidth 32 != (0 : Word))
  | .c n => ∀ i, ws.head? = some i → g'.cget n.val = ((w i).setWidth 32 != (0 : Word))
  | _ => True

/-- Every register but DST is as it was, and DST in the threads outside `ws`; so are the tags and the side state of other
registers, MODE, PSIZE, the code capability and the trap frame. -/
structure Keeps (e : Env) (ws : List Nat) (g' : Group) : Prop where
  v : ∀ n i, i < 64 → ¬(dstV e.f.dst = some n ∧ i ∈ ws) → g'.vget n i = e.g.vget n i
  s : ∀ n, ¬(dstS e.f.dst = some n ∧ ws ≠ []) → g'.sget n = e.g.sget n
  p : ∀ n i, i < 64 → ¬(dstP e.f.dst = some n ∧ i ∈ ws) →
    (g'.pget e.gr.width n).getLsbD i = (e.g.pget e.gr.width n).getLsbD i
  c : ∀ n, n < 8 → ¬(dstC e.f.dst = some n ∧ ws ≠ []) → g'.cget n = e.g.cget n
  vtag : ∀ q i, i < 64 → ¬((dstV e.f.dst).map (· / 4) = some q ∧ i ∈ ws) →
    mget false g'.vtag (64 * q + i) = mget false e.g.vtag (64 * q + i)
  stag : ∀ m, ¬((dstS e.f.dst).map (· / 2) = some m ∧ ws ≠ []) → mget false g'.stag m = mget false e.g.stag m
  vside : ∀ n, dstV e.f.dst ≠ some n → g'.vsd n = e.g.vsd n
  sside : ∀ n, dstS e.f.dst ≠ some n → g'.ssd n = e.g.ssd n
  plbl : ∀ n, dstP e.f.dst ≠ some n → mget 0 g'.plbl n = mget 0 e.g.plbl n
  clbl : ∀ n, dstC e.f.dst ≠ some n → mget 0 g'.clbl n = mget 0 e.g.clbl n
  mode : g'.mode = e.g.mode
  psize : g'.psize = e.g.psize
  kcode : g'.kcode = e.g.kcode
  frame : g'.frame = e.g.frame

/-- The instruction wrote DST with the results `w` of the threads `ws`, left `sat` in `sr.sat`, and changed nothing else but
what the end of every instruction changes. -/
def WroteSat (e : Env) (s t : State) (ws : List Nat) (w : Nat → DWord) (wide : Bool) (sat : Word) : Prop :=
  SameWorld e s t ∧ ∃ g', t.group? e.g.team e.g.gid = some g' ∧ Holds e g' ws w wide ∧ Keeps e ws g' ∧ g'.sat = sat

/-- The instruction wrote DST with the results `w` of the threads `ws` and ORed `fl` into `sr.sat` (07 R147), and changed
nothing else but what the end of every instruction changes. -/
def Wrote (e : Env) (s t : State) (ws : List Nat) (w : Nat → DWord) (wide : Bool) (fl : Flags) : Prop :=
  WroteSat e s t ws w wide (e.g.sat ||| fl.setWidth 32)

end Sys2Proof.Machine
end

