-- ==== Sys2Proof/Certificates/Slice0/Obligations.lean ====
section
/-! DEFINITION. Certificates/Slice0/Obligations.lean: the statements for the provers, and the words in which they are put.
A statement about instructions quantifies over every state, every environment that the state gives the instruction and every
value of its fields; its hypotheses are about these alone. -/

namespace Sys2Proof.Machine

open Sys2Proof

/-! ### Result instructions -/

/-- A result instruction, under conditions `ok` on its fields, with fitting operands and no trapping flag set, runs on and
writes the results and flags that `h` gives each taking-part thread. -/
def Result (mk : Fields → Instr) (ok : Env → Prop) (trap : Bool) (wide : Env → Bool) (h : Env → Lane) : Prop :=
  ∀ f s e, Issues (mk f) s e true → ok e → Fits e e.srcs → (trap = true → e.flagsOf (h e) &&& e.g.fpten = 0) →
    ∃ t, exec (mk f) s = .next t ∧
      Wrote e s t e.parts (fun i => ((h e i).1).getD 0) (wide e) (e.flagsOf (h e))

/-- The taints and label of a v register after a write of every taking-part thread (03 R57): with every non-exited thread taking
part those of the result, else the union and the largest with the old ones. -/
def SideV (e : Env) (g' : Group) (n : Nat) (tn : Taint) (l : Label) : Prop :=
  if (e.g.live &&& ~~~e.part) = 0 then (g'.vsd n).taint = tn ∧ (g'.vsd n).lbl = l
  else (g'.vsd n).taint = (e.g.vsd n).taint ||| tn ∧ (g'.vsd n).lbl = Label.max (e.g.vsd n).lbl l

/-- The side state of DST after a write of every taking-part thread (03 R52, R53, R57). -/
structure SideOf (e : Env) (g' : Group) (tn : Taint) (l : Label) : Prop where
  v : ∀ n, e.f.dst = .v n → e.parts ≠ [] → SideV e g' n.val tn l
  s : ∀ n, e.f.dst = .s n → e.parts ≠ [] → (g'.ssd n.val).taint = tn ∧ (g'.ssd n.val).lbl = l
  p : ∀ n, e.f.dst = .p n → e.parts ≠ [] → n.val ≠ 0 →
    mget 0 g'.plbl n.val = (if (e.g.live &&& ~~~e.part) = 0 then l else Label.max (mget 0 e.g.plbl n.val) l)
  c : ∀ n, e.f.dst = .c n → e.parts ≠ [] → mget 0 g'.clbl n.val = l

/-- A, the B operand and C at n bits (08 R149). -/
def opA (e : Env) (n i : Nat) : BitVec n := (e.read e.f.a i).setWidth n
/-- The B operand at n bits. -/
def opB (e : Env) (n i : Nat) : BitVec n := (e.readB i).setWidth n
/-- C at n bits. -/
def opC (e : Env) (n i : Nat) : BitVec n := (e.read e.f.c i).setWidth n

/-- An integer operation at each width: signed or not, A, B, C (08 R153). -/
abbrev IntOp := (n : Nat) → Bool → BitVec n → BitVec n → BitVec n → BitVec n

/-- The value of an integer operation at the width that TY names, TY being MOD[1:0]. -/
def intLane (op : IntOp) (e : Env) : Lane := fun i =>
  (some (if e.f.mod.getLsbD 1 then op 64 (e.f.mod.getLsbD 0) (opA e 64 i) (opB e 64 i) (opC e 64 i)
    else (op 32 (e.f.mod.getLsbD 0) (opA e 32 i) (opB e 32 i) (opC e 32 i)).setWidth 64), 0)

/-- No operand of a 64-bit TY is a v, p, c or latch register (06 R115). -/
def WideOk (e : Env) : Prop :=
  e.f.mod.getLsbD 1 = true → dstWideOk e.f.dst = true ∧ srcWideOk e.f.a = true ∧ srcWideOk e.f.b = true ∧
    srcWideOk e.f.c = true ∧ srcWideOk e.f.d = true

/-- MOD holds TY and nothing else, QUAL is zero (08 R153 to R165). -/
def TyOnly (e : Env) : Prop := e.f.qual = 0 ∧ e.f.mod.toNat < 4 ∧ WideOk e

/-- A 32-bit TY and nothing else. -/
def Ty32 (e : Env) : Prop := e.f.qual = 0 ∧ e.f.mod.toNat < 2

/-- A signed TY and nothing else. -/
def TySigned (e : Env) : Prop := TyOnly e ∧ e.f.mod.getLsbD 0 = true

/-- An integer instruction that computes `op` and sets no flag. -/
def IntResult (mk : Fields → Instr) (op : IntOp) (ok : Env → Prop) : Prop :=
  Result mk ok false (fun e => e.f.mod.getLsbD 1) (intLane op)

/-- x is below y as TY says. -/
def ltTy {n : Nat} (sg : Bool) (x y : BitVec n) : Bool := if sg then x.slt y else x.ult y

/-- The lower of two. -/
def minTy {n : Nat} (sg : Bool) (x y : BitVec n) : BitVec n := if ltTy sg y x then y else x
/-- The higher of two. -/
def maxTy {n : Nat} (sg : Bool) (x y : BitVec n) : BitVec n := if ltTy sg x y then y else x
/-- Extended to m bits as TY says. -/
def extTy {n : Nat} (sg : Bool) (m : Nat) (x : BitVec n) : BitVec m := if sg then x.signExtend m else x.setWidth m
/-- A field of w bits of x from bit off, extended as TY says. -/
def fieldTy {n : Nat} (sg : Bool) (off w : Nat) (x : BitVec n) : BitVec n := extTy sg n (x.extractLsb' off w)
/-- The shift amount: B[31:0]. -/
def amt {n : Nat} (b : BitVec n) : Nat := (b.setWidth 32).toNat

/-- The exact integer of an operand as TY says. -/
def exactTy {n : Nat} (sg : Bool) (x : BitVec n) : Int := if sg then x.toInt else x.toNat

/-- v saturated at n bits as TY says. -/
def satTy (n : Nat) (sg : Bool) (v : Int) : BitVec n :=
  if sg then BitVec.ofInt n (max (-(2 ^ (n - 1) : Nat)) (min ((2 ^ (n - 1) : Nat) - 1) v))
  else BitVec.ofInt n (max 0 (min ((2 ^ n : Nat) - 1) v))

/-- v lies outside the numbers of n bits that TY names. -/
def outTy (n : Nat) (sg : Bool) (v : Int) : Bool :=
  if sg then decide (v < -(2 ^ (n - 1) : Nat)) || decide (v > (2 ^ (n - 1) : Nat) - 1)
  else decide (v < 0) || decide (v > (2 ^ n : Nat) - 1)

/-- `li` (08 R162). -/
def liLane (e : Env) : Lane := fun _ =>
  (some (if e.f.mod.getLsbD 0 then e.imm.signExtend 64 else e.imm.setWidth 64), 0)

/-- `bperm` (08 R160). -/
def bpermLane (e : Env) : Lane := fun i =>
  let v : BitVec 64 := opB e 32 i ++ opA e 32 i
  let byte (j : Nat) : BitVec 8 :=
    let b := v.extractLsb' (8 * ((opC e 32 i).extractLsb' (4 * j) 3).toNat) 8
    if (opC e 32 i).getLsbD (4 * j + 3) then (if b.msb then 0xFF else 0) else b
  (some ((byte 3 ++ byte 2 ++ byte 1 ++ byte 0 : BitVec 32).setWidth 64), 0)

/-- n of 08 R149, from MOD[1]. -/
def tyBits (e : Env) : Nat := if e.f.mod.getLsbD 1 then 64 else 32

/-- `cmp` (08 R161). -/
def cmpLane (e : Env) : Lane := fun i =>
  let a := opA e (tyBits e) i
  let b := opB e (tyBits e) i
  let sg := e.f.mod.getLsbD 0
  let r : Bool := match e.f.qual.toNat with
    | 0 => a == b
    | 1 => a != b
    | 2 => ltTy sg a b
    | 3 => !ltTy sg b a
    | 4 => ltTy sg b a
    | _ => !ltTy sg a b
  (some (if r then 1 else 0), 0)

/-- The carry in of `addc` and `subc`: 1 when C is not zero (08 R153). -/
def carryIn (e : Env) (i : Nat) : Nat := if opC e (tyBits e) i = 0 then 0 else 1

/-- `addc` (08 R153): the low n bits of the sum, or with CY the carry out. -/
def addcLane (e : Env) : Lane := fun i =>
  let v := (opA e (tyBits e) i).toNat + (opB e (tyBits e) i).toNat + carryIn e i
  (some (if e.f.mod.getLsbD 3 then BitVec.ofNat 64 (v / 2 ^ tyBits e) else BitVec.ofNat 64 (v % 2 ^ tyBits e)), 0)

/-- `subc` (08 R153): the low n bits of the difference, or with CY the borrow out. -/
def subcLane (e : Env) : Lane := fun i =>
  let a := opA e (tyBits e) i
  let b := opB e (tyBits e) i
  (some (if e.f.mod.getLsbD 3 then (if a.toNat < b.toNat + carryIn e i then 1 else 0)
    else (a - b - BitVec.ofNat (tyBits e) (carryIn e i)).setWidth 64), 0)

/-- `idiv` (08 R154): toward zero; all ones with DZ for a zero divisor. -/
def idivLane (e : Env) : Lane := fun i =>
  let a := opA e (tyBits e) i
  let b := opB e (tyBits e) i
  if b = 0 then (some ((BitVec.allOnes (tyBits e)).setWidth 64), fDZ)
  else (some ((if e.f.mod.getLsbD 0 then a.sdiv b else a / b).setWidth 64), 0)

/-- `irem` (08 R154): the dividend with DZ for a zero divisor. -/
def iremLane (e : Env) : Lane := fun i =>
  let a := opA e (tyBits e) i
  let b := opB e (tyBits e) i
  (some ((if e.f.mod.getLsbD 0 then a.srem b else a % b).setWidth 64), if b = 0 then fDZ else 0)

/-- A saturating operation (08 R153): the exact value clamped, with SAT when it was outside. -/
def satLane (v : Int → Int → Int → Int) (e : Env) : Lane := fun i =>
  let sg := e.f.mod.getLsbD 0
  let n := tyBits e
  let x := v (exactTy sg (opA e n i)) (exactTy sg (opB e n i)) (exactTy sg (opC e n i))
  (some ((satTy n sg x).setWidth 64), if outTy n sg x then fSAT else 0)

/-- The field that `bfi` replaces: its offset, its width within n, and whether the thread writes at all (08 R159). -/
def bfiLane (e : Env) : Lane := fun i =>
  let n := tyBits e
  let off := (e.read32 e.f.c i).toNat
  let w := min (e.read32 e.f.d i).toNat (n - off)
  let mask : BitVec n := ((BitVec.allOnes w).setWidth n) <<< off
  if (e.read32 e.f.d i).toNat = 0 ∨ off ≥ n then (none, 0)
  else (some (((opB e n i &&& ~~~mask) ||| ((opA e n i <<< off) &&& mask)).setWidth 64), 0)

/-- MOD[2] asks for saturation, TY is in MOD[1:0] and nothing else is set. -/
def TySat (e : Env) : Prop := e.f.qual = 0 ∧ e.f.mod.toNat / 4 = 1 ∧ WideOk e

/-- TY and CY alone. -/
def TyCarry (e : Env) : Prop := e.f.qual = 0 ∧ e.f.mod.getLsbD 2 = false ∧ e.f.mod.toNat < 16 ∧ WideOk e

/-- A saturating instruction. -/
def SatResult (mk : Fields → Instr) (v : Int → Int → Int → Int) (sgOnly : Bool) : Prop :=
  Result mk (fun e => TySat e ∧ (sgOnly = true → e.f.mod.getLsbD 0 = true)) false (fun e => e.f.mod.getLsbD 1) (satLane v)

end Sys2Proof.Machine

open Sys2Proof Sys2Proof.Machine

/-- Wrapping integer arithmetic (08 R153, R164, R165): `add`, `sub`, `mul`, `mad`, `neg`, `abs`, `mulh`, `madh`, `min`,
`max`, `mul24`, `mad24`, `med3` complete and write the low n bits of the operation that R153 names. -/
def Rules.IntegerArithmetic : Prop :=
  IntResult .add (fun _ _ a b _ => a + b) TyOnly ∧
  IntResult .subb (fun _ _ a b _ => a - b) TyOnly ∧
  IntResult .mul (fun _ _ a b _ => a * b) TyOnly ∧
  IntResult .mad (fun _ _ a b c => a * b + c) TyOnly ∧
  IntResult .negg (fun _ _ a _ _ => -a) TyOnly ∧
  IntResult .abss (fun _ _ a _ _ => if a.msb then -a else a) TySigned ∧
  IntResult .mulh (fun n sg a b _ => (extTy sg (2 * n) a * extTy sg (2 * n) b).extractLsb' n n) TyOnly ∧
  IntResult .madh (fun n sg a b c => (extTy sg (2 * n) a * extTy sg (2 * n) b + extTy sg (2 * n) c).extractLsb' n n)
    TyOnly ∧
  IntResult .minn (fun _ sg a b _ => minTy sg a b) TyOnly ∧
  IntResult .maxx (fun _ sg a b _ => maxTy sg a b) TyOnly ∧
  IntResult .mul24 (fun _ sg a b _ => fieldTy sg 0 24 a * fieldTy sg 0 24 b) Ty32 ∧
  IntResult .mad24 (fun _ sg a b c => fieldTy sg 0 24 a * fieldTy sg 0 24 b + c) Ty32 ∧
  IntResult .med3 (fun _ sg a b c => maxTy sg (minTy sg a b) (minTy sg (maxTy sg a b) c)) TyOnly

/-- Logic, shifts and rotates (08 R155, R156) complete: amounts of n and more shift everything out, `sar` fills with the
sign for every TY, rotates take the amount modulo n. -/
def Rules.IntegerLogic : Prop :=
  IntResult .andd (fun _ _ a b _ => a &&& b) TyOnly ∧
  IntResult .orr (fun _ _ a b _ => a ||| b) TyOnly ∧
  IntResult .xor (fun _ _ a b _ => a ^^^ b) TyOnly ∧
  IntResult .andn (fun _ _ a b _ => a &&& ~~~b) TyOnly ∧
  IntResult .orn (fun _ _ a b _ => a ||| ~~~b) TyOnly ∧
  IntResult .nott (fun _ _ a _ _ => ~~~a) TyOnly ∧
  IntResult .shl (fun _ _ a b _ => a <<< amt b) TyOnly ∧
  IntResult .shr (fun _ _ a b _ => a >>> amt b) TyOnly ∧
  IntResult .sar (fun _ _ a b _ => a.sshiftRight (amt b)) TyOnly ∧
  IntResult .rol (fun _ _ a b _ => a.rotateLeft (amt b)) TyOnly ∧
  IntResult .ror (fun _ _ a b _ => a.rotateRight (amt b)) TyOnly

/-- Bit fields, counts and moves (08 R157, R158, R160 to R163) complete. -/
def Rules.IntegerBits : Prop :=
  IntResult .popc (fun _ _ a _ _ => a.cpop) TyOnly ∧
  IntResult .clz (fun _ _ a _ _ => a.clz) TyOnly ∧
  IntResult .ctz (fun _ _ a _ _ => a.ctz) TyOnly ∧
  IntResult .brev (fun _ _ a _ _ => a.reverse) TyOnly ∧
  IntResult .bfe (fun n sg a b c => if amt c = 0 ∨ amt b ≥ n then 0 else fieldTy sg (amt b) (min (amt c) (n - amt b)) a)
    TyOnly ∧
  IntResult .sel (fun _ _ a b c => if c = 0 then b else a) TyOnly ∧
  IntResult .mov (fun _ _ a _ _ => a) TyOnly ∧
  IntResult .sext (fun n _ a b _ => if amt b = 0 then 0 else fieldTy true 0 (min (amt b) n) a) TyOnly ∧
  IntResult .zext (fun n _ a b _ => fieldTy false 0 (min (amt b) n) a) TyOnly ∧
  Result .li TyOnly false (fun e => e.f.mod.getLsbD 1) liLane ∧
  Result .bperm Ty32 false (fun _ => false) bpermLane ∧
  Result .cmp (fun e => e.f.qual.toNat < 6 ∧ e.f.mod.toNat < 4 ∧ WideOk e) false (fun e => e.f.mod.getLsbD 1) cmpLane

/-- Integer operations (08 R153 to R165): arithmetic modulo 2^n, logic, shifts and rotates, bit fields, counts and
moves. -/
def Obligations.IntegerOperations : Prop := Rules.IntegerArithmetic ∧ Rules.IntegerLogic ∧ Rules.IntegerBits

/-- Carry, division and saturation (08 R153, R154): CY gives the carry or borrow out, a zero divisor gives all ones or the
dividend with DZ, and SAT clamps the exact value with the flag SAT. -/
def Rules.IntegerCarryDivideSaturate : Prop :=
  Result .addc TyCarry false (fun e => e.f.mod.getLsbD 1) addcLane ∧
  Result .subc TyCarry false (fun e => e.f.mod.getLsbD 1) subcLane ∧
  Result .idiv TyOnly false (fun e => e.f.mod.getLsbD 1) idivLane ∧
  Result .irem TyOnly false (fun e => e.f.mod.getLsbD 1) iremLane ∧
  SatResult .add (fun a b _ => a + b) false ∧ SatResult .subb (fun a b _ => a - b) false ∧
  SatResult .mul (fun a b _ => a * b) false ∧ SatResult .mad (fun a b c => a * b + c) false ∧
  SatResult .negg (fun a _ _ => -a) true ∧ SatResult .abss (fun a _ _ => if a < 0 then -a else a) true

/-- `bfi` (08 R159): a thread whose width is 0 or whose offset is n or more writes nothing, the others write B with the
field replaced by the low bits of A. -/
def Rules.BitFieldInsert : Prop :=
  ∀ f s e, Issues (.bfi f) s e true → TyOnly e → Fits e e.srcs →
    ∃ t, exec (.bfi f) s = .next t ∧
      Wrote e s t (e.parts.filter (fun i => (bfiLane e i).1.isSome)) (fun i => ((bfiLane e i).1).getD 0)
        (e.f.mod.getLsbD 1) 0

/-- Carries, division, saturation and `bfi` (08 R153, R154, R159). -/
def Obligations.IntegerFlagsAndFields : Prop := Rules.IntegerCarryDivideSaturate ∧ Rules.BitFieldInsert

namespace Sys2Proof.Machine

open Sys2Proof

/-! ### Floating point and conversions -/

/-- TYPE is MOD[1:0], RM MOD[4:2] (06 R115): a type, a rounding mode where the instruction takes one, MOD[5] where it has a
meaning, QUAL below a bound. -/
def FloatForm (rm m5 : Bool) (qual : Nat) (e : Env) : Prop :=
  e.f.mod.toNat % 4 < 3 ∧ e.f.mod.toNat / 4 % 8 ≤ (if rm then 4 else 0) ∧ (m5 = false → e.f.mod.toNat < 32) ∧
    e.f.qual.toNat < qual

/-- A floating-point instruction: FP_TRAP is the one fault its operands can raise (08 R166). -/
def FloatResult (mk : Fields → Instr) (rm m5 : Bool) (qual : Nat) (h : Env → Lane) : Prop :=
  Result mk (FloatForm rm m5 qual) true (fun _ => false) h

/-- The value of element k of a 32-bit operand of thread i, under DAZ (07 R144). -/
def fA (e : Env) (i k : Nat) : Fp := e.val (e.read32 e.f.a i) k
/-- The same of the B operand. -/
def fB (e : Env) (i k : Nat) : Fp := e.val (e.readB32 i) k
/-- The same of C. -/
def fC (e : Env) (i k : Nat) : Fp := e.val (e.read32 e.f.c i) k

/-- One rounding of an exact result, element by element (08 R167). -/
def arithLane (op : Bool → Fp → Fp → Fp → Fp × Flags) (e : Env) : Lane :=
  e.elems (fun i k => e.round (e.rm true) (op (e.rm true == .rd) (fA e i k) (fB e i k) (fC e i k)))

/-- One rounding of an exact function of A, element by element (08 R183, R184). -/
def exactLane (h : Fp → Fp × Flags) (e : Env) : Lane :=
  e.elems (fun i k => e.round (e.rm false) (h (fA e i k)))

/-- A result that moves or edits patterns, under FTZ (08 R166). -/
def moveLane (op : Env → Nat → Nat → Nat) (e : Env) : Lane :=
  e.elems (fun i k => ftzPat e.ftz e.ffmt (op e (e.patA i k) (e.patB i k)))

/-- `fcmp` (08 R170): one bit per element. -/
def fcmpLane (e : Env) : Lane := fun i =>
  let c (k : Nat) : Bool × Flags := fcmpCond e.f.qual.toNat (fA e i k) (fB e i k)
  if e.f.mod.toNat % 4 = 0 then (some (if (c 0).1 then 1 else 0), (c 0).2)
  else (some ((if (c 0).1 then 1 else 0) + (if (c 1).1 then 2 else 0)), (c 0).2 ||| (c 1).2)

/-- `fldexp` (08 R173): A times two to the power of B's signed value, 32 bits for FP32, 16 bits per packed element. -/
def fldexpLane (e : Env) : Lane :=
  e.elems (fun i k =>
    let n : Int := if e.f.mod.toNat % 4 = 0 then (e.readB32 i).toInt else ((e.readB32 i).extractLsb' (16 * k) 16).toInt
    e.round (e.rm false) (scaleFp (fA e i k) n, 0))

/-- A reference function of 08 R185 to R189 on the instruction's type (08 R190). -/
def refLane (expf : Bool) (h : Fp → RefRes) (e : Env) : Lane :=
  e.elems (fun i k =>
    let r := h (fA e i k)
    if e.f.mod.toNat % 4 = 0 then refResult e.g.ftz32 expf r
    else
      let p := refResult false expf r
      let q := roundFtz e.g.ftz16 (FP32.value p.1) e.ffmt .rne 0
      let flushed := match FP32.value p.1 with
        | .fin _ m x => e.g.ftz16 && m != 0 && decide (lg2 m x < e.ffmt.emin)
        | _ => false
      (q.1, if flushed then fUF ||| fNX else p.2 ||| (q.2 &&& (fOF ||| fUF))))

/-- `cvt` (08 R175): MOD[2:0] names the source type, MOD[5:3] the result type. -/
def cvtLane (e : Env) : Lane := fun i =>
  let r := cvtResult e.g (e.f.mod.toNat / 8) (cvtSource e.g (e.f.mod.toNat % 8) (e.read32 e.f.a i))
  (some (BitVec.ofNat 64 r.1), r.2)

/-- `cvtf` (08 R176): into the slot's format with B as random bits, or out of it. -/
def cvtfLane (e : Env) : Lane := fun i =>
  let a := e.read32 e.f.a i
  let r := if e.f.mod.getLsbD 0 then roundFtz e.g.ftz32 (fromSlot e.g e.slot a.toNat) FP32 .rne 0
    else toSlot e.g e.slot (dazFp e.g.daz32 FP32 (val32 a)) (e.read32 e.f.b i).toNat
  (some (BitVec.ofNat 64 r.1), r.2)

/-- The width of an element of `pack` and `unpack` (08 R177): 4, 6, 8 or 16 bits. -/
def sizeBits (e : Env) : Nat :=
  match e.f.mod.toNat % 4 with
  | 0 => 4
  | 1 => 6
  | 2 => 8
  | _ => 16

/-- `pack` (08 R177): A and B in places POS and POS + 1 of C. -/
def packLane (e : Env) : Lane := fun i =>
  let w := sizeBits e
  let pos := e.f.mod.toNat / 4 % 8
  let field : Word := (BitVec.allOnes w).setWidth 32
  let c := e.read32 e.f.c i &&& ~~~(field <<< (w * pos)) &&& ~~~(field <<< (w * (pos + 1)))
  (some ((c ||| ((e.read32 e.f.a i &&& field) <<< (w * pos)) |||
    ((e.read32 e.f.b i &&& field) <<< (w * (pos + 1)))).setWidth 64), 0)

/-- `unpack` (08 R178): element B of A, sign- or zero-extended; 0 when there is none. -/
def unpackLane (e : Env) : Lane := fun i =>
  let w := sizeBits e
  let k := (e.read32 e.f.b i).toNat
  let n := match e.f.mod.toNat % 4 with | 0 => 8 | 1 => 4 | 2 => 4 | _ => 2
  (some (if k ≥ n then 0
    else (extTy (e.f.mod.getLsbD 2) 32 ((e.read32 e.f.a i).extractLsb' (w * k) w)).setWidth 64), 0)

/-- The pattern of 64 bits in A and B, A lower. -/
def pairAB (e : Env) (i : Nat) : BitVec 64 := e.read32 e.f.b i ++ e.read32 e.f.a i

/-- `bpsplit` (08 R180): bit j of each of the eight bytes, 0 for a plane that the slot has not. -/
def bpsplitLane (e : Env) : Lane := fun i =>
  let j := e.f.mod.toNat % 8
  (some (if j < 8 - slotPlanes e.slot then 0
    else BitVec.ofNat 64 ((List.range 8).foldl (fun a k => a + (if (pairAB e i).getLsbD (8 * k + j) then 2 ^ k else 0)) 0)), 0)

/-- `bpjoin` (08 R181): element C of the bit planes, as an integer. -/
def bpjoinLane (e : Env) : Lane := fun i =>
  let k := (e.read32 e.f.c i).toNat
  let b := (List.range 8).foldl (fun a p => a + (if (pairAB e i).getLsbD (8 * p + k) then 2 ^ (7 - p) else 0)) 0
  (some (if k ≥ 8 then 0
    else (BitVec.ofInt 32 (bpiQ (slotFmt e.slot == 14) (slotPlanes e.slot) b)).setWidth 64), 0)

/-- `qscale` (08 R179): the shared scale of A's magnitude, or B over that scale. -/
def qscaleLane (e : Env) : Lane := fun i =>
  let g := scaleByte ((emaxOf (slotFmt e.slot)).getD 0) (dazFp e.g.daz32 FP32 (val32 (e.read32 e.f.a i)))
  if e.f.mod.getLsbD 0 = false then (some (BitVec.ofNat 64 g), 0)
  else if g = 0xFF then (some 0, 0)
  else
    let b := dazFp e.g.daz32 FP32 (val32 (e.read32 e.f.b i))
    let r := roundFtz e.g.ftz32 (scaleFp b (127 - (g : Int))) FP32 .rne 0
    (some (BitVec.ofNat 64 r.1), r.2)

/-- `rng` (08 R191): word MOD[3:2] of Philox-4x32-10 over (B, tid, gid, kid) under A, whole or as a fraction. -/
def rngLane (e : Env) : Lane := fun i =>
  let key := (e.read e.f.a i).toNat
  let w := philoxWord (e.f.mod.toNat / 4 % 4)
    (philox 10 (key % 2 ^ 32) (key / 2 ^ 32) ((e.read32 e.f.b i).toNat, i, e.g.gid, e.t.kid))
  (some (if e.f.mod.toNat / 16 = 0 then BitVec.ofNat 64 w else w64 (rn (.fin false (w / 256) (-24)))), 0)

/-! ### Cross-thread instructions -/

/-- A cross-thread instruction (11 R236): its operands fit, or its c destination takes a group-wide result. -/
def CrossResult (mk : Fields → Instr) (ok : Env → Prop) (grp : Bool) (h : Env → Lane) : Prop :=
  ∀ f s e, Issues (mk f) s e true → ok e → e.f.qual = 0 → e.dstOk grp e.srcs = true → e.early e.srcs = false →
    ∃ t, exec (mk f) s = .next t ∧
      Wrote e s t e.parts (fun i => ((h e i).1).getD 0) false (e.flagsOf (h e))

/-- DST is a c register. -/
def dstIsC (e : Env) : Prop := (dstC e.f.dst).isSome = true

/-- `vote` (11 R238), over the threads of the tile, or over the group for a c register. -/
def voteLane (e : Env) : Lane := fun i =>
  let ts := if (dstC e.f.dst).isSome then e.parts else e.tileParts i
  (some (BitVec.ofNat 64 (voteResult e (e.f.mod.toNat % 8) (e.f.mod.getLsbD 3) ts)), 0)

/-- `shfl` (11 R239): A of the thread of the tile that MODE and B name, C where there is none taking part. -/
def shflLane (e : Env) : Lane := fun i =>
  let j := shflIndex e.f.mod.toNat (i % e.psz) e.psz (e.read32 e.f.b i)
  (some (if 0 ≤ j ∧ j < e.psz ∧ e.part.getLsbD (e.tileBase i + j.toNat) then
      w64 (e.read32 e.f.a (e.tileBase i + j.toNat)) else w64 (e.read32 e.f.c i)), 0)

/-- `red` (11 R240, R241): the balanced tree over the tile. -/
def redLane (e : Env) : Lane := fun i =>
  let r := treeReduce (e.f.mod.toNat % 8) (e.f.mod.getLsbD 3) 6 (e.tileA i)
  (some (w64 (r.1.getD 0)), r.2)

/-- `scan` (11 R240, R242): the doubling network over the tile, inclusive or exclusive. -/
def scanLane (e : Env) : Lane := fun i =>
  let op := e.f.mod.toNat % 8
  let m3 := e.f.mod.getLsbD 3
  let r := scanNet op m3 6 1 (e.tileA i)
  let k := i % e.psz
  (some (w64 (if e.f.mod.getLsbD 4 then
      (if k = 0 then combIdent op m3 else (r.1.getD (k - 1) none).getD (combIdent op m3))
    else (r.1.getD k none).getD 0)), r.2)

/-- `match` (11 R243): the threads of the tile with the same A. -/
def matchLane (e : Env) : Lane := fun i =>
  let eqs := (e.tileParts i).filter (fun j => e.read32 e.f.a j == e.read32 e.f.a i)
  (some (BitVec.ofNat 64 (match e.f.mod.toNat % 8 with
    | 0 => eqs.foldl (fun a j =>
        if decide (j % e.psz ≥ 32) == e.f.mod.getLsbD 3 then a + 2 ^ (j % e.psz % 32) else a) 0
    | 1 => eqs.headD i % e.psz
    | _ => (eqs.filter (fun j => decide (j < i))).length)), 0)

/-- MOD[3] where the operator MOD[2:0] has a meaning for it (11 R240). -/
def combForm (e : Env) (bits : Nat) : Prop :=
  e.f.mod.toNat < bits ∧ (e.f.mod.getLsbD 3 = true → e.f.mod.toNat % 8 ∈ [2, 3, 6])

end Sys2Proof.Machine

/-- Floating-point arithmetic (08 R166, R167, R172, R173) completes with one rounding of the exact value per element: `fadd`,
`fsub`, `fmul`, `ffma`, `frint`, `fldexp`. -/
def Rules.FloatArithmetic : Prop :=
  FloatResult .fadd true false 1 (arithLane (fun rd a b _ => addFp rd a b)) ∧
  FloatResult .fsub true false 1 (arithLane (fun rd a b _ => addFp rd a (negFp b))) ∧
  FloatResult .fmul true false 1 (arithLane (fun _ a b _ => mulFp a b)) ∧
  FloatResult .ffma true false 1 (arithLane (fun rd a b c => fmaFp rd a b c)) ∧
  FloatResult .frint true true 1 (fun e => e.elems (fun i k => rintPat e.ffmt (e.rm false) (e.f.mod.getLsbD 5) (e.patA i k))) ∧
  FloatResult .fldexp true false 1 fldexpLane

/-- Comparisons, minima and sign operations (08 R168 to R171, 07 R145) complete: `fmin`, `fmax`, `fminn`, `fmaxn`, `fabs`,
`fneg`, `fcpsgn`, `fcmp`, `fclass`. -/
def Rules.FloatPatterns : Prop :=
  FloatResult .fmin false false 1 (moveLane (fun e a b =>
    if e.g.legnan then legacyPat e.ffmt false a b else minmaxPat e.ffmt false false a b)) ∧
  FloatResult .fmax false false 1 (moveLane (fun e a b =>
    if e.g.legnan then legacyPat e.ffmt true a b else minmaxPat e.ffmt true false a b)) ∧
  FloatResult .fminn false false 1 (moveLane (fun e a b => minmaxPat e.ffmt false true a b)) ∧
  FloatResult .fmaxn false false 1 (moveLane (fun e a b => minmaxPat e.ffmt true true a b)) ∧
  FloatResult .fabs false false 1 (moveLane (fun e a _ => a % e.ffmt.signBit)) ∧
  FloatResult .fneg false false 1 (moveLane (fun e a _ =>
    if signOf e.ffmt a = 0 then a % e.ffmt.signBit + e.ffmt.signBit else a % e.ffmt.signBit)) ∧
  FloatResult .fcpsgn false true 1 (moveLane (fun e a b =>
    a % e.ffmt.signBit +
      (if e.f.mod.getLsbD 5 then (signOf e.ffmt a + signOf e.ffmt b) % 2 else signOf e.ffmt b) * e.ffmt.signBit)) ∧
  FloatResult .fcmp false false 8 fcmpLane ∧
  FloatResult .fclass false false 1 (fun e => e.elems (fun i k => (2 ^ classBit e.ffmt (e.patA i k), 0)))

/-- Floating-point arithmetic, comparisons, minima and sign operations (08 R166 to R173). -/
def Obligations.FloatingPoint : Prop := Rules.FloatArithmetic ∧ Rules.FloatPatterns

/-- Special functions (08 R183 to R191) complete: `rcp`, `rsqrt`, `sqrt`, `exp2`, `log2`, `sinpi`, `cospi`, `tanh`, `rng`. -/
def Rules.SpecialFunctions : Prop :=
  FloatResult .rcp true false 1 (exactLane rcpFp) ∧
  FloatResult .rsqrt true false 1 (exactLane rsqrtFp) ∧
  FloatResult .sqrt true false 1 (exactLane sqrtFp) ∧
  FloatResult .exp2 false false 1 (refLane true exp2Ref) ∧
  FloatResult .log2 false false 1 (refLane false log2Ref) ∧
  FloatResult .sinpi false false 1 (refLane false (trigRef false)) ∧
  FloatResult .cospi false false 1 (refLane false (trigRef true)) ∧
  FloatResult .tanh false false 1 (refLane false tanhRef) ∧
  Result .rng (fun e => e.f.mod.toNat % 4 = 0 ∧ e.f.mod.toNat < 32 ∧ e.f.qual = 0 ∧ rngKeyOk e.f.a = true ∧
    dstVorNone e.f.dst = true) false (fun _ => false) rngLane

/-- Conversions (08 R175 to R181) complete: `cvt`, `cvtf`, `pack`, `unpack`, `qscale`, `bpsplit`, `bpjoin`. -/
def Rules.Conversions : Prop :=
  Result .cvt (fun e => e.f.mod.toNat % 8 < 7 ∧ e.f.mod.toNat / 8 < 7 ∧ e.f.mod.toNat % 8 ≠ e.f.mod.toNat / 8 ∧
    e.f.qual = 0) true (fun _ => false) cvtLane ∧
  Result .cvtf (fun e => e.f.mod.toNat < 2 ∧ e.f.qual.toNat < 8) true (fun _ => false) cvtfLane ∧
  Result .pack (fun e => e.f.mod.toNat < 32 ∧ sizeBits e * (e.f.mod.toNat / 4 % 8 + 2) ≤ 32 ∧
    (e.f.mod.toNat % 4 = 1 → e.f.mod.toNat / 4 % 8 + 2 ≤ 4) ∧ e.f.qual = 0) true (fun _ => false) packLane ∧
  Result .unpack (fun e => e.f.mod.toNat < 8 ∧ e.f.qual = 0) true (fun _ => false) unpackLane ∧
  Result .qscale (fun e => e.f.mod.toNat < 2 ∧ e.f.qual.toNat < 8 ∧ (emaxOf (slotFmt e.slot)).isSome = true) true
    (fun _ => false) qscaleLane ∧
  Result .bpsplit (fun e => e.f.mod.toNat < 8 ∧ e.f.qual.toNat < 8 ∧ slotFmt e.slot ≥ 14) true (fun _ => false)
    bpsplitLane ∧
  Result .bpjoin (fun e => e.f.mod = 0 ∧ e.f.qual.toNat < 8 ∧ slotFmt e.slot ≥ 14) true (fun _ => false) bpjoinLane

/-- Special functions and conversions (08 R175 to R191). Where the spec leaves it open the model chooses: the
uniformity of `rng` (log entry 102), cvtf (log entry 28), the flags of exp2 (log entry 29). -/
def Obligations.FunctionsAndConversions : Prop := Rules.SpecialFunctions ∧ Rules.Conversions

/-- Cross-thread instructions (11 R236 to R243) complete: `vote` in both its forms, `shfl`, `red`, `scan`, `match`.
Where the spec leaves it open the model chooses: the tile and the thread of a uniform form (log entry 27), the bits of
a uniform vote.mask (log entry 128). -/
def Obligations.CrossThread : Prop :=
  CrossResult .vote (fun e => e.f.mod.toNat < 16 ∧ e.f.mod.toNat % 8 < 5 ∧
    (e.f.mod.getLsbD 3 = true → e.f.mod.toNat % 8 = 2) ∧ (dstIsC e → e.f.mod.toNat % 8 ∈ [0, 1, 3] ∨ e.isUniform = true)) true voteLane ∧
  CrossResult .shfl (fun e => e.f.mod.toNat < 4) false shflLane ∧
  CrossResult .red (fun e => combForm e 16) false redLane ∧
  CrossResult .scan (fun e => combForm e 32) false scanLane ∧
  CrossResult .matchv (fun e => e.f.mod.toNat < 16 ∧ e.f.mod.toNat % 8 < 3 ∧
    (e.f.mod.getLsbD 3 = true → e.f.mod.toNat % 8 = 0) ∧ ¬ dstIsC e) false matchLane

namespace Sys2Proof.Machine

open Sys2Proof

/-! ### Control -/

/-- The state after a transfer to `t` from the group `g'` whose PCs are written (15 R323). -/
def Env.jumped (e : Env) (s : State) (g' : Group) (t : Option Nat) : State :=
  e.commit (s.setGroup g') g' t false .ready .none

/-- A code address: inside the address space and aligned for the code form (15 R331, 04 R73, R77). -/
def TargetOk (e : Env) (t : Int) : Prop :=
  0 ≤ t ∧ t < ((2 ^ 56 : Nat) : Int) ∧ t % (targetAlign e.gr.native : Int) = 0

/-- A target outside the address space raises FETCH_BOUND, a misaligned one ALIGN, and the instruction makes no transfer (15 R331). -/
def TargetTraps (e : Env) (s : State) (i : Instr) (t : Int) : Prop :=
  (t < 0 ∨ ((2 ^ 56 : Nat) : Int) ≤ t → exec i s = .next (e.take s { code := cFETCH, faddr := bitsOf 64 t })) ∧
  (0 ≤ t → t < ((2 ^ 56 : Nat) : Int) → t % (targetAlign e.gr.native : Int) ≠ 0 →
    exec i s = .next (e.take s { code := cALIGN, faddr := t.toNat }))

/-- MOD and QUAL are zero. -/
def Bare (e : Env) : Prop := e.f.mod = 0 ∧ e.f.qual = 0

/-- Every thread of the running subset stands at `a`, the others where they were. -/
def PcsAt (e : Env) (g' : Group) (a : Nat) : Prop :=
  ∀ i th th', e.g.threads[i]? = some th → g'.threads[i]? = some th' →
    th'.pc = if e.g.run.subset.getLsbD i then BitVec.ofNat 56 a else th.pc

/-- The group after an instruction that has written no register. -/
def Untouched (e : Env) (s t : State) : Prop :=
  SameWorld e s t ∧ ∃ g', t.group? e.g.team e.g.gid = some g' ∧ SameRegs e.g g'

/-- The link of a call (15 R329): nothing, an s register, or an even v pair within the allocation. -/
def LinkOk (e : Env) : Prop :=
  match e.f.dst with
  | .v n => vShape e.gr.vregs 2 n.val = true
  | .s _ => True
  | .none => True
  | _ => False

/-- A 64-bit operand of control instructions: an s register or an even v pair (15 R324), nothing pending. -/
def PairArg (e : Env) (x : Src) : Prop := e.pairOrS x = true ∧ e.shapePend x 2 1 = false

/-- The checks of `callk` and `ret.k` on a code capability (15 R330). -/
structure CodeCap (e : Env) (k : TCap) : Prop where
  converged : e.converged = true
  tag : k.tag = true
  sealed : k.otype = 0 ∨ k.otype = 63
  kindOne : k.kind = 1
  colour : e.ctx.permits k.col = true
  perm : k.has pEXEC = true
  aligned : k.addr % targetAlign e.gr.native = 0
  bounds : k.inBounds k.addr (if e.gr.native then 8 else 4) = true

/-- The named barrier of a barrier instruction, usable (15 R340, 07 R148): a number within the allocation, the group
converged, no SAT_TRAP, a taking-part thread. -/
structure BarOk (e : Env) : Prop where
  mod : e.f.mod = 0
  num : e.f.qual.toNat < 16 ∧ e.f.qual.toNat < e.gr.bars
  converged : e.converged = true
  sat : e.g.satTrap = false
  any : e.any = true

/-- Barrier N of the team as the group finds it. -/
def Env.barrier (e : Env) : Barrier := mget Barrier.zero e.t.bars e.f.qual.toNat

/-- This group's arrival completes its barrier: every group of the team that has not exited has arrived (15 R340). -/
def Env.lastArrival (e : Env) (s : State) : Bool :=
  (s.liveGids e.t.id &&& ~~~(e.barrier.arrived ||| (1#32 <<< e.g.gid))) == 0

/-- The group of the running instruction enters BARRIER on N, its threads at an address; no register changes (15 R340). -/
def EntersBarrier (e : Env) (s : State) (i : Instr) (again : Bool) (at_ : Nat) : Prop :=
  ∃ t g', exec i s = .next t ∧ t.group? e.g.team e.g.gid = some g' ∧ SameRegs e.g g' ∧ g'.status = .barrier ∧
    g'.wait = .bar e.f.qual.toNat again ∧ PcsAt e g' at_ ∧ t.team? e.t.id = some e.t

/-- The weight of thread j of a tile (08 R192): A after DAZ32, +0 where the thread does not take part. -/
def csampWeight (e : Env) (j : Nat) : Word :=
  if j ∈ e.parts then BitVec.ofNat 32 (dazPat e.g.daz32 FP32 (e.read32 e.f.a j).toNat) else 0

/-- pre(k) of the tile that begins at thread b: the rounded sum of the weights up to k. -/
def csampPre (e : Env) (b k : Nat) : Word := (List.range (k + 1)).foldl (fun acc j => add32 acc (csampWeight e (b + j))) 0

/-- The total of a tile is NaN, Inf, zero or negative. -/
def csampBad (e : Env) (b : Nat) : Prop :=
  ∀ m x, val32 (csampPre e b (e.g.psize.toNat - 1)) = .fin false m x → m = 0

/-- The index drawn in the tile that begins at b with u (08 R192): P for a bad total, else the first whose prefix sum exceeds the rounded
u × 2^-32 × total, else the last of positive weight. -/
def csampDraws (e : Env) (b u r : Nat) : Prop :=
  let p := e.g.psize.toNat
  let tgt := val32 (rn (mulFp (.fin false u (-32)) (val32 (csampPre e b (p - 1)))).1)
  let above (k : Nat) : Prop := ltFp tgt (val32 (csampPre e b k)) = true
  let positive (k : Nat) : Prop := ltFp (.fin false 0 0) (val32 (csampWeight e (b + k))) = true
  (csampBad e b → r = p) ∧
  (¬ csampBad e b → (∃ k, k < p ∧ above k) → r < p ∧ above r ∧ ∀ k, k < r → ¬ above k) ∧
  (¬ csampBad e b → (∀ k, k < p → ¬ above k) → (∃ k, k < p ∧ positive k) → r < p ∧ positive r ∧ ∀ k, r < k → k < p → ¬ positive k)

/-- A v, s, latch or discard destination. -/
def dstVS : Dst → Prop
  | .p _ => False
  | .c _ => False
  | _ => True

end Sys2Proof.Machine

/-- `nop` (04 R74, R82): it changes no register and no memory, and its threads stand at the next instruction; with a MOD or a QUAL
that is not zero it raises ILLEGAL_OPERAND. The same is left by the end of every instruction that has had no effect of its own. -/
def Obligations.NothingDone : Prop :=
  (∀ f s e, Issues (.nop f) s e false → Bare e →
    ∃ t g', exec (.nop f) s = .next t ∧ Untouched e s t ∧ t.group? e.g.team e.g.gid = some g' ∧ PcsAt e g' e.nextPc) ∧
  (∀ f s e, Issues (.nop f) s e false → ¬ Bare e → exec (.nop f) s = .next (e.take s { code := cILOPER })) ∧
  ∀ row f s e, s.env? row f = some e →
    Untouched e s (e.done s) ∧ ∃ g', (e.done s).group? e.g.team e.g.gid = some g' ∧ PcsAt e g' e.nextPc

/-- Branches (15 R323, R328, R331): `bra` and a `br` whose condition holds move the subset to the target, a `br` whose condition
does not hold, or either one without a taking-part thread, goes on; a target outside the address space or misaligned faults. -/
def Rules.Branches : Prop :=
  (∀ f s e, Issues (.bra f) s e false → Bare e → TargetOk e e.relTarget →
    exec (.bra f) s = .next (if e.any then e.jumped s (e.g.setPcs e.relTarget.toNat) (some e.relTarget.toNat) else e.done s)) ∧
  (∀ f s e, Issues (.br f) s e false → e.f.mod.toNat < 2 → e.f.qual.toNat < 8 → TargetOk e e.relTarget →
    exec (.br f) s = .next (if e.any ∧ e.g.cget e.f.qual.toNat ≠ e.f.mod.getLsbD 0 then
      e.jumped s (e.g.setPcs e.relTarget.toNat) (some e.relTarget.toNat) else e.done s)) ∧
  (∀ f s e, Issues (.bra f) s e false → Bare e → TargetTraps e s (.bra f) e.relTarget) ∧
  (∀ f s e, Issues (.br f) s e false → e.f.mod.toNat < 2 → e.f.qual.toNat < 8 → TargetTraps e s (.br f) e.relTarget) ∧
  ∀ row f s e t, s.env? row f = some e →
    Untouched e s (e.jumped s (e.g.setPcs t) (some t)) ∧
      ∃ g', (e.jumped s (e.g.setPcs t) (some t)).group? e.g.team e.g.gid = some g' ∧ PcsAt e g' t

/-- Calls and returns (15 R329, R331): `call` writes A + L to its link, in the subset's threads, and moves the subset; `ret` moves
each thread of the subset to the target it reads itself; a bad target, a misaligned return address of `call` and a bad target of some
thread of `ret` fault. -/
def Rules.CallAndReturn : Prop :=
  (∀ f s e, Issues (.call f) s e false → Bare e → LinkOk e → e.shapePendDst e.f.dst 2 1 = false →
    TargetOk e e.relTarget → (e.gr.native = true → e.nextPc % 8 = 0) → e.any = true →
    let q : DWord := BitVec.ofNat 64 e.nextPc
    let g1 := match e.f.dst with
      | .v n => e.g.writeV2 n.val (e.subsetThreads.map (fun i => (i, q))) 0 0
      | .s n => e.g.writeS n.val q 0 0
      | _ => e.g
    exec (.call f) s = .next (e.jumped s (g1.setPcs e.relTarget.toNat) (some e.relTarget.toNat))) ∧
  (∀ f s e, Issues (.ret f) s e false → Bare e → PairArg e e.f.a →
    (∀ i ∈ e.subsetThreads, TargetOk e ((e.read64 e.f.a i).toNat : Int)) → e.any = true →
    let g1 : Group := { e.g with threads := e.g.threads.zipIdx.map (fun p =>
      if e.g.run.subset.getLsbD p.2 then { p.1 with pc := BitVec.ofNat 56 (e.read64 e.f.a p.2).toNat } else p.1) }
    exec (.ret f) s = .next (e.jumped s g1 (some (e.read64 e.f.a e.first).toNat))) ∧
  (∀ f s e, Issues (.call f) s e false → Bare e → LinkOk e → e.shapePendDst e.f.dst 2 1 = false →
    TargetTraps e s (.call f) e.relTarget ∧
    (TargetOk e e.relTarget → e.gr.native = true → e.nextPc % 8 ≠ 0 →
      exec (.call f) s = .next (e.take s { code := cALIGN, faddr := e.nextPc }))) ∧
  (∀ f s e, Issues (.ret f) s e false → Bare e → PairArg e e.f.a → ∀ pre i post, e.subsetThreads = pre ++ i :: post →
    (∀ j ∈ pre, TargetOk e ((e.read64 e.f.a j).toNat : Int)) → ¬ TargetOk e ((e.read64 e.f.a i).toNat : Int) →
    exec (.ret f) s = .next (e.take s { code := cALIGN, fthread := some i, faddr := (e.read64 e.f.a i).toNat }))

/-- Calls and returns through code capabilities (15 R330): `ret.k` makes the capability, unsealed, the code capability and
moves every thread to its cursor; `callk` does so too and writes the old one, as a sealed entry at A + L, to its link. -/
def Rules.CodeCapabilities : Prop :=
  (∀ f s e, Issues (.retK f) s e false → e.f.mod = 1 → e.f.qual = 0 → isSPair e.f.a = true → e.capPend e.f.a = false →
    CodeCap e (e.cap e.f.a 0) → e.any = true →
    let k := e.cap e.f.a 0
    exec (.retK f) s =
      .next (e.jumped s ({ e.g with kcode := k.withOtype 0 : Group }.setPcs k.addr) (some k.addr))) ∧
  (∀ f s e, Issues (.callk f) s e false → Bare e → isSPair e.f.a = true → (e.f.dst = .none ∨
      ∃ n : Fin 64, e.f.dst = .s n ∧ n.val % 2 = 0) → e.capPend e.f.a = false → e.shapePendDst e.f.dst 4 2 = false →
    CodeCap e (e.cap e.f.a 0) → (e.gr.native = true → e.nextPc % 8 = 0) → e.any = true →
    let k := e.cap e.f.a 0
    let link : TCap := ((e.g.kcode.withAddr e.nextPc).withOtype 63).withTag true
    exec (.callk f) s = .next (e.jumped s
      ({ e.writeCap [(e.first, link)] 0 0 with kcode := k.withOtype 0 : Group }.setPcs k.addr) (some k.addr)))

/-- Calls and returns, by address and through code capabilities (15 R329, R330). -/
def Obligations.CallsAndReturns : Prop := Rules.CallAndReturn ∧ Rules.CodeCapabilities

/-- Divergence (15 R332, R334): `fork` sets the meeting register of the subset and sends the threads whose condition holds
to the target; `meet.set` writes and `meet.get` reads the meeting registers of the taking-part threads. -/
def Rules.ForkAndMeet : Prop :=
  (∀ f s e, Issues (.fork f) s e false → Bare e → e.pendSrc e.f.a = false →
    let u : Int := if e.gr.native then 8 else 4
    let t : Int := (e.pc : Int) + (e.imm.extractLsb' 0 16).toInt * u
    let m : Int := (e.pc : Int) + (e.imm.extractLsb' 16 16).toInt * u
    let goes (i : Nat) : Bool := e.part.getLsbD i && e.read32 e.f.a i != 0
    let g1 : Group := { e.g with threads := e.g.threads.zipIdx.map (fun p =>
      if e.g.run.subset.getLsbD p.2 then
        { p.1 with meet := BitVec.ofInt 56 m, pc := if goes p.2 then BitVec.ofInt 56 t else BitVec.ofNat 56 e.nextPc }
      else p.1) }
    TargetOk e t → TargetOk e m → e.any = true →
      exec (.fork f) s = .next (e.jumped s g1 (if e.parts.any goes then some t.toNat else none))) ∧
  (∀ f s e, Issues (.fork f) s e false → Bare e → e.pendSrc e.f.a = false →
    let u : Int := if e.gr.native then 8 else 4
    let t : Int := (e.pc : Int) + (e.imm.extractLsb' 0 16).toInt * u
    let m : Int := (e.pc : Int) + (e.imm.extractLsb' 16 16).toInt * u
    let out (x : Int) : Prop := x < 0 ∨ ((2 ^ 56 : Nat) : Int) ≤ x
    (out t → exec (.fork f) s = .next (e.take s { code := cFETCH, faddr := bitsOf 64 t })) ∧
    (¬ out t → out m → exec (.fork f) s = .next (e.take s { code := cFETCH, faddr := bitsOf 64 m })) ∧
    (¬ out t → ¬ out m → ¬ TargetOk e t → exec (.fork f) s = .next (e.take s { code := cALIGN, faddr := t.toNat }))) ∧
  (∀ f s e, Issues (.meetSet f) s e false → Bare e → PairArg e e.f.a →
    (e.shapeLbl e.f.a 2 1 ≠ 0 → exec (.meetSet f) s = .next (e.take s { code := cLABEL })) ∧
    (e.shapeLbl e.f.a 2 1 = 0 → ∀ pre i post, e.parts = pre ++ i :: post →
      let v (j : Nat) : Nat := (e.read64 e.f.a j).toNat
      let good (j : Nat) : Prop := v j = meetSentinel.toNat ∨ TargetOk e (v j : Int)
      (∀ j ∈ pre, good j) → ¬ good i →
      exec (.meetSet f) s = .next (e.take s { code := cALIGN, fthread := some i, faddr := v i }))) ∧
  (∀ f s e, Issues (.meetSet f) s e false → Bare e → PairArg e e.f.a → e.shapeLbl e.f.a 2 1 = 0 →
    (∀ i ∈ e.parts, (e.read64 e.f.a i).toNat = meetSentinel.toNat ∨ TargetOk e ((e.read64 e.f.a i).toNat : Int)) →
    exec (.meetSet f) s = .next (e.done (s.setGroup { e.g with threads := e.g.threads.zipIdx.map (fun p =>
      if e.part.getLsbD p.2 then { p.1 with meet := BitVec.ofNat 56 (e.read64 e.f.a p.2).toNat } else p.1) }))) ∧
  (∀ f s e n, Issues (.meetGet f) s e false → Bare e → e.f.dst = .v n → vShape e.gr.vregs 2 n.val = true →
    e.g.vPend n.val 2 = false →
    exec (.meetGet f) s = .next (e.done (s.setGroup (e.g.writeV2 n.val (e.parts.map (fun i =>
      (i, match e.g.thread i with | some t => t.meet.setWidth 64 | none => 0))) 0 0))))

/-- Branches, forks and meeting registers (15 R323, R328, R332, R334). -/
def Obligations.BranchesAndForks : Prop := Rules.Branches ∧ Rules.ForkAndMeet

/-- Exits (15 R337): after `exit` the taking-part threads have exited, after `end` with a taking-part thread every thread
has; no register and no memory changes. -/
def Rules.Exits : Prop :=
  (∀ f s e, Issues (.exitt f) s e false → Bare e →
    ∃ t g', exec (.exitt f) s = .next t ∧ t.group? e.g.team e.g.gid = some g' ∧ SameRegs e.g g' ∧ SameWorld e s t ∧
      ∀ i th th', e.g.threads[i]? = some th → g'.threads[i]? = some th' →
        th'.exited = (th.exited || e.part.getLsbD i)) ∧
  (∀ f s e, Issues (.endGroup f) s e false → Bare e → e.any = true →
    ∃ t g', exec (.endGroup f) s = .next t ∧ t.group? e.g.team e.g.gid = some g' ∧ SameRegs e.g g' ∧ SameWorld e s t ∧
      ∀ i th', i < 64 → g'.threads[i]? = some th' → th'.exited = true)

/-- Named barriers (15 R340; 07 R148): the arrival that completes one, an arrival that waits, an arrival that goes on, a second arrival
in one phase, which waits to be executed again, a wait on a phase already complete, and one after an arrival in the present phase;
SAT_TRAP, and ILLEGAL_OPERAND for a number that the team has not and for a group that is not converged. -/
def Rules.Barriers : Prop :=
  (∀ f s e, Issues (.bar f) s e false → BarOk e → e.barrier.arrived.getLsbD e.g.gid = false →
    (e.lastArrival s = true → exec (.bar f) s = .next (e.done (s.barComplete e.t.id e.f.qual.toNat))) ∧
    (e.lastArrival s = false → ∃ t g', exec (.bar f) s = .next t ∧ t.group? e.g.team e.g.gid = some g' ∧
      SameRegs e.g g' ∧ g'.status = .barrier ∧ g'.wait = .bar e.f.qual.toNat false ∧
      ∃ tm, t.team? e.t.id = some tm ∧
        (mget Barrier.zero tm.bars e.f.qual.toNat).arrived = e.barrier.arrived ||| (1#32 <<< e.g.gid))) ∧
  (∀ f s e, Issues (.barArrive f) s e false → BarOk e → e.barrier.arrived.getLsbD e.g.gid = false →
    (e.lastArrival s = true → exec (.barArrive f) s = .next (e.done (s.barComplete e.t.id e.f.qual.toNat))) ∧
    (e.lastArrival s = false → exec (.barArrive f) s = .next (e.done (s.setTeam { e.t with
      bars := mset Barrier.zero e.t.bars e.f.qual.toNat
        { e.barrier with arrived := e.barrier.arrived ||| (1#32 <<< e.g.gid) } })))) ∧
  (∀ f s e, Issues (.barWait f) s e false → BarOk e → e.barrier.arrived.getLsbD e.g.gid = false →
    exec (.barWait f) s = .next (e.done s)) ∧
  (∀ (mk : Fields → Instr), mk ∈ [Instr.bar, .barArrive] → ∀ f s e, Issues (mk f) s e false → BarOk e →
    e.barrier.arrived.getLsbD e.g.gid = true → EntersBarrier e s (mk f) true e.pc) ∧
  (∀ f s e, Issues (.barWait f) s e false → BarOk e → e.barrier.arrived.getLsbD e.g.gid = true →
    EntersBarrier e s (.barWait f) false e.nextPc) ∧
  (∀ (mk : Fields → Instr), mk ∈ [Instr.bar, .barArrive, .barWait] → ∀ f s e, Issues (mk f) s e false → e.f.mod = 0 →
    e.f.qual.toNat < 16 →
    (e.gr.bars ≤ e.f.qual.toNat ∨ e.converged = false → exec (mk f) s = .next (e.take s { code := cILOPER })) ∧
    (e.f.qual.toNat < e.gr.bars → e.converged = true → e.g.satTrap = true →
      exec (mk f) s = .next (e.take s { code := cSATTRAP })))

/-- Exits and named barriers (15 R337, R340). Where the spec leaves it open the model chooses: checks irrespective of
participation (log entry 26). -/
def Obligations.ExitsAndBarriers : Prop := Rules.Exits ∧ Rules.Barriers

/-- Condition registers and guard slots (15 R326, R327, R338; 14 R309): `cset` raises EARLY_READ for a pending A, does nothing
without a taking-part thread, and otherwise writes whether A is not zero in every (ALL) or some taking-part thread, with A's
label; `cop`, `elect`, `gset`, `gclr`. -/
def Obligations.Conditions : Prop :=
  (∀ f s e n, Issues (.cset f) s e false → e.f.dst = .c n → e.f.mod.toNat < 2 → e.f.qual = 0 →
    (e.pendSrc e.f.a = true → exec (.cset f) s = .next (e.take s { code := cEARLY })) ∧
    (e.pendSrc e.f.a = false → e.any = false → exec (.cset f) s = .next (e.done s)) ∧
    (e.pendSrc e.f.a = false → e.any = true → ∃ t g', exec (.cset f) s = .next t ∧
      t.group? e.g.team e.g.gid = some g' ∧ mget 0 g'.clbl n.val = e.lblOf e.f.a)) ∧
  (∀ f s e n, Issues (.cset f) s e false → e.f.dst = .c n → e.f.mod.toNat < 2 → e.f.qual = 0 → e.pendSrc e.f.a = false →
    ∃ t, exec (.cset f) s = .next t ∧ Wrote e s t e.parts
      (fun _ => if (if e.f.mod = 1 then e.parts.all (fun i => e.read32 e.f.a i != 0)
        else e.parts.any (fun i => e.read32 e.f.a i != 0)) then 1 else 0) false 0) ∧
  (∀ f s e n, Issues (.cop f) s e false → e.f.dst = .c n → e.f.mod.toNat < 8 → e.f.qual = 0 → e.copArg e.f.a = true →
    e.copArg e.f.b = true → e.pendSrc e.f.a = false → e.pendSrc e.f.b = false →
    ∃ t, exec (.cop f) s = .next t ∧ Wrote e s t e.parts
      (fun _ => if copOp e.f.mod.toNat (e.read32 e.f.a e.first != 0) (e.read32 e.f.b e.first != 0) then 1 else 0) false 0) ∧
  (∀ f s e, Issues (.elect f) s e false → Bare e → (dstC e.f.dst).isSome = false → e.pendDst e.f.dst = false →
    ∃ t, exec (.elect f) s = .next t ∧ Wrote e s t e.parts
      (fun i => if (dstS e.f.dst).isSome then BitVec.ofNat 64 e.first else if i = e.first then 1 else 0) true 0) ∧
  (∀ f s e, Issues (.gset f) s e false → e.f.mod = 0 → e.f.qual.toNat < 16 → e.f.b = .zero → e.uniform e.f.a = true →
    e.pendSrc e.f.a = false → e.f.qual.toNat < e.gr.guards → e.any = true →
    let b := e.read32 e.f.a e.first != 0
    exec (.gset f) s = .next (e.done ((s.setTeam { e.t with guards := mput e.t.guards e.f.qual.toNat (.known b) }).decideGuards
      e.t.id e.f.qual.toNat b))) ∧
  (∀ f s e, Issues (.gclr f) s e false → e.f.mod = 0 → e.f.qual.toNat < 16 → e.f.b = .zero → e.f.a = .zero →
    e.f.qual.toNat < e.gr.guards → e.any = true →
    exec (.gclr f) s = .next (e.done (s.setTeam { e.t with guards := mdel e.t.guards e.f.qual.toNat })))

/-- System registers and the clock (03 R59, R60; 01 R25; 16 R362): what `srd`, `swr` and `rdclk` read and write; and that
`swr` to any listed register other than `sr.mode` and `sr.sat` raises PRIV. -/
def Rules.SystemRegisters : Prop :=
  (∀ f s e v wide l, Issues (.srd f) s e true → e.sreg s e.f.qual.toNat = some (v, wide, l) → e.f.mod.toNat < 2 →
    dstVorS e.f.dst = true → e.pendDst e.f.dst = false →
    ∃ t, exec (.srd f) s = .next t ∧ Wrote e s t e.parts
      (fun _ => if e.f.mod = 1 then (v.extractLsb' 32 32).setWidth 64 else v) (wide && e.f.mod == 0) 0) ∧
  (∀ f s e, Issues (.swr f) s e false → e.f.mod = 0 → rngKeyOk e.f.a = true → e.pendSrc e.f.a = false → e.any = true →
    (e.f.qual = 1 → (e.read32 e.f.a e.first).toNat < 4096 →
      exec (.swr f) s = .next (e.done (s.setGroup { e.g with
        mode := e.read32 e.f.a e.first, srlbl := mset 0 e.g.srlbl 0 (e.lblOf e.f.a) }))) ∧
    (e.f.qual = 2 → (e.read32 e.f.a e.first).toNat < 128 →
      exec (.swr f) s = .next (e.done (s.setGroup { e.g with
        sat := e.read32 e.f.a e.first, srlbl := mset 0 e.g.srlbl 1 (e.lblOf e.f.a) }))) ∧
    (e.f.qual.toNat ∈ [0x03, 0x10, 0x11] → exec (.swr f) s = .next (e.take s { code := cPRIV }))) ∧
  (∀ f s e, Issues (.rdclk f) s e true → e.f.mod.toNat < 2 → e.f.qual = 0 → dstVS e.f.dst → e.pendDst e.f.dst = false →
    ∃ t, exec (.rdclk f) s = .next t ∧ Wrote e s t e.parts
      (fun _ => if e.f.mod = 1 then ((BitVec.ofNat 64 s.clk : DWord).extractLsb' 32 32).setWidth 64
        else BitVec.ofNat 64 s.clk) true 0)

/-- Sticky flags, partition size and sampling (08 R182, R192; 11 R234): `satrd`, `satclr`, `part`, and `csamp` with the index that it draws in
each tile and the c register that says whether some total was unusable. -/
def Rules.FlagsAndTiles : Prop :=
  (∀ f s e, Issues (.satrd f) s e (!e.f.mod.getLsbD 0) → e.f.mod.toNat < 2 → e.f.qual = 0 → e.pendDst e.f.dst = false →
    ∃ t, exec (.satrd f) s = .next t ∧ WroteSat e s t e.parts (fun _ => (e.g.sat.extractLsb' 0 7).setWidth 64) false
      (if e.any ∧ e.f.mod = 1 then e.g.sat &&& ~~~0x7F else e.g.sat)) ∧
  (∀ f s e, Issues (.satclr f) s e true → Bare e → e.uniform e.f.a = true → e.pendSrc e.f.a = false → e.any = true →
    (e.read32 e.f.a e.first).toNat < 128 →
    ∃ t, exec (.satclr f) s = .next t ∧ WroteSat e s t [] (fun _ => 0) false (e.g.sat &&& ~~~(e.read32 e.f.a e.first))) ∧
  (∀ f s e, Issues (.part f) s e true → Bare e → e.uniform e.f.a = true → e.pendSrc e.f.a = false → e.any = true →
    (e.read32 e.f.a e.first).toNat ∈ [2, 4, 8, 16, 32, 64] → (e.read32 e.f.a e.first).toNat ≤ e.gr.width →
    ∃ t g', exec (.part f) s = .next t ∧ t.group? e.g.team e.g.gid = some g' ∧ SameWorld e s t ∧
      g'.psize = e.read32 e.f.a e.first ∧ g'.v = e.g.v ∧ g'.s = e.g.s ∧ g'.p = e.g.p ∧ g'.c = e.g.c ∧
      g'.mode = e.g.mode ∧ g'.sat = e.g.sat) ∧
  (∀ f s e, Issues (.csamp f) s e false → e.f.mod = 0 → e.f.qual.toNat < 8 → dstVorNone e.f.dst = true →
    e.early e.srcs = false → e.any = true →
    ∃ t g', exec (.csamp f) s = .next t ∧ t.group? e.g.team e.g.gid = some g' ∧ SameWorld e s t ∧
      g'.s = e.g.s ∧ g'.p = e.g.p ∧ g'.mode = e.g.mode ∧ g'.sat = e.g.sat ∧
      (∀ n, n < 8 → n ≠ e.f.qual.toNat → g'.cget n = e.g.cget n) ∧
      (0 < e.g.psize.toNat → e.gr.width % e.g.psize.toNat = 0 → (∀ i ∈ e.parts, i < e.gr.width) →
        (g'.cget e.f.qual.toNat = true ↔ ∃ i ∈ e.parts, csampBad e (i / e.g.psize.toNat * e.g.psize.toNat)) ∧
        ∀ n, e.f.dst = .v n → ∀ i ∈ e.parts, ∀ l ∈ e.parts, l / e.g.psize.toNat = i / e.g.psize.toNat →
          (∀ j ∈ e.parts, j / e.g.psize.toNat = i / e.g.psize.toNat → l ≤ j) →
          ∃ r, g'.vget n.val i = BitVec.ofNat 32 r ∧
            csampDraws e (i / e.g.psize.toNat * e.g.psize.toNat) (e.read32 e.f.b l).toNat r))

/-- System registers, sticky flags, partition size and sampling (03 R59, R60; 08 R182, R192; 11 R234; 16 R362). Where
the spec leaves it open the model chooses: the capture of `satclr` and `part` (log entry 30), when `satclr` checks its
value (log entry 25). -/
def Obligations.SystemState : Prop := Rules.SystemRegisters ∧ Rules.FlagsAndTiles

namespace Sys2Proof.Machine

open Sys2Proof

/-! ### Faults -/

/-- A fault that the group's handler can take (19 R420, R423): a code that goes to handlers, none running, a subset, a valid
trap vector in s62 and s63. -/
structure Deliverable (g : Group) (gr : Grid) (c : Ctx) (x : Exc) : Prop where
  code : handlerCode x.code = true ∧ x.code ≠ cHPAGE ∧ x.code ≠ cBREAK
  idle : g.frame.active = false
  subset : g.run.subset ≠ 0
  vector : vectorOk c gr.native (g.capPair 62) = true

/-- The frame shows the fault (19 R421): code, FPC, RPC, FADDR, LPC, SUBSET, XFLAGS, AUX and the word's fields. -/
structure Shows (fr : Frame) (g : Group) (w : FrameWord) (x : Exc) : Prop where
  code : fr.code = x.code
  fpc : fr.fpc = BitVec.ofNat 64 g.pc
  rpc : fr.rpc = BitVec.ofNat 64 (if x.rpcAfter then g.pc + w.length else g.pc)
  faddr : fr.faddr = BitVec.ofNat 64 x.faddr
  lpc : fr.lpc = BitVec.ofNat 64 x.lpc
  subset : fr.subset = g.run.subset
  xflags : fr.xflags = x.xflags
  aux : fr.aux = x.aux
  fthread : fr.fthread = (match x.fthread with | some i => BitVec.ofNat 8 i | none => 0xFF)
  opc : fr.opc = w.opc
  words : fr.words = w.words
  amask : fr.amask = w.amask

/-- No general register, flag or mode of a group changed. -/
structure SameData (g g' : Group) : Prop where
  v : g'.v = g.v
  s : g'.s = g.s
  p : g'.p = g.p
  c : g'.c = g.c
  vside : g'.vside = g.vside
  sside : g'.sside = g.sside
  vtag : g'.vtag = g.vtag
  stag : g'.stag = g.stag
  mode : g'.mode = g.mode
  sat : g'.sat = g.sat
  psize : g'.psize = g.psize

/-- Device memory, host memory, the side band and the cached copies are as they were. -/
structure SameMem (s t : State) : Prop where
  mem : t.mem = s.mem
  hostMem : t.hostMem = s.hostMem
  side : t.side = s.side
  copies : t.copies = s.copies

end Sys2Proof.Machine

/-- Instructions whose effect is a fault or an event of the snapshot block (06 R127, 08 R174; 19 R427 to R429): `trap` raises
SOFTWARE with AUX = IMM and RPC = FPC + length, as the frame of a delivered one shows, and without a taking-part thread only
ends the run; `brk` BREAKPOINT when a debugger is attached and nothing otherwise, `fdiv` UNIMPL whatever its fields,
`snap` is the SW source of the snapshot trigger. -/
def Obligations.Traps : Prop :=
  (∀ f s e, Issues (.trap f) s e false → Bare e → e.any = true →
    exec (.trap f) s = .next (e.take s { code := cSOFTWARE, aux := e.imm.setWidth 64, rpcAfter := true })) ∧
  (∀ f s e, Issues (.trap f) s e false → Bare e → e.any = false → exec (.trap f) s = .next (e.done s)) ∧
  (∀ f s e, Issues (.trap f) s e false → Bare e → e.any = true → e.g.run.stepped = false → e.g.haltAtEnd = false →
    Deliverable e.g e.gr e.ctx { code := cSOFTWARE, aux := e.imm.setWidth 64, rpcAfter := true } →
    ∃ t g', exec (.trap f) s = .next t ∧ t.group? e.g.team e.g.gid = some g' ∧ g'.frame.active = true ∧
      g'.frame.code = cSOFTWARE ∧ g'.frame.aux = e.imm.setWidth 64 ∧ g'.frame.fpc = BitVec.ofNat 64 e.pc ∧
      g'.frame.rpc = BitVec.ofNat 64 e.nextPc) ∧
  (∀ f s e, Issues (.brk f) s e false → Bare e → e.any = true → e.ctx.debugger = true →
    exec (.brk f) s = .next (e.take s { code := cBREAK, rpcAfter := true })) ∧
  (∀ f s e, Issues (.brk f) s e false → Bare e → e.ctx.debugger = false → exec (.brk f) s = .next (e.done s)) ∧
  (∀ f s e, s.env? Row.fdiv f = some e → e.g.owed = none → exec (.fdiv f) s = .next (e.take s { code := cUNIMPL })) ∧
  (∀ f s e, Issues (.snap f) s e false → Bare e → e.any = true →
    exec (.snap f) s = .next (e.done (s.snapSource 0 0 e.ctx.fn e.imm)))

/-- Delivery to the handler (19 R420, R421, R424): the frame shows the fault and is active, the code capability is saved and
replaced by the vector, unsealed, every thread of the subset stands at the vector's cursor, the latches are lost, the group is
READY, and no register and no memory changes. -/
def Rules.FaultDelivered : Prop :=
  ∀ s g t gr c w x, Deliverable g gr c x → g.run.stepped = false → g.haltAtEnd = false →
    let s' := takeFault s g t gr c w x
    SameMem s s' ∧ ∃ g', s'.group? g.team g.gid = some g' ∧ g'.status = .ready ∧ Shows g'.frame g w x ∧
      g'.frame.active = true ∧ g'.frame.nested = false ∧ g'.frame.kcode = g.kcode ∧
      g'.kcode = (g.capPair 62).withOtype 0 ∧ g'.lats = [] ∧ SameData g g' ∧
      ∀ i th th', g.threads[i]? = some th → g'.threads[i]? = some th' →
        th'.pc = if g.run.subset.getLsbD i then BitVec.ofNat 56 (g.capPair 62).addr else th.pc

/-- A fault that no handler can take stops the group (19 R420, R425): STOPPED with its code, a frame that shows it and is not
active, and a record for the fault ring of its function; within a handler the handler's frame stays, marked NESTED. SESSION_LOST
terminates the team and its grid, with a record marked TEAMTERM. -/
def Rules.FaultStops : Prop :=
  (∀ s g t gr c w x, x.code = cSESSION →
    let s' := takeFault s g t gr c w x
    SameMem s s' ∧ s'.team? t.id = some { t with term := some (t.term.getD cSESSION) } ∧
      (∃ gr', s'.grid? gr.id = some gr' ∧ gr'.term.isSome = true) ∧
      ∃ r, (s'.fn c.fn).pendingRecs = (s.fn c.fn).pendingRecs ++ [r] ∧ r.code = cSESSION ∧ r.teamterm = true ∧ r.gid = g.gid) ∧
  ∀ s g t gr c w x, x.code ≠ cHPAGE → x.code ≠ cBREAK → x.code ≠ cSESSION → (g.frame.active = true ∨
      handlerCode x.code = false ∨ vectorOk c gr.native (g.capPair 62) = false) →
    let s' := takeFault s g t gr c w x
    SameMem s s' ∧ (∃ g', s'.group? g.team g.gid = some g' ∧ g'.status = .stopped ∧ g'.stopCode = x.code ∧
      SameData g g' ∧ g'.kcode = g.kcode ∧
      (g.frame.active = true → g'.frame = { g.frame with nested := true }) ∧
      (g.frame.active = false → Shows g'.frame g w x ∧ g'.frame.active = false)) ∧
    ∃ r, (s'.fn c.fn).pendingRecs = (s.fn c.fn).pendingRecs ++ [r] ∧ r.code = x.code ∧
      r.fpc = BitVec.ofNat 64 g.pc ∧ r.faddr = BitVec.ofNat 64 x.faddr ∧ r.gid = g.gid ∧ r.nested = g.frame.active

/-- HOST_PAGE and BREAKPOINT (18 R409, 19 R420; 16 R363): a group at a page that is being fetched becomes REPLAYABLE with its
PCs unmoved; at a breakpoint it is STOPPED by the debugger with its PCs at RPC. -/
def Rules.PageAndBreakpoint : Prop :=
  ∀ s g t gr c w x, (x.code = cHPAGE ∨ (x.code = cBREAK ∧ c.teamstop = false)) →
    let s' := takeFault s g t gr c w x
    SameMem s s' ∧ ∃ g', s'.group? g.team g.gid = some g' ∧ g'.stopCode = x.code ∧ SameData g g' ∧ g'.kcode = g.kcode ∧
      (x.code = cHPAGE → g'.status = .replayable ∧ g'.wait = .page x.faddr (w.opc == 0x241 || w.opc == 0x245) ∧ g'.threads = g.threads) ∧
      (x.code = cBREAK → g'.status = .stopped ∧ g'.debugStop = true ∧
        ∀ i th th', g.threads[i]? = some th → g'.threads[i]? = some th' →
          th'.pc = if g.run.subset.getLsbD i then
            BitVec.ofNat 56 (if x.rpcAfter then g.pc + w.length else g.pc) else th.pc)

/-- A fault that a store of the group through a window met when it was performed is raised at the group's next instruction, whichever
it is, before any effect of that (03 R64). -/
def Rules.OwedFault : Prop :=
  ∀ i s e row f c a, Instr.parts i = some (row, f) → s.env? row f = some e → e.g.owed = some (c, a) →
    exec i s = .next (takeFault s { e.g with owed := none } e.t e.gr e.ctx (e.frameWord false) { code := c, faddr := a })

/-- What becomes of a fault (19 R420 to R425): the handler takes it, or the group stops with a record, or it waits for
a page or the debugger; and the fault that a performed window store owes. Where the spec leaves it open the model
chooses: the PCs at the stop of a `brk` (log entry 36), a breakpoint within a handler (log entry 10), when a window
access is performed and its fault raised (log entry 45). -/
def Obligations.FaultDelivery : Prop := Rules.FaultDelivered ∧ Rules.FaultStops ∧ Rules.PageAndBreakpoint ∧ Rules.OwedFault

/-- The return from a handler (19 R430): with the frame active and the subset that of the fault, `rfe` restores the
code capability, puts every thread of the subset at RPC and ends the handler; no register changes. Where the spec
leaves it open the model chooses: arrivals after an `rfe` (log entry 24). -/
def Obligations.ReturnFromHandler : Prop :=
  ∀ f s e, Issues (.rfe f) s e false → Bare e → e.any = true →
    (∀ p ∈ s.wins, ¬(p.2.byTeam = e.g.team ∧ p.2.byGid = e.g.gid)) →
    e.g.frame.active = true → e.g.run.subset = e.g.frame.subset → TargetOk e (e.g.frame.rpc.toNat : Int) →
    ∃ t g', exec (.rfe f) s = .next t ∧ t.group? e.g.team e.g.gid = some g' ∧ SameMem s t ∧
      g'.frame = { e.g.frame with active := false, kcode := TCap.null } ∧ g'.kcode = e.g.frame.kcode ∧ SameData e.g g' ∧
      PcsAt e g' e.g.frame.rpc.toNat

/-- `yield` and `sleep` (16 R360, R361): the quadrant's pointer for the group's level moves to its slot; the group waits d
cycles from the end of its run, d being A + IMM, at most 16,777,215, and not at all for 0. -/
def Obligations.YieldAndSleep : Prop :=
  (∀ f s e, Issues (.yield f) s e false → Bare e → e.any = true →
    exec (.yield f) s = .next (e.done { s with
      rrobin := mset 0 s.rrobin (rrKey e.g.core e.g.quad (e.g.level e.gr.prio)) e.g.slot })) ∧
  (∀ f s e, Issues (.sleep f) s e false → Bare e → e.uniform e.f.a = true → e.pendSrc e.f.a = false → e.any = true →
    let d := min ((e.read32 e.f.a e.first).toNat + e.imm.toNat) 16777215
    (d = 0 → exec (.sleep f) s = .next (e.done s)) ∧
    (d ≠ 0 → ∃ t g', exec (.sleep f) s = .next t ∧ t.group? e.g.team e.g.gid = some g' ∧ SameRegs e.g g' ∧
      SameWorld e s t ∧ g'.status = .waiting ∧ g'.wait = .sleep (s.clk + e.cost + d) ∧ PcsAt e g' e.nextPc))

namespace Sys2Proof.Machine

open Sys2Proof

/-! ### Memory -/

/-- A populated address: device memory, a window, the host window (01 R20 to R22). -/
def Populated (a : Nat) : Prop := isDev a = true ∨ isWin a = true ∨ isHost a = true

/-- The checks of 13 R271, steps 3 to 9, on one access of `n` bytes at its effective address. -/
structure Permitted (s : State) (e : Env) (kinds : MemAcc → Prop) (perms : List Nat) (n al : Nat) (a : MemAcc) : Prop where
  tag : a.k.tag = true
  sealed : a.k.otype = 0
  ofKind : kinds a
  colour : s.permits e.ctx a.k.col = true
  perm : ∀ p ∈ perms, a.k.has p = true
  tile : needsTile a.ea = true → a.k.has pTILE = true
  low : 0 ≤ a.ea
  high : a.ea + n ≤ ((2 ^ 56 : Nat) : Int)
  bounds : a.k.inBounds a.ea.toNat n = true
  aligned : a.ea.toNat % al = 0
  window : isWin a.ea.toNat = true → winAligned a.ea.toNat n = true
  there : Populated a.ea.toNat

/-- The kinds of 13 R269 and R277 for loads and stores: global memory or a window; not the tarn for capabilities. -/
def loadKinds (capk : Bool) (a : MemAcc) : Prop := a.k.kind = 0 ∨ (a.k.kind = 3 ∧ (capk = true → a.k.tarnWin = false))

/-- Limits on written data of a label (13 R271 steps 10 and 11, 18 R394). -/
structure Storable (s : State) (l : Label) (n : Nat) (a : MemAcc) : Prop where
  lbl : l.toNat ≤ lblLimit a.k a.ea.toNat
  co : ∀ p ∈ lineParts a.ea.toNat n, s.coAt p.1 p.2 = false

/-- The destination of a load of a size (13 R269, R273). -/
def LoadDst (e : Env) (size : Nat) (discard latch : Bool) : Prop :=
  match e.f.dst with
  | .v d => vShape e.gr.vregs (sizeRegs size).1 d.val = true
  | .s d => d.val % (sizeRegs size).2 = 0 ∧ e.uniform e.f.a = true ∧ e.uniform e.f.b = true
  | .none => discard = true
  | .lat _ => latch = true
  | _ => False

/-- The address operands of a memory instruction are ready (13 R268, R273). -/
structure AddrReady (e : Env) (queued : Bool) : Prop where
  base : e.capSrcOk e.f.a = true ∧ e.capPend e.f.a = false
  index : e.pendSrc e.f.b = false
  qual : e.f.qualOk queued = true
  any : e.any = true
  fence : e.g.fencing = 0

/-- A load has been issued (13 R273): the group holds it with its elements, its destination is pending on its queue, no value
of a register and no memory has changed. -/
def LoadIssued (e : Env) (s t : State) (kind : LoadKind) (size : Nat) (xs : List LoadElem) : Prop :=
  SameMem s t ∧ ∃ g', t.group? e.g.team e.g.gid = some g' ∧
    g'.v = e.g.v ∧ g'.s = e.g.s ∧ g'.p = e.g.p ∧ g'.c = e.g.c ∧ g'.mode = e.g.mode ∧ g'.sat = e.g.sat ∧
    g'.psize = e.g.psize ∧ g'.kcode = e.g.kcode ∧ g'.frame = e.g.frame ∧
    g'.loads = e.g.loads ++ [⟨e.g.nextIseq, e.f.queue, BitVec.ofNat 56 e.pc, e.f.dst, kind, xs⟩] ∧
    (∀ n j, e.f.dst = .v n → j < (sizeRegs size).1 →
      (g'.vsd (n.val + j)).pend = true ∧ (g'.vsd (n.val + j)).pq = e.f.queue) ∧
    (∀ n j, e.f.dst = .s n → j < (sizeRegs size).2 →
      (g'.ssd (n.val + j)).pend = true ∧ (g'.ssd (n.val + j)).pq = e.f.queue)

/-- The elements of a load: one per acting thread, of the instruction's size at its effective address. -/
def Env.loadElems (e : Env) (capk : Bool) (n : Nat) : List LoadElem :=
  (e.accs (e.actors e.f.dst.isS)).map (fun a =>
    ⟨a.i, a.ea.toNat, n, e.minStamps (e.capTaint e.f.a ||| e.taintOf e.f.b) a.ea.toNat n, capk && a.k.has pLDCAP, a.k.col,
      .waiting⟩)

/-- The data operand of a store is ready (13 R269, R278). -/
def DataReady (e : Env) (size : Nat) : Prop :=
  e.shapePend e.f.c (sizeRegs size).1 (sizeRegs size).2 = false

/-- The ranges of the accesses do not meet. -/
def Apart (n : Nat) (as : List MemAcc) : Prop := anyOverlap n (as.map (fun a => a.ea.toNat)) = false

/-- Windows and host pages that a store needs are at hand (03 R64, 13 R278, 18 R408). -/
structure TargetsReady (e : Env) (s : State) (as : List MemAcc) (n : Nat) : Prop where
  host : e.hostStep s as n = none
  fresh : e.g.refused = none
  window : ∀ a ∈ as, isWin a.ea.toNat = true → s.winFault a.ea.toNat n true none = none

/-- The byte of a device address in a core's L1 under a colour: that of its copy, or, where it holds none, that which a fill
brings (12 R249 to R251). -/
def State.seen (s : State) (core colour a : Nat) : Byte :=
  match s.copy? (.l1 core) (a / 128) colour with
  | some k => byteAt k.data (a % 128)
  | none => byteAt (s.l1Line core (a / 128) colour none 0 0).2.data (a % 128)

/-- The access lies in a window of the executing team's own block (13 R277, 17 R371). -/
def OwnBlock (e : Env) (s : State) (a : MemAcc) : Prop :=
  a.k.kind = 3 ∧ isWin a.ea.toNat = true ∧ isTarnWin a.ea.toNat = false ∧
    ∃ p, s.winTeam a.ea.toNat = some p ∧ p.1.id = e.t.id

/-- Nothing of the group is under way: no load, no atomic. -/
def Settled (e : Env) (s : State) : Prop := e.g.loads = [] ∧ s.atoms = []

/-- The tarn access lies in the executing team's own tarn on this core (13 R272, R279). -/
structure InTarn (s : State) (e : Env) (perm n al : Nat) (a : MemAcc) : Prop where
  permitted : Permitted s e (fun a => a.k.kind = 3) [perm] n al a
  own : a.ea.toNat / 2 ^ 38 = s.tarnPrefix e.coreRes.core e.coreRes.slot
  inside : a.ea.toNat % 2 ^ 38 + n ≤ e.gr.tarn * 4096

/-- Every tarn line of the accesses is present (13 R280). -/
def LinesHere (e : Env) (n : Nat) (as : List MemAcc) : Prop := absentLines e.coreRes as n = []

/-- The bytes of a tarn access. -/
def tarnBytes (n : Nat) (as : List MemAcc) : List (Nat × Nat) := as.map (fun a => (a.ea.toNat % 2 ^ 38, n))

/-- No access of the group through a tarn window is still to be performed (12 R265). -/
def TarnFree (s : State) (e : Env) : Prop :=
  ∀ p ∈ s.wins, ¬(p.2.byTeam = e.g.team ∧ p.2.byGid = e.g.gid ∧ isTarnWin p.2.addr = true)

/-- A write to device memory in [a, a + n) meets no word V of a bound sync object (13 R291). -/
def NoSync (s : State) (a n : Nat) : Prop := ∀ v ∈ s.boundV, overlaps a n v 8 = false

/-- The label that a tarn load gives: that of its address operands and of every line that its elements meet (18 R395; 03 R57). -/
def ldtLbl (e : Env) (n : Nat) (as : List MemAcc) : Label :=
  as.foldl (fun l a => (tarnLines (a.ea.toNat % 2 ^ 38) n).foldl (fun l j =>
    Label.max l (mget TLine.clear e.coreRes.tline j).lbl) l) (Label.max (e.capLbl e.f.a) (e.lblOf e.f.b))

/-- The taint that a tarn load gives: that of its address operands (12 R261). -/
def addrTaint (e : Env) : Taint := e.capTaint e.f.a ||| e.taintOf e.f.b

/-- No word of these bytes is uncorrectable (00 R5). -/
def TarnSound (e : Env) (n : Nat) (as : List MemAcc) : Prop := ∀ p ∈ tarnBytes n as, badIn e.coreRes.tbad p.1 p.2 = none

/-- The access of a thread. -/
def tarnAcc (e : Env) (i : Nat) : MemAcc := ⟨i, e.cap e.f.a i, e.ea i⟩

/-- Room for two more lines in the caches of a core, so that none is evicted (01 R16, 12 R249). -/
def Roomy (s : State) (core : Nat) : Prop :=
  ∀ c ∈ [CacheId.l1 core, .rdc (s.dieOfCore core)],
    (s.copies.filter (fun k => k.cache == c)).length + 2 < cacheLines c - s.linesOff c

/-- The value that a tarn load gives for an access (13 R269, R279). -/
def tarnValue (e : Env) (a : MemAcc) : Nat :=
  elemValue e.f.size e.f.pos e.f.sx (natOfBytes (bytesAt e.coreRes.tarn (a.ea.toNat % 2 ^ 38) (sizeBytes e.f.size)))

/-- What a form of atomic needs: conditions on its fields, its operation, its data operands, whether it is 64 bits wide, and whether
it executes once (13 R284 to R286). -/
structure AtomShape where
  ok : Env → Prop
  op : Env → AtomOp
  srcs : Env → List Src
  wide : Env → Bool
  once : Env → Bool

/-- Bytes of the access (13 R282). -/
def AtomShape.bytes (x : AtomShape) (e : Env) : Nat := if x.wide e then 8 else 4

/-- The data register that is written: the last source, which for `cas` is D and not the value compared with (18 R394). -/
def AtomShape.data (x : AtomShape) (e : Env) : List Src := (x.srcs e).drop ((x.srcs e).length - 1)

/-- The accesses: one per acting thread. -/
def AtomShape.accs (x : AtomShape) (e : Env) : List MemAcc := e.accs (e.actors (x.once e || e.f.dst.isS))

/-- Steps 1 to 3 of a fence have nothing to wait for, at a SCOPE other than 0 (12 R258, R259; 13 R282): every load of the group has
read and every window store of it been performed, and at device and peers scope no marker is due. -/
def FencePassed (e : Env) (s : State) : Prop :=
  e.f.scope = 0 ∨ (e.firstStep s (e.groupIn s).nextIseq s.nextId = none ∧
    (6 ≤ e.f.scope → (s.flushWritten e.g.team e.g.gid e.f.scope).markersOf
      (e.sources (s.flushWritten e.g.team e.g.gid e.f.scope)) (e.f.scope == 7) = []))

/-- The operands of an atomic are legal and ready, and its accesses permitted (13 R271, R282 to R286). -/
structure AtomReady (x : AtomShape) (s : State) (e : Env) : Prop where
  form : x.ok e
  addr : AddrReady e true
  scope : e.f.scope ≠ 3
  fence : FencePassed e s
  ready : (x.srcs e).any e.pendSrc = false ∧ e.pendDst e.f.dst = false
  dst : match e.f.dst with
    | .v d => x.wide e = false ∧ d.val < e.gr.vregs
    | .s _ => e.uniform e.f.a = true ∧ e.uniform e.f.b = true ∧ (x.srcs e).all e.uniform = true
    | .none => True
    | _ => False
  wide : x.wide e = true → isSPair e.f.a = true ∧ e.uniform e.f.b = true ∧ (x.srcs e).all e.uniform = true
  permitted : ∀ a ∈ x.accs e,
    Permitted s e (fun a => a.k.kind = 0 ∧ isDev a.ea.toNat = true) [pLD, pST] (x.bytes e) (x.bytes e) a ∧
      Storable s (e.lbls (x.data e)) (x.bytes e) a

/-- A form of atomic completes (13 R282, R283): it sends the request of every access to an engine; where nothing of the group is
under way and no copy of a line is held, it also issues a load whose destination takes the old values. -/
def AtomForm (mk : Fields → Instr) (x : AtomShape) : Prop :=
  ∀ f s e, Issues (mk f) s e false → AtomReady x s e →
    ∃ t, exec (mk f) s = .next t ∧
      (∀ a ∈ x.accs e, ∃ p ∈ t.atoms, p.2.op = x.op e ∧ p.2.width = x.bytes e ∧ p.2.team = e.g.team ∧ p.2.gid = e.g.gid ∧
        p.2.cluster = s.homeCluster a.ea.toNat ∧ ∃ y ∈ p.2.elems, y.thread = a.i ∧ y.addr = a.ea.toNat) ∧
      (Settled e s → s.copies = [] →
        LoadIssued e s t (.atomic (x.bytes e)) (if x.wide e then 3 else 2)
          ((x.accs e).map (fun a => ⟨a.i, a.ea.toNat, x.bytes e, [], false, a.k.col, .waiting⟩)) ∧
        ∀ p ∈ t.atoms, p.2.iseq = e.g.nextIseq)

/-- `atom` (13 R284). -/
def atomShape : AtomShape where
  ok e := e.f.mod.getLsbD 3 = false
  op e := match e.f.op2 with | 0 => .add | 1 => .exch | 2 => .maxu | _ => .orr
  srcs e := [e.f.c]
  wide e := e.f.c.isS
  once e := e.f.c.isS

/-- `atomf` (13 R285). -/
def atomfShape : AtomShape where
  ok e := e.f.mod.getLsbD 3 = false ∧ e.f.op2 ≠ 1
  op e := match e.f.op2 with | 0 => .fadd | 2 => .fmin | _ => .fmax
  srcs e := [e.f.c]
  wide _ := false
  once := Env.atomfOnce

/-- `atomf.add.ord` (13 R287). -/
def atomfOrdShape : AtomShape where
  ok e := e.f.mod.getLsbD 3 = false ∧ e.f.op2 = 1 ∧ e.f.dst = .none
  op _ := .ord
  srcs e := [e.f.c]
  wide _ := false
  once := Env.atomfOnce

/-- `cas` (13 R286). -/
def casShape : AtomShape where
  ok e := e.f.mod.toNat < 8 ∧ e.f.c.isS = e.f.d.isS
  op _ := .cas
  srcs e := [e.f.c, e.f.d]
  wide e := e.f.c.isS && e.f.d.isS
  once e := e.f.c.isS && e.f.d.isS

/-- A request that is alone at its engine, and where no copy and nothing of software's stands in the way of its element (13 R283,
R288, R291). -/
structure AtomAlone (s : State) (r : AtomReq) (x : AtomElem) (g : Group) (t : Team) (gr : Grid) : Prop where
  elems : r.elems = [x]
  group : s.group? r.team r.gid = some g
  team : s.team? r.team = some t
  grid : s.grid? t.grid = some gr
  first : ∀ p ∈ s.atoms, p.2 = r ∨ p.2.meets x.addr r.width = false
  clean : ∀ k ∈ s.copies, k.line = x.addr / 128 → k.colour = x.colour → k.isDirty = false
  sound : s.badSec? x.addr r.width = none
  co : s.coAt x.addr r.width = false
  syncs : s.syncs = []
  area : s.grids.any (fun p => p.2.ovflMeets x.addr r.width) = false

/-- It is the turn of a request at its engine: it comes first among those of its group to the same lines (00 R2), and the engine serves its
function next (16 R349). -/
def AtomTurn (s : State) (r : AtomReq) : Prop :=
  s.atomFirst r = true ∧ ∃ d, s.wdrrPick (s.turn (.atomic r.cluster)) (s.atomFns r.cluster) = some (s.fnOfTeam r.team, d)

/-- What a load writes, as a number, from the raw bytes of an element, and the SIZE of its destination (13 R269). -/
def LoadKind.lands (k : LoadKind) (raw : Nat) : Nat × Nat :=
  match k with
  | .plain size pos sx => (size, elemValue size pos sx raw)
  | .cap => (4, raw % 2 ^ 128)
  | .atomic w => if w = 8 then (3, raw % 2 ^ 64) else (2, raw % 2 ^ 32)

/-- An element of a load has reached its destination (13 R269, R273; 17 R390; 18 R395): the registers of its size hold its value, in a v
destination for its thread alone; their labels rise to that of what was read; a capability load sets the tag of the quad or pair;
every other register, flag and mode is as it was. -/
structure Landed (g g' : Group) (ld : Load) (i raw : Nat) (l : Label) (tag : Bool) : Prop where
  v : ∀ k j, j < 64 → g'.vget k j = (match dstV ld.dst with
    | some d => if d ≤ k ∧ k < d + (sizeRegs (ld.kind.lands raw).1).1 ∧ j = i
        then BitVec.ofNat 32 ((ld.kind.lands raw).2 / 2 ^ (32 * (k - d))) else g.vget k j
    | none => g.vget k j)
  s : ∀ k, g'.sget k = (match dstS ld.dst with
    | some d => if d ≤ k ∧ k < d + (sizeRegs (ld.kind.lands raw).1).2
        then BitVec.ofNat 64 ((ld.kind.lands raw).2 / 2 ^ (64 * (k - d))) else g.sget k
    | none => g.sget k)
  lblV : ∀ k, (g'.vsd k).lbl = (match dstV ld.dst with
    | some d => if d ≤ k ∧ k < d + (sizeRegs (ld.kind.lands raw).1).1 then Label.max (g.vsd k).lbl l else (g.vsd k).lbl
    | none => (g.vsd k).lbl)
  lblS : ∀ k, (g'.ssd k).lbl = (match dstS ld.dst with
    | some d => if d ≤ k ∧ k < d + (sizeRegs (ld.kind.lands raw).1).2 then Label.max (g.ssd k).lbl l else (g.ssd k).lbl
    | none => (g.ssd k).lbl)
  tagV : ld.kind = .cap → ∀ d, dstV ld.dst = some d → mget false g'.vtag (64 * (d / 4) + i) = tag
  tagS : ld.kind = .cap → ∀ d, dstS ld.dst = some d → mget false g'.stag (d / 2) = tag
  p : g'.p = g.p
  c : g'.c = g.c
  mode : g'.mode = g.mode
  sat : g'.sat = g.sat
  psize : g'.psize = g.psize
  kcode : g'.kcode = g.kcode
  frame : g'.frame = g.frame

/-- A group whose one load has one element that has not read, and nothing else of it under way. -/
structure OneWaiting (s : State) (team gid : Nat) (g : Group) (ld : Load) (x : LoadElem) : Prop where
  group : s.group? team gid = some g ∧ g.team = team ∧ g.gid = gid
  loads : g.loads = [ld]
  elems : ld.elems = [x]
  waiting : x.status = .waiting
  thread : x.thread < 64 ∧ x.bytes ≤ 16
  kind : ∀ w, ld.kind ≠ .atomic w
  alone : s.atoms = [] ∧ s.syncs = []
  resident : ¬ (s.team? team).any (fun t => t.status == .saved) = true

end Sys2Proof.Machine

/-- Loads (13 R268 to R273, R276, R277): `ld` and `ldk` with permitted accesses are issued, one element per acting thread,
at EA = ADDR + Int(B) × scale + IMM. -/
def Rules.LoadsIssue : Prop :=
  (∀ f s e, Issues (.ld f) s e false → AddrReady e true → e.f.sizeOk true = true → LoadDst e e.f.size true false →
    e.shapePendDst e.f.dst (sizeRegs e.f.size).1 (sizeRegs e.f.size).2 = false →
    (∀ a ∈ e.accs (e.actors e.f.dst.isS),
      Permitted s e (loadKinds false) [pLD] (sizeBytes e.f.size) (sizeAlign e.f.size) a) →
    ∃ t, exec (.ld f) s = .next t ∧
      LoadIssued e s t (.plain e.f.size e.f.pos e.f.sx) e.f.size (e.loadElems false (sizeBytes e.f.size))) ∧
  (∀ f s e, Issues (.ldk f) s e false → AddrReady e true → e.f.mod = 0 → LoadDst e 4 false false →
    e.shapePendDst e.f.dst 4 2 = false →
    (∀ a ∈ e.accs (e.actors e.f.dst.isS), Permitted s e (loadKinds true) [pLD] 16 16 a) →
    ∃ t, exec (.ldk f) s = .next t ∧ LoadIssued e s t .cap 4 (e.loadElems true 16))

/-- The return of a load element (12 R251, R267; 13 R269, R273, R274, R276; 17 R390), with no earlier access of its thread to the same
bytes under way: a readable element of device memory reads its bytes through the core's caches; one of the host window reads
them through the function's translations, without a tag; one of a window reads what it names when the access is performed. The
destination, of every size and kind, then holds it, and the element is delivered. -/
def Rules.LoadDelivered : Prop :=
  (∀ s team gid (g : Group) (ld : Load) (x : LoadElem), OneWaiting s team gid g ld x → isDev (x.addr + x.bytes) = true →
    (∀ p ∈ lineParts x.addr x.bytes, s.badSec? p.1 p.2 = none ∧ s.coAt p.1 p.2 = false) →
    s.grids.any (fun p => p.2.ovflMeets x.addr x.bytes) = false → Roomy s g.core →
    let got := (s.readParts g.core x.colour ((lineParts x.addr x.bytes).map (fun p => (p.1, p.2, none))) x.mins).2
    got.co = false →
    ∃ t g', exec (.loadReturn team gid ld.iseq x.thread) s = .next t ∧ t.group? team gid = some g' ∧ t.mem = s.mem ∧
      Landed g g' ld x.thread (natOfBytes got.bytes) got.lbl
        (x.keepTag && got.tag && !s.isRevoked ⟨BitVec.ofNat 128 (natOfBytes got.bytes), true⟩) ∧
      g'.loads = [{ ld with elems := [{ x with status := .delivered }] }]) ∧
  (∀ s team gid (g : Group) (ld : Load) (x : LoadElem), OneWaiting s team gid g ld x → isWin x.addr = false →
    isHost x.addr = true → Roomy s g.core →
    let ps := s.transParts (s.fnOfTeam team) x.colour x.addr x.bytes false
    (∀ p ∈ ps, ∃ h, p.2.2 = .ok h ∧ s.hostLost h p.2.1 = false) →
    let got := (s.readParts g.core x.colour
      (ps.map (fun p => (p.1, p.2.1, match p.2.2 with | .ok h => some h | _ => none))) x.mins).2
    ∃ t g', exec (.loadReturn team gid ld.iseq x.thread) s = .next t ∧ t.group? team gid = some g' ∧ t.mem = s.mem ∧
      Landed g g' ld x.thread (natOfBytes got.bytes) got.lbl false ∧
      g'.loads = [{ ld with elems := [{ x with status := .delivered }] }]) ∧
  (∀ s wid (w : WinAcc) (g : Group) (ld : Load) (x : LoadElem), OneWaiting s w.byTeam w.byGid g ld x → mfind s.wins wid = some w →
    w.id = wid → w.load = some (ld.iseq, x.thread) → s.winReady w = true →
    let s0 := { s with wins := mdel s.wins wid }
    s0.winFault w.addr w.bytes false none = none →
    let got := s0.winRead w.addr w.bytes
    ∃ t g', exec (.windowAccess wid) s = .next t ∧ t.group? w.byTeam w.byGid = some g' ∧ t.mem = s.mem ∧
      mfind t.wins wid = none ∧
      Landed g g' ld x.thread (natOfBytes got.bytes) got.lbl
        (got.tag && w.tag == some true && !s.isRevoked ⟨BitVec.ofNat 128 (natOfBytes got.bytes), true⟩) ∧
      g'.loads = [{ ld with elems := [{ x with status := .delivered }] }])

/-- Loads are issued, and their elements are delivered (13 R268 to R273, R276, R277). Where the spec leaves it open
the model chooses: a queue that holds 32 loads (log entry 40), the stamps of a queued load (log entry 123), when a
window access is performed (log entry 45). -/
def Obligations.Loads : Prop := Rules.LoadsIssue ∧ Rules.LoadDelivered

/-- Stores (13 R268 to R271, R277, R278): `st` and `stk` with permitted accesses write each taking-part thread's data
at its effective address. Where the spec leaves it open the model chooses: the data operand of a store (log entry 39).
-/
def Obligations.StoresComplete : Prop :=
  (∀ f s e, Issues (.st f) s e false → AddrReady e false → e.f.sizeOk false = true → e.dataOk e.f.c e.f.size = true →
    DataReady e e.f.size → Apart (sizeBytes e.f.size) (e.accs e.parts) → TargetsReady e s (e.accs e.parts) (sizeBytes e.f.size) →
    (∀ a ∈ e.accs e.parts,
      Permitted s e (loadKinds false) [pST] (sizeBytes e.f.size) (sizeAlign e.f.size) a ∧
      Storable s (e.shapeLbl e.f.c (sizeRegs e.f.size).1 (sizeRegs e.f.size).2) (sizeBytes e.f.size) a) →
    exec (.st f) s = .next (e.done ((e.accs e.parts).foldl (fun s a =>
      e.storeElem s a (storeBytes e.f.size e.f.pos (e.data e.f.c e.f.size a.i))
        (e.shapeLbl e.f.c (sizeRegs e.f.size).1 (sizeRegs e.f.size).2) none) s))) ∧
  (∀ f s e, Issues (.stk f) s e false → AddrReady e false → e.f.mod = 0 → e.capSrcOk e.f.c = true → DataReady e 4 →
    Apart 16 (e.accs e.parts) → TargetsReady e s (e.accs e.parts) 16 →
    (∀ a ∈ e.accs e.parts, Permitted s e (loadKinds true) [pST] 16 16 a ∧ Storable s (e.shapeLbl e.f.c 4 2) 16 a ∧
      ((e.cap e.f.c a.i).tag = true → a.k.has pSTCAP = true ∧
        ((e.cap e.f.c a.i).has pGLOBAL = true ∨ OwnBlock e s a))) →
    exec (.stk f) s = .next (e.done ((e.accs e.parts).foldl (fun s a =>
      e.storeElem s a (storeBytes 4 e.f.pos (e.data e.f.c 4 a.i)) (e.shapeLbl e.f.c 4 2)
        (some (s.storedTag (e.cap e.f.c a.i) && !isHost a.ea.toNat))) s)))

/-- What a store to device memory leaves (12 R250, R252): the byte that the core's L1 gives under the store's colour is the
stored one inside the stored bytes and the old one everywhere else, and so is every byte under another colour or in another
core's L1, and every byte at the point of coherence, where neither a bound sync object nor an overflow area is touched. -/
def Obligations.StoreFrame : Prop :=
  ∀ (e : Env) (s : State) (a : MemAcc) (bs : List (Byte × Byte)) (l : Label) (tag : Option Bool),
    s.now > 0 → Roomy s e.g.core → s.group? e.g.team e.g.gid = some e.g → Settled e s → bs ≠ [] → bs.length ≤ 16 →
    isDev (a.ea.toNat + bs.length) = true → NoSync s a.ea.toNat bs.length →
    s.grids.any (fun p => p.2.ovflMeets a.ea.toNat bs.length) = false →
    let t := e.storeElem s a bs l tag
    (∀ j, j < bs.length → t.seen e.g.core a.k.col (a.ea.toNat + j) =
      blend (s.seen e.g.core a.k.col (a.ea.toNat + j)) (bs[j]?.getD (0, 0)).1 (bs[j]?.getD (0, 0)).2) ∧
    (∀ b, (b < a.ea.toNat ∨ a.ea.toNat + bs.length ≤ b) → t.seen e.g.core a.k.col b = s.seen e.g.core a.k.col b) ∧
    (∀ core colour b, (core ≠ e.g.core ∨ colour ≠ a.k.col) → t.seen core colour b = s.seen core colour b) ∧
    t.mem = s.mem ∧ t.hostMem = s.hostMem

/-- The tarn (13 R272, R279 to R281): `ldt` of up to four bytes writes each acting thread's element, `ldt` of more writes its registers,
with the taint of the address and the label of the lines read, and `stt` writes the bytes of each taking-part thread; an access to an
absent line, a load's or a store's, parks the group on the lines that are absent. -/
def Obligations.TarnAccess : Prop :=
  (∀ f s e, Issues (.ldt f) s e true → e.f.size ≠ 3 → e.f.size ≠ 4 → AddrReady e false → e.f.sizeOk true = true →
    LoadDst e e.f.size (asksCapture f) true → e.pendDst e.f.dst = false →
    (∀ a ∈ e.accs (e.actors e.f.dst.isS), InTarn s e pLD (sizeBytes e.f.size) (sizeAlign e.f.size) a) →
    LinesHere e (sizeBytes e.f.size) (e.accs (e.actors e.f.dst.isS)) →
    TarnFree s e → TarnSound e (sizeBytes e.f.size) (e.accs (e.actors e.f.dst.isS)) →
    ∃ t, exec (.ldt f) s = .next t ∧ Wrote e s t e.parts
      (fun i => BitVec.ofNat 64 (tarnValue e (tarnAcc e (if e.f.dst.isS then e.first else i)))) false 0 ∧
      ∃ g', t.group? e.g.team e.g.gid = some g' ∧
        SideOf e g' (addrTaint e) (ldtLbl e (sizeBytes e.f.size) (e.accs (e.actors e.f.dst.isS)))) ∧
  (∀ f s e, Issues (.ldt f) s e false → (e.f.size = 3 ∨ e.f.size = 4) → AddrReady e false → e.f.sizeOk true = true →
    LoadDst e e.f.size false false → e.shapePendDst e.f.dst (sizeRegs e.f.size).1 (sizeRegs e.f.size).2 = false →
    (∀ a ∈ e.accs (e.actors e.f.dst.isS), InTarn s e pLD (sizeBytes e.f.size) (sizeAlign e.f.size) a) →
    LinesHere e (sizeBytes e.f.size) (e.accs (e.actors e.f.dst.isS)) →
    TarnFree s e → TarnSound e (sizeBytes e.f.size) (e.accs (e.actors e.f.dst.isS)) →
    exec (.ldt f) s = .next (e.done (s.setGroup (e.writeWide e.f.size
      ((e.accs (e.actors e.f.dst.isS)).map (fun a => (a.i, tarnValue e a))) (addrTaint e)
      (ldtLbl e (sizeBytes e.f.size) (e.accs (e.actors e.f.dst.isS))))))) ∧
  (∀ f s e, Issues (.ldt f) s e (f.size != 3 && f.size != 4) → AddrReady e false → e.f.sizeOk true = true →
    LoadDst e e.f.size (asksCapture f) (f.size != 3 && f.size != 4) →
    e.shapePendDst e.f.dst (sizeRegs e.f.size).1 (sizeRegs e.f.size).2 = false →
    (∀ a ∈ e.accs (e.actors e.f.dst.isS), InTarn s e pLD (sizeBytes e.f.size) (sizeAlign e.f.size) a) →
    ¬ LinesHere e (sizeBytes e.f.size) (e.accs (e.actors e.f.dst.isS)) →
    exec (.ldt f) s = .next (s.setGroup (e.g.stopRun s.clk .parked
      (.park (absentLines e.coreRes (e.accs (e.actors e.f.dst.isS)) (sizeBytes e.f.size)))))) ∧
  (∀ f s e, Issues (.stt f) s e false → AddrReady e false → e.f.sizeOk false = true → e.dataOk e.f.c e.f.size = true →
    DataReady e e.f.size → Apart (sizeBytes e.f.size) (e.accs e.parts) → TarnFree s e →
    (∀ a ∈ e.accs e.parts, InTarn s e pST (sizeBytes e.f.size) (sizeAlign e.f.size) a ∧
      (e.shapeLbl e.f.c (sizeRegs e.f.size).1 (sizeRegs e.f.size).2).toNat ≤ lblLimit a.k a.ea.toNat) →
    (LinesHere e (sizeBytes e.f.size) (e.accs e.parts) →
      exec (.stt f) s = .next (e.done (s.modCore e.t.id e.g.core (fun r =>
        (e.accs e.parts).foldl (fun r a => r.tarnWrite (a.ea.toNat % 2 ^ 38)
          (storeBytes e.f.size e.f.pos (e.data e.f.c e.f.size a.i))
          (e.shapeLbl e.f.c (sizeRegs e.f.size).1 (sizeRegs e.f.size).2)) r)))) ∧
    (¬ LinesHere e (sizeBytes e.f.size) (e.accs e.parts) →
      exec (.stt f) s = .next (s.setGroup (e.g.stopRun s.clk .parked
        (.park (absentLines e.coreRes (e.accs e.parts) (sizeBytes e.f.size)))))))

/-- `atom`, `atomf`, `atomf.add.ord` and `cas` of every SCOPE, with permitted accesses to device memory (13 R282 to R287): each
access is sent to the engine of its home cluster, and, where nothing of the group is under way and no copy of a line is held, a
load is issued whose destination takes the old values, and no memory and no other register changes. -/
def Rules.AtomicsIssue : Prop :=
  AtomForm .atom atomShape ∧ AtomForm .atomf atomfShape ∧ AtomForm .atomfAddOrd atomfOrdShape ∧ AtomForm .cas casShape

/-- A request whose turn it is at its engine (13 R283 to R287; 16 R349): it is applied and is there no more. One of a single element, alone there, leaves
the operation's result in memory and every other byte as it was; an ordered add leaves memory as it was and is held at the engine,
as the contribution of its thread, where the engine has room. -/
def Rules.AtomicApplied : Prop :=
  (∀ s rid r, mfind s.atoms rid = some r → r.id = rid → AtomTurn s r →
    ∃ s', exec (.atomicRequest rid) s = .next s' ∧ mfind s'.atoms rid = none) ∧
  (∀ s rid r x g t gr, mfind s.atoms rid = some r → r.id = rid → AtomTurn s r → AtomAlone s r x g t gr → r.op ≠ .ord →
    (r.width = 4 ∨ r.width = 8) → isDev (x.addr + r.width) = true →
    (∀ v ∈ s.boundV, overlaps x.addr r.width v 8 = false) →
    ∃ s', exec (.atomicRequest rid) s = .next s' ∧
      (∀ a, (a < x.addr ∨ x.addr + r.width ≤ a) → byteAt s'.mem a = byteAt s.mem a) ∧
      natOfBytes (bytesAt s'.mem x.addr r.width) =
        ((atomNew r.op r.width (natOfBytes (bytesAt s.mem x.addr r.width)) x.data.toNat x.cmp.toNat).getD
          (natOfBytes (bytesAt s.mem x.addr r.width))) % 2 ^ (8 * r.width)) ∧
  (∀ s rid r x g t gr, mfind s.atoms rid = some r → r.id = rid → AtomTurn s r → AtomAlone s r x g t gr → r.op = .ord →
    (s.contribs.filter (fun c => c.cluster == s.homeCluster x.addr && c.entry.isNone)).length < 65536 →
    let c : Contrib := ⟨gr.id, t.id, t.kid, g.gid * gr.width + x.thread, 0, x.addr, x.data.setWidth 32, x.lbl,
      s.homeCluster x.addr, none⟩
    ∃ s', exec (.atomicRequest rid) s = .next s' ∧ s'.mem = s.mem ∧ s'.contribs = s.contribs ++ [{ c with seq := gr.nextSeq c }])

/-- Atomic instructions are issued, and their requests are applied (13 R282 to R287). Where the spec leaves it open
the model chooses: where `seq` starts (log entry 104), how often a uniform atomic acts (log entry 42), atomics with
DST 475 in the queue (log entry 41), a queue that holds 32 loads (log entry 40), the rounds of an atomic engine (log
entry 122). -/
def Obligations.Atomics : Prop := Rules.AtomicsIssue ∧ Rules.AtomicApplied

namespace Sys2Proof.Machine

open Sys2Proof

/-! ### Sync objects, fences and queues -/

/-- The group waits, past the instruction, on a condition; no register and no memory has changed. -/
def Waits (e : Env) (s : State) (i : Instr) (w : Wait) : Prop :=
  ∃ t g', exec i s = .next t ∧ t.group? e.g.team e.g.gid = some g' ∧ SameRegs e.g g' ∧ SameWorld e s t ∧
    g'.status = .waiting ∧ g'.wait = w ∧ PcsAt e g' e.nextPc

/-- QUAL names a binding entry within the allocation (13 R292). -/
def EntryOk (e : Env) : Prop := e.f.qual.toNat < 16 ∧ e.f.qual.toNat < e.gr.binds

/-- A capability of a kind, with permissions, that a context may use (13 R290, R292, R296). -/
structure Usable (s : State) (e : Env) (k : TCap) (kind : Nat) (perms : List Nat) : Prop where
  tag : k.tag = true
  sealed : k.otype = 0
  ofKind : k.kind = kind
  colour : s.permits e.ctx k.col = true
  perm : ∀ p ∈ perms, k.has p = true

/-- A capability to a sync object whose V the context may read and write (13 R292; 17 R370). -/
structure SyncUsable (s : State) (e : Env) (k : TCap) : Prop where
  usable : Usable s e k 4 [pLD, pST]
  bounds : k.inBounds k.addr 8 = true
  device : isDev k.addr = true
  aligned : k.addr % 8 = 0

/-- A register pair that holds a capability, ready to be read. -/
def PairReady (e : Env) (x : Src) : Prop := isSPair x = true ∧ e.capPend x = false

/-- SCOPE of a sync instruction: neither 0 nor 3 (06 R116). -/
def SyncScope (e : Env) : Prop := e.f.scope ≠ 0 ∧ e.f.scope ≠ 3

/-- The private levels below the meeting level of a scope (12 R247): the L1 below cluster scope and wider ones, and at team
scope when the team is a pair; the remote-data cache below die scope and wider ones. -/
def meetsL1 (e : Env) : Bool := decide (e.f.scope ≥ 4) || (e.f.scope == 2 && e.t.cores.length == 2)
/-- The remote-data cache lies below the meeting level. -/
def meetsRdc (e : Env) : Bool := decide (e.f.scope ≥ 6)

/-- The team once an acquire of the object at `a` has performed (12 R256): the entries that hold the object take the instant
as the stamp of every level below the meeting level. -/
def Env.acquiredTeam (e : Env) (now a : Nat) : Team :=
  let h (b : Binding) : Binding :=
    if b.sync.tag = true ∧ b.sync.addr = a then
      { b with stampL1 := if meetsL1 e then now else b.stampL1, stampRdc := if meetsRdc e then now else b.stampRdc }
    else b
  { e.t with binds := mmap h e.t.binds }

/-- No load of the group waits for the host (13 R274): none for a page, none for its translation. -/
def HostSettled (e : Env) : Prop :=
  e.g.firstPage = none ∧ ∀ ld ∈ e.g.loads, ∀ x ∈ ld.elems, x.status = .waiting → isHost x.addr = false

/-- Nothing that comes before an operation of a group is under way (12 R255, R258, step 1): every load below its issue number has read,
every window store accepted before it and every atomic request below its issue number has been performed. -/
structure Unheld (s : State) (team gid upto id : Nat) : Prop where
  loads : ∀ g, s.group? team gid = some g → g.earlierWaits upto = false
  wins : ∀ p ∈ s.wins, ¬(p.2.byTeam = team ∧ p.2.byGid = gid ∧ p.2.load = none ∧ p.1 < id)
  atoms : ∀ p ∈ s.atoms, ¬(p.2.team = team ∧ p.2.gid = gid ∧ p.2.iseq < upto)

/-- An operation that the group issues now comes behind nothing of it that is under way. -/
def IssuesUnheld (e : Env) (s : State) : Prop := Unheld s e.g.team e.g.gid e.g.nextIseq s.nextId

/-- The entry's sync object cannot be accessed, and the instruction faults (13 R293, R294; 17 R370). -/
def EntryFaults (e : Env) (s : State) (i : Instr) : Prop :=
  (e.entry.sync.tag = false → exec i s = .next (e.take s { code := cTAG, faddr := e.entry.sync.addr })) ∧
  (∀ x, e.entryFault s = some x → exec i s = .next (e.take s x))

/-- A load of the group waits for a page, and none of it for a translation: the instruction raises HOST_PAGE (13 R274). -/
def PageFaults (e : Env) (s : State) (i : Instr) : Prop :=
  ∀ j a, e.g.firstPage = some (j, a) →
    (∀ ld ∈ e.g.loads, ∀ x ∈ ld.elems, x.status = .waiting → isHost x.addr = false) →
    exec i s = .next (e.take s { code := cHPAGE, fthread := some j, faddr := a })

/-- No operation of the group is under way, no line is copied, no packet is on its way, nothing waits for markers. -/
structure Quiet (e : Env) (s : State) : Prop where
  settled : Settled e s
  unheld : IssuesUnheld e s
  copies : s.copies = []
  sent : s.sent = []
  syncs : s.syncs = []
  contribs : s.contribs = []

/-- V after a release (13 R293): A added, A, or the larger. -/
def released (e : Env) (v : DWord) : DWord :=
  let a := e.read e.f.a e.first
  match e.f.op2 with
  | 0 => v + a
  | 1 => a
  | _ => if v.toNat < a.toNat then a else v

end Sys2Proof.Machine

/-- Binding entries (13 R292): `bind` puts a sync object and a region, with the instant as both stamps, into an entry,
`unbind` empties it. Where the spec leaves it open the model chooses: the order of checks of `bind` (log entry 105),
both stamps of a new entry (log entry 38). -/
def Obligations.BindingEntries : Prop :=
  (∀ f s e, Issues (.bind f) s e false → e.f.mod = 0 → EntryOk e → PairReady e e.f.a → e.any = true →
    SyncUsable s e (e.cap e.f.a 0) →
    (e.f.b = .zero ∨ (PairReady e e.f.b ∧ Usable s e (e.cap e.f.b 0) 0 [])) →
    let b : Binding := ⟨e.cap e.f.a 0, if e.f.b = .zero then TCap.null else e.cap e.f.b 0, s.now, s.now⟩
    exec (.bind f) s = .next (e.done (s.setTeam { e.t with binds := mput e.t.binds e.f.qual.toNat b }))) ∧
  (∀ f s e, Issues (.unbind f) s e false → e.f.mod = 0 → EntryOk e → e.f.a = .zero → e.f.b = .zero → e.any = true →
    exec (.unbind f) s = .next (e.done (s.setTeam { e.t with binds := mdel e.t.binds e.f.qual.toNat })))

/-- Acquires (12 R256, 13 R294; 17 R370): `acq` stamps the entries of its object; `acq.ge` does so once V is at least A, and waits
until then; with an object that cannot be accessed each faults. -/
def Rules.Acquires : Prop :=
  (∀ f s e, Issues (.acq f) s e false → SyncScope e → e.f.mod.toNat < 8 → EntryOk e → e.f.a = .zero → e.f.b = .zero → e.any = true →
    (SyncUsable s e e.entry.sync → e.g.fencing = 0 → s.badSec? e.entry.sync.addr 8 = none →
      exec (.acq f) s = .next (e.done (s.setTeam (e.acquiredTeam s.now e.entry.sync.addr)))) ∧
    EntryFaults e s (.acq f)) ∧
  (∀ f s e, Issues (.acqGe f) s e false → SyncScope e → e.f.mod.getLsbD 3 = true → e.f.mod.toNat < 16 → EntryOk e →
    e.uniform e.f.a = true → e.pendSrc e.f.a = false → e.f.b = .zero → e.any = true →
    EntryFaults e s (.acqGe f) ∧
    (SyncUsable s e e.entry.sync → e.g.fencing = 0 → s.badSec? e.entry.sync.addr 8 = none →
    let v := natOfBytes (bytesAt s.mem e.entry.sync.addr 8)
    let a := e.read e.f.a e.first
    (a.toNat ≤ v → exec (.acqGe f) s = .next (e.done (s.setTeam (e.acquiredTeam s.now e.entry.sync.addr)))) ∧
    (v < a.toNat → Waits e s (.acqGe f) (.acqGe e.f.qual.toNat e.f.scope a))))

/-- Releases (12 R255, 13 R274, R293; 17 R370): the group goes on at once. While an earlier load of it has not read, nothing changes but
that the release is under way; with nothing to wait for, V of the object takes its new value and no other byte changes; with a marker
to wait for, nothing changes but that the release waits for its markers. With an object that cannot be accessed it faults, and at a
load that waits for a page it raises HOST_PAGE. -/
def Rules.Releases : Prop :=
  ∀ f s e, Issues (.rel f) s e false → SyncScope e → e.f.mod.getLsbD 3 = false → e.f.op2 ≠ 3 → EntryOk e →
    e.uniform e.f.a = true → e.pendSrc e.f.a = false → e.f.b = .zero → e.any = true →
    EntryFaults e s (.rel f) ∧ (SyncUsable s e e.entry.sync → e.g.fencing = 0 → PageFaults e s (.rel f) ∧
    (s.badSec? e.entry.sync.addr 8 = none → HostSettled e →
    let a := e.entry.sync.addr
    let kind : SyncKind := .rel a e.f.op2 (e.read e.f.a e.first)
    let ms := if 6 ≤ e.f.scope then s.markersOf (e.sources s) (e.f.scope == 7) else []
    (∃ t g', exec (.rel f) s = .next t ∧ t.group? e.g.team e.g.gid = some g' ∧ SameRegs e.g g') ∧
    (s.syncs = [] → e.g.earlierWaits e.g.nextIseq = true →
      exec (.rel f) s = .next (e.done { s with
        nextId := s.nextId + 1
        syncs := [(s.nextId, ⟨s.nextId, e.g.team, e.g.gid, kind, e.f.scope, e.g.nextIseq, false, e.sources s, []⟩)] })) ∧
    (s.syncs = [] → IssuesUnheld e s → s.copies = [] → s.contribs = [] →
      (ms = [] → ∃ t, exec (.rel f) s = .next t ∧ t.syncs = [] ∧
        natOfBytes (bytesAt t.mem a 8) = (released e (BitVec.ofNat 64 (natOfBytes (bytesAt s.mem a 8)))).toNat ∧
        ∀ b, (b < a ∨ a + 8 ≤ b) → byteAt t.mem b = byteAt s.mem b) ∧
      (ms ≠ [] → ∃ t o, exec (.rel f) s = .next t ∧ SameMem s t ∧ t.syncs = [(s.nextId, o)] ∧ o.markers = ms ∧
        o.kind = kind ∧ o.flushed = true))))

/-- Acquires and releases (12 R255, R256; 13 R291 to R294). Where the spec leaves it open the model chooses: the
stamps of acquires (log entry 38), when write-backs take effect (log entry 49). -/
def Obligations.AcquireAndRelease : Prop := Rules.Acquires ∧ Rules.Releases

/-- A marker that arrives (12 R259) for an operation whose write-backs have left: while another is missing it is only gathered;
the last one performs the release, ends the fence or the wait of the group, or lets the completion of the grid go on. -/
def Rules.MarkerArrives : Prop :=
  ∀ s id (o : SyncOp) die path, s.syncs = [(id, o)] → o.id = id → o.markers.contains (die, path) = true →
    o.flushed = true → s.copies = [] → s.contribs = [] →
    Unheld s o.team o.gid o.upto o.id →
    ((∃ m ∈ o.markers, m ≠ (die, path)) → ∃ t, exec (.flushMarkerArrival id die path) s = .next t ∧ t.mem = s.mem ∧
      t.syncs = [(id, { o with markers := o.markers.filter (fun m => m != (die, path)) })]) ∧
    ((∀ m ∈ o.markers, m = (die, path)) →
      (∀ a op v, o.kind = .rel a op v → s.badSec? a 8 = none →
        ∃ t, exec (.flushMarkerArrival id die path) s = .next t ∧ t.syncs = [] ∧
          natOfBytes (bytesAt t.mem a 8) = (relNew op (BitVec.ofNat 64 (natOfBytes (bytesAt s.mem a 8))) v).toNat ∧
          ∀ b, (b < a ∨ a + 8 ≤ b) → byteAt t.mem b = byteAt s.mem b) ∧
      (∀ g, (o.kind = .fence ∨ o.kind = .gather) → s.group? o.team o.gid = some g → g.team = o.team → g.gid = o.gid →
        g.fencing = id →
        ∃ t g', exec (.flushMarkerArrival id die path) s = .next t ∧ t.syncs = [] ∧ t.mem = s.mem ∧
          t.group? o.team o.gid = some g' ∧ g'.fencing = 0 ∧ SameRegs g g' ∧
          g'.fenceRdc = (if o.kind = .fence ∧ 6 ≤ o.scope then s.now else g.fenceRdc)) ∧
      (∀ n gr, o.kind = .grid n → s.grid? n = some gr → gr.id = n →
        ∃ t, exec (.flushMarkerArrival id die path) s = .next t ∧ t.syncs = [] ∧ t.mem = s.mem ∧
          t.grid? n = some { gr with gathered := true }))

/-- Fences and `ordflush` (12 R258; 13 R290, R295): the group goes on at once, and no register changes. With nothing to wait for,
later loads take no copy older than the fence below its meeting level, and later accesses do not wait; while an earlier load has
not read, the fence is under way and later accesses wait for it. An `ordflush` sums a contribution in range into its target; one
out of range stays. -/
def Rules.FencesAndFlushes : Prop :=
  (∀ f s e, Issues (.fence f) s e false → e.f.scope ≠ 3 → e.f.mod.toNat < 8 → e.f.qual = 0 → e.any = true →
    e.g.fencing = 0 → PageFaults e s (.fence f) ∧ (HostSettled e →
    (∃ t g', exec (.fence f) s = .next t ∧ t.group? e.g.team e.g.gid = some g' ∧ SameRegs e.g g') ∧
    (Quiet e s → ∃ t g', exec (.fence f) s = .next t ∧ t.group? e.g.team e.g.gid = some g' ∧
      SameMem s t ∧ t.syncs = [] ∧ g'.fencing = 0 ∧ g'.fenceL1 = (if meetsL1 e then s.now else e.g.fenceL1) ∧
      g'.fenceRdc = (if meetsRdc e then s.now else e.g.fenceRdc)) ∧
    (s.syncs = [] → e.g.earlierWaits e.g.nextIseq = true →
      ∃ t g' o, exec (.fence f) s = .next t ∧ t.group? e.g.team e.g.gid = some g' ∧ SameMem s t ∧
        t.syncs = [(s.nextId, o)] ∧ o.kind = .fence ∧ g'.fencing = s.nextId))) ∧
  (∀ f s e, Issues (.ordflush f) s e false → SyncScope e → e.f.mod.toNat < 8 → e.f.qual = 0 → PairReady e e.f.a →
    e.f.b = .zero → e.any = true → Usable s e (e.cap e.f.a 0) 0 [pST] → e.g.fencing = 0 →
    (∃ t, exec (.ordflush f) s = .next t) ∧
    (Settled e s → s.copies = [] → s.sent = [] → s.syncs = [] →
      ∀ c, s.contribs = [c] → c.grid = e.gr.id → c.entry = none → s.badSec? c.target 4 = none → s.coAt c.target 4 = false →
        ∃ t g', exec (.ordflush f) s = .next t ∧ t.group? e.g.team e.g.gid = some g' ∧ SameRegs e.g g' ∧
        ((e.cap e.f.a 0).inBounds c.target 4 = true → t.contribs = [] ∧
          BitVec.ofNat 32 (natOfBytes (bytesAt t.mem c.target 4)) =
            (faddRne (BitVec.ofNat 32 (natOfBytes (bytesAt s.mem c.target 4))) c.value).1 ∧
          ∀ b, (b < c.target ∨ c.target + 4 ≤ b) → byteAt t.mem b = byteAt s.mem b) ∧
        ((e.cap e.f.a 0).inBounds c.target 4 = false → t.contribs = [c] ∧ t.mem = s.mem)))

/-- Fences, flushes of ordered adds, and the arrival of flush markers (12 R258, R259; 13 R289, R295). Where the spec
leaves it open the model chooses: accesses behind a fence (log entry 46), when write-backs take effect (log entry 49).
-/
def Obligations.FencesAndMarkers : Prop := Rules.MarkerArrives ∧ Rules.FencesAndFlushes

/-- Pinned ranges of L2 (13 R296): `l2pin` pins the lines that meet the capability's bounds, when they are device memory, each
unless its die has no room for a line more; `l2unpin` leaves exactly the pinned addresses outside them. Neither changes a register
or memory. -/
def Rules.PinnedRanges : Prop :=
  (∀ f s e, Issues (.l2pin f) s e false → Bare e → PairReady e e.f.a → e.f.b = .zero → e.any = true →
    Usable s e (e.cap e.f.a 0) 0 [pLD] →
    let lo := (e.cap e.f.a 0).bounds.1.toNat / 128 * 128
    let hi := ((e.cap e.f.a 0).bounds.2.toNat + 127) / 128 * 128
    exec (.l2pin f) s = .next (e.done (if lo < hi ∧ isDev lo = true then s.pinRange lo hi e.ctx.colour else s))) ∧
  (∀ (s : State) (lo hi col : Nat),
    let t := s.pinRange lo hi col
    let line (i : Nat) : Nat × Nat × Nat := (lo + 128 * i, lo + 128 * i + 128, col)
    { t with pins := s.pins } = s ∧ (∀ p ∈ s.pins, p ∈ t.pins) ∧
      (∀ p ∈ t.pins, p ∈ s.pins ∨ ∃ i, i < (hi - lo) / 128 ∧ p = line i) ∧
      (∀ i, i < (hi - lo) / 128 → line i ∈ t.pins ∨ 196608 ≤ State.pinnedOn s t.pins (s.homeDie (lo + 128 * i))) ∧
      (∀ die, State.pinnedOn s s.pins die ≤ 196608 → State.pinnedOn s t.pins die ≤ 196608)) ∧
  (∀ f s e, Issues (.l2unpin f) s e false → Bare e → PairReady e e.f.a → e.f.b = .zero → e.any = true →
    Usable s e (e.cap e.f.a 0) 0 [pLD] →
    ∃ ps, exec (.l2unpin f) s = .next (e.done { s with pins := ps }) ∧
      ∀ x c, (∃ p ∈ ps, p.1 ≤ x ∧ x < p.2.1 ∧ p.2.2 = c) ↔
        ((∃ p ∈ s.pins, p.1 ≤ x ∧ x < p.2.1 ∧ p.2.2 = c) ∧
          ¬((e.cap e.f.a 0).bounds.1.toNat / 128 * 128 ≤ x ∧ x < ((e.cap e.f.a 0).bounds.2.toNat + 127) / 128 * 128)))

/-- `prefetch` and `tclr` (13 R297, 12 R262): a prefetch raises no fault whatever its capabilities are and changes no register,
and no memory where no copy is dirty; `tclr` keeps of a register's taints those that its mask names, and changes nothing else. -/
def Rules.PrefetchAndTaint : Prop :=
  (∀ f s e, Issues (.prefetch f) s e false → e.f.mod = 0 → e.f.qualOk false = true → e.capSrcOk e.f.a = true →
    e.capPend e.f.a = false → e.pendSrc e.f.b = false →
    ∃ t g', exec (.prefetch f) s = .next t ∧ t.group? e.g.team e.g.gid = some g' ∧ SameRegs e.g g' ∧
      ((∀ k ∈ s.copies, k.isDirty = false) → t.mem = s.mem ∧ t.hostMem = s.hostMem ∧ t.side = s.side)) ∧
  (∀ f s e, Issues (.tclr f) s e false → e.f.mod = 0 → e.pendDst e.f.dst = false → e.any = true →
    (∀ n : Fin 384, e.f.dst = .v n → exec (.tclr f) s = .next (e.done (s.setGroup
      (e.g.setVsd n.val { e.g.vsd n.val with taint := (e.g.vsd n.val).taint &&& e.f.qual })))) ∧
    (∀ n : Fin 64, e.f.dst = .s n → exec (.tclr f) s = .next (e.done (s.setGroup
      (e.g.setSsd n.val { e.g.ssd n.val with taint := (e.g.ssd n.val).taint &&& e.f.qual })))))

/-- Pinned ranges, prefetches and `tclr` (12 R261; 13 R296 to R298). Where the spec leaves it open the model chooses:
the pins beyond the budget (log entry 50). -/
def Obligations.LinesAndTaint : Prop := Rules.PinnedRanges ∧ Rules.PrefetchAndTaint

/-- `qwait` (13 R274, R275): with every covered load delivered, its registers are no longer pending, the queues' stamps are
the instant, and the loads are forgotten; with an element that waits, the group waits; with an element that failed, its fault
is raised with the address of the load. -/
def Obligations.QueueWait : Prop :=
  ∀ f s e, Issues (.qwait f) s e false → e.f.mod.toNat < 2 → (if e.f.mod = 1 then e.f.qual = 0 else e.f.qual.toNat < 8) →
    e.any = true →
    let cov (ld : Load) : Bool := e.f.mod == 1 || ld.queue.val == e.f.qual.toNat
    let covq (q : Nat) : Bool := e.f.mod == 1 || q == e.f.qual.toNat
    ((∀ ld ∈ e.g.loads, cov ld = true → ∀ x ∈ ld.elems, x.status = .delivered ∨ x.status = .dropped) →
      ∃ t g', exec (.qwait f) s = .next t ∧ t.group? e.g.team e.g.gid = some g' ∧ SameMem s t ∧
        g'.loads = e.g.loads.filter (fun ld => !cov ld) ∧ g'.v = e.g.v ∧ g'.s = e.g.s ∧ g'.p = e.g.p ∧ g'.c = e.g.c ∧
        (∀ n, (g'.vsd n).pend = ((e.g.vsd n).pend && !covq (e.g.vsd n).pq.val)) ∧
        (∀ n, (g'.ssd n).pend = ((e.g.ssd n).pend && !covq (e.g.ssd n).pq.val)) ∧
        (∀ q, q < 8 → covq q = true → mget 0 g'.qstamp q = s.now)) ∧
    ((∃ ld ∈ e.g.loads, cov ld = true ∧ ∃ x ∈ ld.elems, x.status = .waiting) →
      Waits e s (.qwait f) (.qwait (if e.f.mod = 1 then 0xFF else 1#8 <<< e.f.qual.toNat))) ∧
    (∀ ld x c a, e.g.loads = [ld] → ld.elems = [x] → cov ld = true → x.status = .failed c a → c ≠ cHPAGE →
      ∃ g1 : Group, SameRegs e.g g1 ∧ exec (.qwait f) s = .next (takeFault (s.setGroup g1) g1 e.t e.gr e.ctx (e.frameWord false)
        { code := c, fthread := some x.thread, faddr := a, lpc := ld.pc.toNat }))

namespace Sys2Proof.Machine

open Sys2Proof

/-! ### Capabilities -/

/-- DST holds the capabilities `k` of the threads `ws` with their tags: a quad per thread, or a pair (03 R56, 17 R378). -/
def HoldsCap (e : Env) (g' : Group) (ws : List Nat) (k : Nat → TCap) : Prop :=
  match e.f.dst with
  | .v n => ∀ i ∈ ws, g'.capQuad n.val i = k i
  | .s n => ∀ i, ws.head? = some i → g'.capPair n.val = k i
  | _ => False

/-- The v quad, or the s pair, of a destination. -/
def dstQuad : Dst → Option Nat
  | .v n => some (n.val / 4)
  | _ => none
/-- The s pair of a destination. -/
def dstPair : Dst → Option Nat
  | .s n => some (n.val / 2)
  | _ => none

/-- Every register outside the quad of the threads `ws`, or the pair, is as it was. -/
structure KeepsCap (e : Env) (ws : List Nat) (g' : Group) : Prop where
  v : ∀ n i, i < 64 → ¬(dstQuad e.f.dst = some (n / 4) ∧ i ∈ ws) → g'.vget n i = e.g.vget n i
  vtag : ∀ q i, i < 64 → ¬(dstQuad e.f.dst = some q ∧ i ∈ ws) → mget false g'.vtag (64 * q + i) = mget false e.g.vtag (64 * q + i)
  s : ∀ n, ¬(dstPair e.f.dst = some (n / 2) ∧ ws ≠ []) → g'.sget n = e.g.sget n
  stag : ∀ m, ¬(dstPair e.f.dst = some m ∧ ws ≠ []) → mget false g'.stag m = mget false e.g.stag m
  p : g'.p = e.g.p
  c : g'.c = e.g.c
  mode : g'.mode = e.g.mode
  sat : g'.sat = e.g.sat
  psize : g'.psize = e.g.psize
  kcode : g'.kcode = e.g.kcode
  frame : g'.frame = e.g.frame

/-- The instruction wrote the capabilities `k` of the threads `ws` to DST and changed nothing else. -/
def WroteCap (e : Env) (s t : State) (ws : List Nat) (k : Nat → TCap) : Prop :=
  SameWorld e s t ∧ ∃ g', t.group? e.g.team e.g.gid = some g' ∧ HoldsCap e g' ws k ∧ KeepsCap e ws g'

/-- A capability source that may be read (03 R56). -/
def CapArg (e : Env) (x : Src) : Prop := e.capSrcOk x = true ∧ e.capPend x = false

/-- A capability instruction (17 R377, R378): its operands fit, and no taking-part thread fails a check. -/
def CapResult (mk : Fields → Instr) (ok : Env → Prop) (us : Env → List Src) (good : State → Env → Nat → Prop)
    (k : State → Env → Nat → TCap) : Prop :=
  ∀ f s e, Issues (mk f) s e false → ok e → e.f.qual = 0 → e.capDstOk e.f.dst = true → e.dstOk false (us e) = true →
    e.shapePendDst e.f.dst 4 2 = false → (∀ i ∈ e.parts, good s e i) →
    ∃ t, exec (mk f) s = .next t ∧ WroteCap e s t e.parts (k s e)

/-- A capability A and an int B. -/
def CapInt (e : Env) : Prop := CapArg e e.f.a ∧ e.pendSrc e.f.b = false

/-- A tagged A is unsealed and of a kind that has bounds (17 R379). -/
def Derivable (k : TCap) : Prop := k.tag = true → k.otype = 0 ∧ k.kind ≠ 2 ∧ k.kind ≠ 5

/-- A moved to the cursor n (17 R379): ADDR is n modulo 2^56; the tag stays while n is an address in the representable
region. -/
def AtCursor (k : TCap) (n : Int) : TCap :=
  (k.withAddr (n % ((2 ^ 56 : Nat) : Int)).toNat).withTag
    (k.tag && decide (0 ≤ n) && decide (n < ((2 ^ 56 : Nat) : Int)) && k.representable n)

/-- B unseals or seals A (17 R381): tagged, unsealed, kind 0, of a permitted colour, with its permission, its cursor within
bounds and a software type. -/
structure Sealer (e : Env) (b : TCap) (perm : Nat) : Prop where
  tag : b.tag = true
  otype : b.otype = 0
  kind : b.kind = 0
  colour : e.ctx.permits b.col = true
  perm : b.has perm = true
  bounds : b.inBounds b.addr 1 = true
  type : 1 ≤ b.addr ∧ b.addr ≤ 61

/-- A label instruction (18 R396): values, and the side state of DST. -/
def LabelWrote (e : Env) (s t : State) (w : Nat → DWord) (wide : Bool) (tn : Taint) (l : Label) : Prop :=
  Wrote e s t e.parts w wide 0 ∧ ∃ g', t.group? e.g.team e.g.gid = some g' ∧ SideOf e g' tn l

/-- A result instruction under no trapping flag leaves DST with the side state of its sources. -/
def SideResult (mk : Fields → Instr) (ok : Env → Prop) : Prop :=
  ∀ f s e, Issues (mk f) s e true → ok e → Fits e e.srcs → e.g.fpten = 0 →
    ∃ t g', exec (mk f) s = .next t ∧ t.group? e.g.team e.g.gid = some g' ∧ SideOf e g' (e.taints e.srcs) (e.lbls e.srcs)

/-- The same for a cross-thread instruction, whose c destination may take a group-wide result. -/
def SideCross (mk : Fields → Instr) (ok : Env → Prop) (grp : Bool) : Prop :=
  ∀ f s e, Issues (mk f) s e true → ok e → e.f.qual = 0 → e.dstOk grp e.srcs = true → e.early e.srcs = false →
    ∃ t g', exec (mk f) s = .next t ∧ t.group? e.g.team e.g.gid = some g' ∧ SideOf e g' (e.taints e.srcs) (e.lbls e.srcs)

/-- The same for a capability instruction: every register of the quad or pair takes it. -/
def SideCap (mk : Fields → Instr) (ok : Env → Prop) (us : Env → List Src) (good : Env → Prop) (tn : Env → Taint) (l : Env → Label) :
    Prop :=
  ∀ f s e, Issues (mk f) s e false → ok e → e.f.qual = 0 → e.capDstOk e.f.dst = true → e.dstOk false (us e) = true →
    e.shapePendDst e.f.dst 4 2 = false → good e → e.parts ≠ [] →
    ∃ t g', exec (mk f) s = .next t ∧ t.group? e.g.team e.g.gid = some g' ∧
      (∀ n j, e.f.dst = .v n → j < 4 → SideV e g' (n.val + j) (tn e) (l e)) ∧
      (∀ n j, e.f.dst = .s n → j < 2 → (g'.ssd (n.val + j)).taint = tn e ∧ (g'.ssd (n.val + j)).lbl = l e)

end Sys2Proof.Machine

/-- Moves, roots, bounds, cursors and permissions of capabilities (17 R376, R379, R380) complete: `kmov` in its four
forms, `kbound`, `kaddr`, `kadd`, `kperm`. Where the spec leaves it open the model chooses: which authority operands
pass (log entry 16). -/
def Obligations.CapabilityDerivation : Prop :=
  CapResult .kmov (fun e => e.f.mod = 0 ∧ CapArg e e.f.a ∧ e.f.b = .zero) (fun e => [e.f.a]) (fun _ _ _ => True)
    (fun _ e => e.cap e.f.a) ∧
  CapResult .kmov (fun e => e.f.mod = 1 ∧ e.f.a = .zero ∧ e.f.b = .zero) (fun _ => []) (fun _ _ _ => True)
    (fun s e _ => e.winCap s) ∧
  CapResult .kmov (fun e => e.f.mod = 2 ∧ e.f.a = .zero ∧ e.f.b = .zero) (fun _ => []) (fun _ _ _ => True)
    (fun s e _ => e.tarnCap s) ∧
  CapResult .kmov (fun e => e.f.mod = 3 ∧ e.f.a = .zero ∧ e.f.b = .zero) (fun _ => []) (fun _ _ _ => True)
    (fun _ e _ => sealerCap e.ctx.colour) ∧
  CapResult .kbound (fun e => e.f.mod.toNat < 2 ∧ CapInt e) (fun e => [e.f.a, e.f.b])
    (fun _ e i => Derivable (e.cap e.f.a i) ∧
      ((e.cap e.f.a i).tag = true →
        (boundCap (e.cap e.f.a i) (e.capInt e.f.b false i).toNat (e.f.mod == 1)).2 = false))
    (fun _ e i => (boundCap (e.cap e.f.a i) (e.capInt e.f.b false i).toNat (e.f.mod == 1)).1) ∧
  CapResult .kaddr (fun e => e.f.mod = 0 ∧ CapInt e) (fun e => [e.f.a, e.f.b]) (fun _ e i => Derivable (e.cap e.f.a i))
    (fun _ e i => AtCursor (e.cap e.f.a i) ((e.cap e.f.a i).bounds.1 + e.capInt e.f.b false i)) ∧
  CapResult .kadd (fun e => e.f.mod = 0 ∧ CapInt e) (fun e => [e.f.a, e.f.b]) (fun _ e i => Derivable (e.cap e.f.a i))
    (fun _ e i => AtCursor (e.cap e.f.a i) ((e.cap e.f.a i).addr + e.capInt e.f.b true i)) ∧
  CapResult .kperm (fun e => e.f.mod = 0 ∧ CapInt e) (fun e => [e.f.a, e.f.b])
    (fun _ e i => (e.capInt e.f.b false i).toNat < 2 ^ 12 ∧ ((e.cap e.f.a i).tag = true → (e.cap e.f.a i).otype = 0))
    (fun _ e i => (e.cap e.f.a i).withPerm ((e.cap e.f.a i).perm &&& BitVec.ofNat 12 (e.capInt e.f.b false i).toNat)) ∧
  CapResult .kperm (fun e => e.f.mod = 1 ∧ CapInt e) (fun e => [e.f.a, e.f.b])
    (fun _ e i => (e.capInt e.f.b false i).toNat < 2 ^ 14 ∧ ((e.cap e.f.a i).tag = true → (e.cap e.f.a i).otype = 0))
    (fun _ e i => ((e.cap e.f.a i).withPerm ((e.cap e.f.a i).perm &&& BitVec.ofNat 12 (e.capInt e.f.b false i).toNat)).withLbl
      (BitVec.ofNat 2 (min (e.cap e.f.a i).lbl.toNat ((e.capInt e.f.b false i).toNat / 2 ^ 12))))

/-- Derivation never adds (17 R366, R367, R379, R380): the bounds that `kbound` gives enclose [ADDR, ADDR + len), exactly when
len is at most 8,192; a `kbound` that is not refused stays within A's bounds; a moved cursor leaves a tagged result's bounds
as they were; `kperm` only clears permissions. -/
def Obligations.DerivationNeverAdds : Prop :=
  (∀ (k : TCap) len ex, (boundCap k len ex).2 = false →
    (boundCap k len ex).1.bounds.1 ≤ (k.addr : Int) ∧ ((k.addr + len : Nat) : Int) ≤ (boundCap k len ex).1.bounds.2 ∧
    k.bounds.1 ≤ (boundCap k len ex).1.bounds.1 ∧ (boundCap k len ex).1.bounds.2 ≤ k.bounds.2) ∧
  (∀ (k : TCap) len ex, len ≤ 8192 → k.addr + len ≤ 2 ^ 56 →
    (boundCap k len ex).1.bounds = ((k.addr : Int), ((k.addr + len : Nat) : Int))) ∧
  (∀ (k : TCap) n, (AtCursor k n).tag = true → (AtCursor k n).bounds = k.bounds ∧ (AtCursor k n).addr = n) ∧
  (∀ (k : TCap) (m : BitVec 12) p, (k.withPerm (k.perm &&& m)).has p = true → k.has p = true)

/-- Seals (17 R381): `kseal` seals A with the type that B's cursor names, or as a sentry; `kunseal` unseals it with B. -/
def Rules.CapabilitySeals : Prop :=
  CapResult .kseal (fun e => e.f.mod = 0 ∧ CapArg e e.f.a ∧ CapArg e e.f.b) (fun e => [e.f.a, e.f.b])
    (fun _ e i => (e.cap e.f.a i).tag = true ∧ (e.cap e.f.a i).otype = 0 ∧ Sealer e (e.cap e.f.b i) pSEAL)
    (fun _ e i => (e.cap e.f.a i).withOtype (e.cap e.f.b i).addr) ∧
  CapResult .kseal (fun e => e.f.mod = 1 ∧ CapArg e e.f.a ∧ e.f.b = .zero) (fun e => [e.f.a])
    (fun _ e i => (e.cap e.f.a i).tag = true ∧ (e.cap e.f.a i).otype = 0 ∧ (e.cap e.f.a i).kind = 1 ∧
      (e.cap e.f.a i).has pEXEC = true)
    (fun _ e i => (e.cap e.f.a i).withOtype 63) ∧
  CapResult .kunseal (fun e => e.f.mod = 0 ∧ CapArg e e.f.a ∧ CapArg e e.f.b) (fun e => [e.f.a, e.f.b])
    (fun _ e i => (e.cap e.f.a i).tag = true ∧ 1 ≤ (e.cap e.f.a i).otype ∧ (e.cap e.f.a i).otype ≤ 61 ∧
      (e.cap e.f.b i).addr = (e.cap e.f.a i).otype ∧ Sealer e (e.cap e.f.b i) pUNSEAL)
    (fun _ e i => (e.cap e.f.a i).withOtype 0)

/-- Delegation (17 R384 to R386): `kdeleg` puts a capability with fewer permissions, and for a capability with bounds shorter
ones, into the lowest free slot of the grant table and writes its token, or an untagged zero when no slot is free;
`kunseal.grant` gives the recipient the capability of a live token, untagged once it is revoked. -/
def Rules.Delegation : Prop :=
  (∀ f s e r, Issues (.kdeleg f) s e false → Bare e → PairReady e e.f.a → (∃ n : Fin 64, e.f.dst = .s n ∧ n.val % 2 = 0) →
    e.uniform e.f.b = true → e.uniform e.f.c = true → e.uniform e.f.d = true → e.pendSrc e.f.b = false →
    e.pendSrc e.f.c = false → e.pendSrc e.f.d = false → e.shapePendDst e.f.dst 4 2 = false → e.any = true →
    let k := e.cap e.f.a 0
    let m := (e.capInt e.f.c false e.first).toNat
    let len := (e.capInt e.f.d false e.first).toNat
    let ranged := k.kind = 0 ∨ k.kind = 1 ∨ k.kind = 3
    e.recipient s (e.capInt e.f.b false e.first).toNat = some r → m < 4096 → k.tag = true → k.otype = 0 → k.kind ≤ 4 →
    e.ctx.permits k.col = true → k.has pDELEG = true → k.has pGLOBAL = true →
    (∀ col, r = .context col → ∃ c, s.ctx? col = some c ∧ c.shared.contains k.col = true) →
    (ranged → (boundCap k len false).2 = false) → (¬ranged → len = 0) →
    let d0 := if k.kind == 0 || k.kind == 1 || k.kind == 3 then (boundCap k len false).1 else k
    let d := d0.withPerm (d0.perm &&& BitVec.ofNat 12 m)
    (e.ctx.freeGrant = none → ∃ t, exec (.kdeleg f) s = .next t ∧ WroteCap e s t e.parts (fun _ => TCap.null)) ∧
    (∀ slot, e.ctx.freeGrant = some slot →
      let gen := (mget GrantSlot.free e.ctx.grants slot).gen
      let own := match s.devgroup with | some dg => dg.own | none => 0
      ∃ t g' c', exec (.kdeleg f) s = .next t ∧ t.group? e.g.team e.g.gid = some g' ∧
        HoldsCap e g' e.parts (fun _ => grantToken d e.ctx.colour slot gen r own) ∧ KeepsCap e e.parts g' ∧
        t.ctx? e.ctx.colour = some c' ∧ c' = { e.ctx with grants := mput e.ctx.grants slot ⟨gen, some (d, r, e.gr.id)⟩ })) ∧
  CapResult .kunsealGrant (fun e => e.f.mod = 1 ∧ CapArg e e.f.a ∧ e.f.b = .zero) (fun e => [e.f.a])
    (fun s e i => (e.cap e.f.a i).tag = true ∧ (e.cap e.f.a i).otype = 62 ∧ (e.cap e.f.a i).kind ≤ 4 ∧
      e.ctx.permits (e.cap e.f.a i).col = true ∧ (s.tokenEntry (e.cap e.f.a i)).any e.isRecipient = true)
    (fun s e i =>
      let d := ((s.tokenEntry (e.cap e.f.a i)).map (·.1)).getD TCap.null
      d.withTag (d.tag && !s.isRevoked d))

/-- Sealing, unsealing and delegation (17 R381, R384 to R386). Where the spec leaves it open the model chooses: the
colours a recipient may hold (log entry 17), which authority operands pass (log entry 16). -/
def Obligations.SealsAndDelegation : Prop := Rules.CapabilitySeals ∧ Rules.Delegation

/-- Reading and comparing (17 R382, R383): `kget` writes a field of A, `ktest` whether A contains B or equals it. -/
def Rules.CapabilityTests : Prop :=
  (∀ f s e, Issues (.kget f) s e true → e.f.mod.toNat % 16 < 12 → e.f.mod.toNat < 32 → e.f.qual = 0 → CapArg e e.f.a →
    e.f.b = .zero → (dstC e.f.dst).isSome = false → e.dstOk false [e.f.a] = true → e.pendDst e.f.dst = false →
    ∃ t, exec (.kget f) s = .next t ∧ Wrote e s t e.parts (fun i =>
      let w := s.capField (e.cap e.f.a i) (e.f.mod.toNat % 16)
      if e.f.mod.getLsbD 4 = true ∧ (dstS e.f.dst).isSome = false then (w.extractLsb' 32 32).setWidth 64 else w) true 0) ∧
  (∀ f s e, Issues (.ktest f) s e true → e.f.mod.toNat < 2 → e.f.qual = 0 → CapArg e e.f.a → CapArg e e.f.b →
    e.dstOk false [e.f.a, e.f.b] = true → e.pendDst e.f.dst = false →
    ∃ t, exec (.ktest f) s = .next t ∧ Wrote e s t e.parts (fun i =>
      if (if e.f.mod = 1 then e.cap e.f.a i == e.cap e.f.b i else capSub (e.cap e.f.a i) (e.cap e.f.b i)) then 1 else 0)
      false 0)

/-- Revocation (17 R388, R389): `krevoke` of a memory capability in a pair marks exactly the 64-byte granules that its bounds
meet, of a grant token withdraws its entry, and changes no register and no memory. -/
def Rules.Revocation : Prop :=
  ∀ f s e, Issues (.krevoke f) s e false → Bare e → PairReady e e.f.a → e.f.b = .zero → e.any = true →
    let k := e.cap e.f.a 0
    k.tag = true → k.col = e.ctx.colour →
    (k.otype = 0 → (k.kind = 0 ∨ k.kind = 1 ∨ k.kind = 4) → k.bounds.1 % 64 = 0 → k.bounds.2 % 64 = 0 → 0 ≤ k.bounds.1 →
      k.bounds.2 ≤ (s.reservedBase : Int) →
      ∃ t g', exec (.krevoke f) s = .next t ∧ t.group? e.g.team e.g.gid = some g' ∧ SameRegs e.g g' ∧ SameMem s t ∧
        ∀ n, mget false t.revoked n =
          (mget false s.revoked n || (decide (k.bounds.1 ≤ 64 * (n : Int)) && decide (64 * (n : Int) < k.bounds.2)))) ∧
    (k.otype = 62 → (s.tokenEntry k).isSome = true →
      ∃ t g' c', exec (.krevoke f) s = .next t ∧ t.group? e.g.team e.g.gid = some g' ∧ SameRegs e.g g' ∧ SameMem s t ∧
        t.revoked = s.revoked ∧ t.ctx? k.col = some c' ∧
        mget GrantSlot.free c'.grants (k.addr % 4096) =
          ⟨nextGen (mget GrantSlot.free e.ctx.grants (k.addr % 4096)).gen, none⟩)

/-- Reading, testing and revoking capabilities (17 R382, R383, R389). Where the spec leaves it open the model chooses:
the checks of a token (log entry 15). -/
def Obligations.TestsAndRevocation : Prop := Rules.CapabilityTests ∧ Rules.Revocation

/-- Labels (18 R397 to R399): `lblup` raises, `lbldn` lowers the label of a value; `lblget` reads the label of a register, the
side-band byte of a sector and the state of a tile register. -/
def Rules.Labels : Prop :=
  (∀ f s e, Issues (.lblup f) s e true → Bare e → (dstC e.f.dst).isSome = false →
    (e.f.dst = .none → e.f.lat ≠ 0) → uniformArg e.f.b = true → e.dstOk false [e.f.a] = true → e.pendSrc e.f.a = false →
    e.pendSrc e.f.b = false → e.pendDst e.f.dst = false → (e.read32 e.f.b e.first).toNat ≤ 3 →
    ∃ t, exec (.lblup f) s = .next t ∧ LabelWrote e s t (e.read e.f.a) (e.f.a.isS && e.f.dst.isS) (e.taints [e.f.a, e.f.b])
      (Label.max (Label.max (e.lblOf e.f.a) (BitVec.ofNat 2 (e.read32 e.f.b e.first).toNat)) (e.lblOf e.f.b))) ∧
  (∀ f s e, Issues (.lbldn f) s e false → Bare e → PairReady e e.f.b → uniformArg e.f.c = true →
    ((∃ n m, e.f.dst = .v n ∧ e.f.a = .v m) ∨ (∃ n m, e.f.dst = .v n ∧ e.f.a = .s m) ∨
      (∃ n m, e.f.dst = .s n ∧ e.f.a = .s m)) →
    e.pendSrc e.f.a = false → e.pendSrc e.f.c = false → e.pendDst e.f.dst = false → e.any = true →
    (e.read32 e.f.c e.first).toNat ≤ 3 → (e.cap e.f.b 0).tag = true → (e.cap e.f.b 0).otype = 0 → (e.cap e.f.b 0).kind = 0 →
    e.ctx.permits (e.cap e.f.b 0).col = true → (e.cap e.f.b 0).has pDECLASS = true →
    (e.lblOf e.f.a).toNat ≤ (e.cap e.f.b 0).lbl.toNat →
    ∃ t, exec (.lbldn f) s = .next t ∧ LabelWrote e s t (e.read e.f.a) (e.f.a.isS && e.f.dst.isS) (e.taints [e.f.a, e.f.c])
      (Label.max (BitVec.ofNat 2 (min (e.lblOf e.f.a).toNat (e.read32 e.f.c e.first).toNat)) (e.lblOf e.f.c))) ∧
  (∀ f s e, Issues (.lblget f) s e true → e.f.mod = 0 → e.f.qual = 0 → e.f.b = .zero → (dstC e.f.dst).isSome = false →
    e.dstOk false [e.f.a] = true → e.pendSrc e.f.a = false → e.pendDst e.f.dst = false →
    ∃ t, exec (.lblget f) s = .next t ∧ LabelWrote e s t (fun _ => BitVec.ofNat 64 (e.lblOf e.f.a).toNat) true 0 0) ∧
  (∀ f s e, Issues (.lblget f) s e false → e.f.mod = 1 → e.f.qual = 0 → e.f.b = .zero → (dstC e.f.dst).isSome = false →
    CapArg e e.f.a → e.dstOk false [e.f.a] = true → e.pendDst e.f.dst = false →
    (∀ i ∈ e.actors e.f.a.isS, Usable s e (e.cap e.f.a i) 0 [pLD] ∧ isDev (e.cap e.f.a i).addr = true ∧
      (e.cap e.f.a i).inBounds (e.cap e.f.a i).addr 1 = true ∧ s.badSec? (e.cap e.f.a i).addr 1 = none) →
    ∃ t, exec (.lblget f) s = .next t ∧ LabelWrote e s t
      (fun i => BitVec.ofNat 64 ((s.sideAt ((e.cap e.f.a i).addr / 32)).toNat % 32)) true (e.capTaint e.f.a) (e.capLbl e.f.a)) ∧
  (∀ f s e, Issues (.lblget f) s e true → e.f.mod = 2 → e.f.qual.toNat < 8 → e.f.qual.toNat < e.gr.tiles → e.f.a = .zero →
    e.f.b = .zero → (dstC e.f.dst).isSome = false → e.pendDst e.f.dst = false →
    let x := mget Tile.zero e.coreRes.tiles e.f.qual.toNat
    ∃ t, exec (.lblget f) s = .next t ∧ LabelWrote e s t
      (fun _ => BitVec.ofNat 64 (x.lbl.toNat + (if x.co then 4 else 0) + x.keycol % 4096 * 65536)) true 0 0)

/-- Results carry the side state of what they were computed from (03 R57, 04 R78): DST of an integer, floating-point, conversion or
cross-thread instruction takes the union of its sources' taints and the largest of their labels, of a capability instruction
those of the whole capabilities and integers it reads, in every register of the quad or pair; where a non-exited thread does not take
part, the old ones join. -/
def Rules.ResultSideState : Prop :=
  (∀ (mk : Fields → Instr), mk ∈ [Instr.add, .subb, .mul, .mad, .negg, .mulh, .madh, .minn, .maxx, .med3, .idiv, .irem, .andd, .orr,
    .xor, .andn, .orn, .nott, .shl, .shr, .sar, .rol, .ror, .popc, .clz, .ctz, .brev, .bfe, .sel, .mov, .sext, .zext, .li] →
    SideResult mk TyOnly) ∧
  SideResult .abss TySigned ∧
  (∀ (mk : Fields → Instr), mk ∈ [Instr.mul24, .mad24, .bperm] → SideResult mk Ty32) ∧
  (∀ (mk : Fields → Instr), mk ∈ [Instr.addc, .subc] → SideResult mk TyCarry) ∧
  SideResult .cmp (fun e => e.f.qual.toNat < 6 ∧ e.f.mod.toNat < 4 ∧ WideOk e) ∧
  (∀ (mk : Fields → Instr), mk ∈ [Instr.fadd, .fsub, .fmul, .ffma, .fldexp, .rcp, .rsqrt, .sqrt] →
    SideResult mk (FloatForm true false 1)) ∧
  (∀ (mk : Fields → Instr), mk ∈ [Instr.fmin, .fmax, .fminn, .fmaxn, .fabs, .fneg, .fclass, .exp2, .log2, .sinpi, .cospi, .tanh] →
    SideResult mk (FloatForm false false 1)) ∧
  SideResult .frint (FloatForm true true 1) ∧ SideResult .fcpsgn (FloatForm false true 1) ∧
  SideResult .fcmp (FloatForm false false 8) ∧
  SideResult .rng (fun e => e.f.mod.toNat % 4 = 0 ∧ e.f.mod.toNat < 32 ∧ e.f.qual = 0 ∧ rngKeyOk e.f.a = true ∧
    dstVorNone e.f.dst = true) ∧
  SideResult .cvt (fun e => e.f.mod.toNat % 8 < 7 ∧ e.f.mod.toNat / 8 < 7 ∧ e.f.mod.toNat % 8 ≠ e.f.mod.toNat / 8 ∧ e.f.qual = 0) ∧
  SideResult .cvtf (fun e => e.f.mod.toNat < 2 ∧ e.f.qual.toNat < 8) ∧
  SideResult .unpack (fun e => e.f.mod.toNat < 8 ∧ e.f.qual = 0) ∧
  SideCross .vote (fun e => e.f.mod.toNat < 16 ∧ e.f.mod.toNat % 8 < 5 ∧ (e.f.mod.getLsbD 3 = true → e.f.mod.toNat % 8 = 2) ∧
    (dstIsC e → e.f.mod.toNat % 8 ∈ [0, 1, 3] ∨ e.isUniform = true)) true ∧
  SideCross .shfl (fun e => e.f.mod.toNat < 4) false ∧
  SideCross .red (fun e => combForm e 16) false ∧ SideCross .scan (fun e => combForm e 32) false ∧
  SideCap .kmov (fun e => e.f.mod = 0 ∧ CapArg e e.f.a ∧ e.f.b = .zero) (fun e => [e.f.a]) (fun _ => True) (fun e => e.capTaint e.f.a)
    (fun e => e.capLbl e.f.a) ∧
  (∀ (mk : Fields → Instr), mk ∈ [Instr.kaddr, .kadd] →
    SideCap mk (fun e => e.f.mod = 0 ∧ CapInt e) (fun e => [e.f.a, e.f.b]) (fun e => ∀ i ∈ e.parts, Derivable (e.cap e.f.a i))
      (fun e => e.capTaint e.f.a ||| e.taintOf e.f.b) (fun e => Label.max (e.capLbl e.f.a) (e.lblOf e.f.b))) ∧
  SideCap .kseal (fun e => e.f.mod = 0 ∧ CapArg e e.f.a ∧ CapArg e e.f.b) (fun e => [e.f.a, e.f.b])
    (fun e => ∀ i ∈ e.parts, (e.cap e.f.a i).tag = true ∧ (e.cap e.f.a i).otype = 0 ∧ Sealer e (e.cap e.f.b i) pSEAL)
    (fun e => e.capTaint e.f.a ||| e.capTaint e.f.b) (fun e => Label.max (e.capLbl e.f.a) (e.capLbl e.f.b))

/-- Labels, and the side state of results (03 R57; 18 R397 to R399). Where the spec leaves it open the model chooses:
`lblup` without a destination (log entry 18). -/
def Obligations.LabelsAndSideState : Prop := Rules.Labels ∧ Rules.ResultSideState

namespace Sys2Proof.Machine

open Sys2Proof

/-! ### The matrix array and the vocabulary stream -/

/-- The executing group issues for its team (02 R32). -/
def Issuer (e : Env) : Prop := e.gr.issuer = some e.g.gid

/-- QUAL[3:0] names an accumulator tile within the allocation; PAIR only in a pair. -/
def AccOk (e : Env) : Prop := e.f.accN < e.gr.accs ∧ (e.f.pairBit = true → e.gr.pair = true)

/-- MOD holds PAIR alone and QUAL the accumulator alone. -/
def AccOnly (e : Env) : Prop := e.f.mod &&& 0x2F = 0 ∧ e.f.qual.toNat < 16

/-- No tile of the operation belongs to a stream (10 R225). -/
def NoStream (e : Env) : Prop := accAny (e.t.opCores e.f.pairBit) e.f.accN (·.stream) = false

/-- The array takes an operation on the accumulators `ns` now (09 R195, R466): a thread takes part, no drain holds one of them,
fewer than two operations wait. -/
structure ArrayFree (e : Env) (s : State) (ns : List Nat) : Prop where
  any : e.any = true
  free : s.held e.t.id ns = false
  room : s.arrFull e.t.id = false

/-- A uniform operand, ready. -/
def UniformReady (e : Env) (x : Src) : Prop := uniformArg x = true ∧ e.pendSrc x = false

/-- The byte offset that SRCB names, in lines (09 R207). -/
def bOff (e : Env) : Nat := 128 * (e.sarg e.f.b).toNat

/-- An operation may access tarns now (12 R258, R265): no fence of the group is under way, and no access of the group through a tarn
window is still to be performed. -/
def TarnTurn (e : Env) (s : State) : Prop := e.g.fencing = 0 ∧ TarnFree s e

/-- The A slab and the B source of `mma` and `mscale` (09 R207, R208), without an uncorrectable error (09 R218). -/
structure SlabOk (e : Env) (s : State) (words chunk v : Nat) : Prop where
  qual : e.f.qual.getLsbD 7 = false
  acc : AccOk e
  a : vNum e.f.a = some v ∧ v + (words + e.gr.width - 1) / e.gr.width ≤ e.gr.vregs ∧
    e.g.vPend v ((words + e.gr.width - 1) / e.gr.width) = false
  b : UniformReady e e.f.b ∧ 0 ≤ e.sarg e.f.b
  tile : e.f.bsrc = false → e.f.tileN < e.gr.tiles ∧ bOff e + chunk ≤ 65536
  tarn : e.f.bsrc = true → e.f.tileN = 0 ∧ bOff e + chunk ≤ e.gr.tarn * 4096 ∧
    goneLines (e.t.opCores e.f.pairBit) (bOff e) chunk = [] ∧ TarnTurn e s
  sound : e.slabBad s v words = none ∧ (e.f.bsrc = true → s.tarnBad (e.t.opCores e.f.pairBit) (bOff e) chunk = none)

/-- The label of what an operation reads at its issue (09 R204). -/
def slabReadLbl (e : Env) (words chunk v : Nat) : Label :=
  Label.max (Label.max (e.slabLbl v ((words + e.gr.width - 1) / e.gr.width)) (e.lblOf e.f.b))
    (if e.f.bsrc then tarnLbl (e.t.opCores e.f.pairBit) (bOff e) chunk else 0)

/-- The B source. -/
def slabB (e : Env) (chunk : Nat) : BSource := bSource (e.t.opCores e.f.pairBit) e.f.bsrc e.f.tileN (bOff e) chunk

/-- What a receiver and a sender of a drain satisfy (09 R213). -/
def drainWord (e : Env) : Nat := (e.read32 e.f.a e.first).toNat

/-- The band operands of `mrd` and `mwr` (09 R212): a row that is a multiple of 16 below 160, registers within the
allocation, a tile that is waited for and belongs to no stream. -/
structure BandOk (e : Env) (x : Src) (v : Nat) (r : CoreRes) : Prop where
  mod : e.f.mod &&& 0x2F = 0 ∧ e.f.qual.toNat < 16
  acc : AccOk e
  x : UniformReady e x ∧ e.sarg x % 16 = 0 ∧ 0 ≤ e.sarg x ∧ e.sarg x < 160
  v : v + 2048 / e.gr.width ≤ e.gr.vregs ∧ e.g.vPend v (2048 / e.gr.width) = false
  core : (if e.f.pairBit then e.t.cores.drop 1 else e.t.cores.take 1) = [r]
  stream : (mget Acc.zero r.accs e.f.accN).stream = false
  waited : (mget Acc.zero r.accs e.f.accN).unwaited = false

/-- The stream of the accumulator named is live and its heaps, if they are in the spillway, are covered (10 R231). -/
def StreamOk (e : Env) : Prop := (e.t.stream e.f.accN).live = true ∧ spillBad e.gr (e.t.stream e.f.accN) = false

/-- The value of an element after an `mma` of a floating-point format (09 R202): block by block, the sum of the block's
products under the blocks' scales, added with one rounding. -/
def mmaElement (sl : Word) (F : Fmt) (slab : Array Word) (bs : Array Byte) (r c : Nat) (old : Word) : Word :=
  let code := slotFmt sl
  let kc := geoKc code
  let av (k : Nat) : Fp := F.value (packedW slab (geoW code) (r * kc + k))
  (List.range (kc / 32)).foldl (fun acc j =>
    let col := columnBlock sl bs c j
    let nan := (List.range 32).any (fun i => (av (32 * j + i)).isNan) || col.any (fun p => (F.value p.2).isNan) ||
      (geoMx code && (scaleA code slab r j == 255 || scaleB sl bs c j == 255))
    let sc : Int := if geoMx code then (scaleA code slab r j : Int) - 127 + ((scaleB sl bs c j : Int) - 127) else 0
    (faddRne acc (blockSum nan sc (col.map (fun p => (if p.1 < kc then av p.1 else .nan, F.value p.2)))).1).1) old

end Sys2Proof.Machine

/-- Array operations enter the team's queue (09 R193, R205 to R211): `mma`, `mscale`, `mzero` with the operands they read at
issue. -/
def Rules.ArrayIssue : Prop :=
  (∀ f s e v, Issues (.mma f) s e false → Issuer e →
    let sl := e.gr.slot e.f.mslot
    let c := slotFmt sl
    ArrayFree e s (if c ≥ 12 then [e.f.accN, e.f.accN + 1] else [e.f.accN]) →
    SlabOk e s (geoWords c) (geoChunk sl) v → (slotBpi sl = true → slotSparse sl = 0) →
    (c ≥ 12 → e.f.accN % 2 = 0 ∧ e.f.accN + 1 < e.gr.accs ∧ NoStream e) →
    exec (.mma f) s = .next (e.done (e.issueOp s e.f.accN e.f.pairBit
      (.mma e.f.mslot (e.slab v (geoWords c)) (slabB e (geoChunk sl))) (slabReadLbl e (geoWords c) (geoChunk sl) v)))) ∧
  (∀ f s e v, Issues (.mscale f) s e false → Issuer e → ArrayFree e s [e.f.accN] → SlabOk e s 160 128 v → e.f.mod.getLsbD 5 = false →
    e.f.mslot = 0 → NoStream e →
    (e.f.bsrc = false → ∀ r ∈ e.t.opCores e.f.pairBit, (mget Tile.zero r.tiles e.f.tileN).co = false) →
    exec (.mscale f) s = .next (e.done (e.issueOp s e.f.accN e.f.pairBit (.mscale (e.slab v 160) (slabB e 128))
      (slabReadLbl e 160 128 v)))) ∧
  (∀ f s e, Issues (.mzero f) s e false → Issuer e → ArrayFree e s [e.f.accN] → AccOnly e → AccOk e → NoStream e →
    exec (.mzero f) s = .next (e.done (e.issueOp s e.f.accN e.f.pairBit .mzero 0)))

/-- What issuing an array operation changes (09 R193, R205): the operation is queued under a new identity, its tiles are
UNWAITED and keep their elements, no register and no memory changes. -/
def Rules.OperationQueued : Prop :=
  ∀ row f s e n pair kind l, s.env? row f = some e →
    e.any = true →
    let t := e.done (e.issueOp s n pair kind l)
    SameMem s t ∧ (∃ g', t.group? e.g.team e.g.gid = some g' ∧ SameRegs e.g g') ∧
    mfind t.arrops s.nextId = some ⟨s.nextId, e.t.id, n, pair, kind, l, none, false, false, 0, []⟩ ∧
    (∀ id, id ≠ s.nextId → mfind t.arrops id = mfind s.arrops id) ∧
    ∃ t', t.team? e.t.id = some t' ∧ ∀ r ∈ e.t.cores, ∃ r' ∈ t'.cores, r'.core = r.core ∧ r'.tarn = r.tarn ∧
      r'.tiles = r.tiles ∧ r'.mscr = r.mscr ∧ (∀ m, (mget Acc.zero r'.accs m).el = (mget Acc.zero r.accs m).el) ∧
      ((pair = true ∨ e.t.cores.head? = some r) → (mget Acc.zero r'.accs n).unwaited = true)

/-- Matrix operations are issued and join their accumulator's operations (09 R206 to R211). Where the spec leaves it
open the model chooses: a hold at issue (log entry 55), the STREAM check of aN alone by an integer mma (log entry
108), FADDR of CO_READ by mscale (log entry 127). -/
def Obligations.ArrayOperations : Prop := Rules.ArrayIssue ∧ Rules.OperationQueued

/-- Drain-add (09 R213, R214): `mdrain` names its receiver, `mrecv` arms for a number of senders. -/
def Obligations.DrainIssue : Prop :=
  (∀ f s e, Issues (.mdrain f) s e false → Issuer e → e.any = true → s.held e.t.id [e.f.accN] = false → AccOnly e → AccOk e →
    NoStream e → UniformReady e e.f.a → e.gr.vcl ≠ 0 → e.f.pairBit = e.gr.pair →
    let w := drainWord e
    w < 2 ^ 14 → w % 64 < e.gr.gang → w % 64 ≠ clusterInGang e.gr e.t.kid → w / 64 % 16 < e.gr.vcl →
    w / 1024 < e.gr.accs →
    exec (.mdrain f) s = .next (e.done (e.issueOp s e.f.accN e.f.pairBit (.mdrain (w % 64) (w / 64 % 16) (w / 1024))
      (e.lblOf e.f.a)))) ∧
  (∀ f s e, Issues (.mrecv f) s e false → Issuer e → e.any = true → e.f.mod &&& 0x2F = 0 → e.f.qual.getLsbD 7 = false →
    AccOk e → NoStream e → UniformReady e e.f.a → e.gr.vcl ≠ 0 → e.f.pairBit = e.gr.pair →
    accAny (e.t.opCores e.f.pairBit) e.f.accN (·.unwaited) = false →
    1 ≤ e.sarg e.f.a → e.sarg e.f.a ≤ (e.gr.gang : Int) - 1 →
    exec (.mrecv f) s = .next (e.done (e.issueOp s e.f.accN e.f.pairBit (.mrecv (e.sarg e.f.a).toNat e.f.mslot)
      (e.lblOf e.f.a))))

/-- Bands of sixteen rows (09 R212): `mrd` copies words of the tile into the registers of the taking-part threads, `mwr` copies
them back, word j·WIDTH + i for thread i of register j. -/
def Obligations.TileBands : Prop :=
  (∀ f s e v r, Issues (.mrd f) s e false → Issuer e → e.f.dst = .v v → BandOk e e.f.a v.val r → 0 < e.gr.width →
    (∀ w ∈ (mget Acc.zero r.accs e.f.accN).bad, w ∉ e.bandWords (e.sarg e.f.a).toNat) →
    ∃ t g', exec (.mrd f) s = .next t ∧ t.group? e.g.team e.g.gid = some g' ∧ SameWorld e s t ∧
      g'.s = e.g.s ∧ g'.p = e.g.p ∧ g'.c = e.g.c ∧ g'.sat = e.g.sat ∧ g'.mode = e.g.mode ∧
      ∀ n i, i < 64 → g'.vget n i = if v.val ≤ n ∧ n < v.val + 2048 / e.gr.width ∧ i ∈ e.parts
        then mget 0 (mget Acc.zero r.accs e.f.accN).el (128 * (e.sarg e.f.a).toNat + ((n - v.val) * e.gr.width + i))
        else e.g.vget n i) ∧
  (∀ f s e v r, Issues (.mwr f) s e false → Issuer e → vNum e.f.a = some v → BandOk e e.f.b v r → e.any = true →
    0 < e.gr.width → e.gr.width ≤ 64 → (∀ w ∈ e.bandWords 0, 64 * (v + w / e.gr.width) + w % e.gr.width ∉ e.g.vbad) →
    ∃ t g' tm, exec (.mwr f) s = .next t ∧ t.group? e.g.team e.g.gid = some g' ∧ SameRegs e.g g' ∧ SameMem s t ∧
      t.team? e.t.id = some tm ∧ ∃ r' ∈ tm.cores, r'.core = r.core ∧ r'.tarn = r.tarn ∧ r'.tiles = r.tiles ∧
        (∀ j i, j < 2048 / e.gr.width → i ∈ e.parts →
          mget 0 (mget Acc.zero r'.accs e.f.accN).el (128 * (e.sarg e.f.b).toNat + (j * e.gr.width + i)) =
            e.g.vget (v + j) i) ∧
        (∀ k, (∀ j i, j < 2048 / e.gr.width → i ∈ e.parts → k ≠ 128 * (e.sarg e.f.b).toNat + (j * e.gr.width + i)) →
          mget 0 (mget Acc.zero r'.accs e.f.accN).el k = mget 0 (mget Acc.zero r.accs e.f.accN).el k))

/-- `mwait` (09 R206): with every operation on its set complete it forgets them, clears UNWAITED and moves their flags
to `sr.sat`; with one under way the group waits; a failure of one is raised, with its address, and cleared. Where the
spec leaves it open the model chooses: the label that flags take (log entry 109), an inner tile named alone (log entry
110), the order of failures (log entry 53). -/
def Obligations.MatrixWait : Prop :=
  ∀ f s e, Issues (.mwait f) s e false → Issuer e → e.any = true → e.f.mod.toNat < 2 →
    (if e.f.mod = 1 then e.f.qual = 0 else e.f.qual.toNat < 16 ∧ e.f.accN < e.gr.accs) →
    let mask : BitVec 16 := if e.f.mod = 1 then 0xFFFF else e.t.mwaitSet e.f.accN
    (s.mwaitReady e.t mask = true → e.t.mwaitFault mask = none →
      ∃ t g' tm, exec (.mwait f) s = .next t ∧ t.group? e.g.team e.g.gid = some g' ∧ SameMem s t ∧
        g'.v = e.g.v ∧ g'.s = e.g.s ∧ g'.p = e.g.p ∧ g'.c = e.g.c ∧ g'.mode = e.g.mode ∧
        g'.sat = (s.mwaitFlags e.t mask).foldl (fun a p => a ||| p.1.setWidth 32) e.g.sat ∧
        t.arrops = s.arrops.filter (fun p => !(p.2.team == e.t.id && mask.getLsbD p.2.acc)) ∧
        t.team? e.t.id = some tm ∧ ∀ n, n < 16 → mask.getLsbD n = true → ∀ r ∈ tm.cores,
          (mget Acc.zero r.accs n).unwaited = false) ∧
    (s.mwaitReady e.t mask = false → Waits e s (.mwait f) (.mwait mask)) ∧
    (∀ n c a, s.mwaitReady e.t mask = true → e.t.mwaitFault mask = some (n, c, a) →
      exec (.mwait f) s = .next (takeFault (s.clearErr e.t.id n) e.g e.t e.gr e.ctx (e.frameWord false)
        { code := c, faddr := a }))

/-- Streams (10 R225 to R228): `vinit` starts one with the parameters of its operands, `vfold`, `vfold.bwd` and `vmerge` queue
their work on it. -/
def Rules.StreamIssue : Prop :=
  (∀ f s e, Issues (.vinit f) s e false → Issuer e → ArrayFree e s [e.f.accN] → AccOnly e → AccOk e → UniformReady e e.f.b →
    UniformReady e e.f.c →
    let cfg := (e.read e.f.b e.first).toNat
    let w := e.newStream cfg (e.read32 e.f.c e.first) (vNum e.f.a)
    let k := (639 + e.gr.width) / e.gr.width
    (∀ v, vNum e.f.a = some v → w.nlbl ≠ 0 ∧ v + k ≤ e.gr.vregs ∧ e.g.vPend v k = false ∧
      e.slabBadIn s v ((List.range 640).filter (fun i => decide (i % 4 < w.nlbl))) = none) →
    (vNum e.f.a = none → e.f.a = .zero ∧ w.nlbl = 0) →
    w.k ≤ 256 → w.nlbl ≤ 4 → w.shlo < w.nsh → cfg / 2 ^ 31 % 2 = 0 → posFinite (e.read32 e.f.c e.first) = true →
    (mget MRec.zero e.t.mrecs e.f.accN).owed = false → e.t.imageClash e.f.accN w = false →
    w.base + w.imageLen ≤ e.gr.mscr * 16384 → spillBad e.gr w = false →
    let old := match vNum e.f.a with | some v => e.slabLbl v k | none => 0
    exec (.vinit f) s = .next (e.done ((e.issueOp s e.f.accN e.f.pairBit
      (.vinit w ((e.t.stream e.f.accN).pairs && !w.pairs)) (Label.max old (Label.max (e.lblOf e.f.b) (e.lblOf e.f.c)))).modTeam
      e.t.id (fun t => t.setStream e.f.accN w ((e.t.stream e.f.accN).pairs && !w.pairs))))) ∧
  (∀ f s e, Issues (.vfold f) s e false → Issuer e → ArrayFree e s [e.f.accN] → e.f.mod.getLsbD 5 = false → e.f.qual.getLsbD 7 = false →
    AccOk e → e.f.tileN = 0 → e.f.mslot = 0 → UniformReady e e.f.a → StreamOk e →
    e.f.pairBit = (e.t.stream e.f.accN).pairs →
    exec (.vfold f) s = .next (e.done (e.issueOp s e.f.accN e.f.pairBit
      (.vfold (e.t.stream e.f.accN) (e.read32 e.f.a e.first)) 0))) ∧
  (∀ f s e, Issues (.vfoldBwd f) s e false → Issuer e → ArrayFree e s [e.f.accN] → e.f.mod.getLsbD 5 = false →
    e.f.qual.getLsbD 7 = false → AccOk e → e.f.tileN < e.gr.tiles → UniformReady e e.f.a → StreamOk e →
    e.f.pairBit = (e.t.stream e.f.accN).pairs → (e.t.stream e.f.accN).shlo = 0 →
    (e.t.stream e.f.accN).shhi + 1 = (e.t.stream e.f.accN).nsh → slotFmt (e.gr.slot e.f.mslot) ≤ 3 →
    slotSparse (e.gr.slot e.f.mslot) = 0 → slotRm (e.gr.slot e.f.mslot) ≠ .stoch →
    (∀ r ∈ e.t.opCores e.f.pairBit, (mget Tile.zero r.tiles e.f.tileN).co = false) →
    exec (.vfoldBwd f) s = .next (e.done (e.issueOp s e.f.accN e.f.pairBit
      (.vfoldBwd (e.t.stream e.f.accN) e.f.mslot e.f.tileN (e.read32 e.f.a e.first)) 0))) ∧
  (∀ f s e r, Issues (.vmerge f) s e false → Issuer e → ArrayFree e s [e.f.accN] → e.f.mod = 0 → e.f.b = .zero → e.f.qual.toNat < 16 →
    e.f.accN < e.gr.accs → UniformReady e e.f.a → StreamOk e → e.t.cores.take 1 = [r] →
    let w := e.t.stream e.f.accN
    let o := 128 * (e.read32 e.f.a e.first).toNat
    let b := span r.tarn o (10304 + 1280 * w.k)
    o + (10304 + 1280 * w.k) ≤ e.gr.tarn * 4096 → goneLines [r] o (10304 + 1280 * w.k) = [] → incomingBad w b = false →
    TarnTurn e s → s.tarnBad [r] o (10304 + 1280 * w.k) = none →
    let lo := (b.getD 4 0).toNat
    let hi := (b.getD 5 0).toNat
    let w1 : SWord := if hi + 1 = w.shlo then { w with shlo := lo } else { w with shhi := hi }
    exec (.vmerge f) s = .next (e.done ((e.issueOp s e.f.accN w.pairs (.vmerge w b)
      (tarnLbl [r] o (10304 + 1280 * w.k))).modTeam e.t.id (fun t => { t with streams := mput t.streams e.f.accN w1 }))))

/-- `vread` (10 R229): ITEM 0 gives the sixteen words of a row's header, ITEM 1 thirty-two heap records, padded, word
j·WIDTH + i to thread i of register j; ITEM 2 exports the whole image to the leader's tarn; END ends the stream. -/
def Rules.StreamRead : Prop :=
  ∀ f s e r, Issues (.vread f) s e false → Issuer e → e.any = true → e.f.mod.toNat < 2 → e.f.qual.toNat < 16 →
    e.f.accN < e.gr.accs → UniformReady e e.f.a → (e.t.stream e.f.accN).live = true →
    accAny e.t.cores e.f.accN (·.unwaited) = false → e.t.cores.head? = some r → (e.t.stream e.f.accN).spilled = false →
    0 < e.gr.width → badIn r.mbad (e.t.stream e.f.accN).base (e.t.stream e.f.accN).imageLen = none →
    let w := e.t.stream e.f.accN
    let sel := (e.read32 e.f.a e.first).toNat
    let row := sel % 256
    let arg := sel / 4096
    let img := s.image e.gr r w
    let heap := wordsOf ((img.heaps.drop (8 * w.k * row)).take (8 * w.k)) (2 * w.k)
    let rec32 (i : Nat) : List Word := if 32 * arg + i < w.k then
      [heap.getD (2 * (32 * arg + i)) 0, heap.getD (2 * (32 * arg + i) + 1) 0] else [padRec.1, 0xFFFFFFFF]
    let ended (s1 : State) : State := if e.f.mod = 1 then s1.modTeam e.t.id (fun t => t.endStream e.f.accN) else s1
    (∀ v k (ws : List Word), e.f.dst = .v v → sel / 256 % 16 < 2 → row < 160 → v.val + k ≤ e.gr.vregs →
      e.g.vPend v.val k = false →
      (sel / 256 % 16 = 0 → k = (15 + e.gr.width) / e.gr.width ∧ ws = wordsOf ((img.rows.drop (64 * row)).take 64) 16) →
      (sel / 256 % 16 = 1 → k = 64 / e.gr.width ∧ 32 * arg < w.k ∧ ws = (List.range 32).flatMap rec32) →
      ∃ g1 : Group, exec (.vread f) s = .next (e.done (ended (s.setGroup g1))) ∧ g1.s = e.g.s ∧ g1.p = e.g.p ∧ g1.c = e.g.c ∧
        g1.team = e.g.team ∧ g1.gid = e.g.gid ∧
        ∀ n i, i < 64 → g1.vget n i = if v.val ≤ n ∧ n < v.val + k ∧ i ∈ e.parts ∧ (n - v.val) * e.gr.width + i < ws.length
          then ws.getD ((n - v.val) * e.gr.width + i) 0 else e.g.vget n i) ∧
    (e.f.dst = .none → sel / 256 % 16 = 2 → 128 * arg + (10304 + 1280 * w.k) ≤ e.gr.tarn * 4096 →
      TarnTurn e s → e.g.refused = none →
      exec (.vread f) s = .next (e.done (ended (s.modCore e.t.id r.core (fun r => r.exportImage (128 * arg)
        ((img.hdr.take 3 ++ [img.hdr.getD 3 0 &&& 1] ++ img.hdr.drop 4) ++ img.rows ++ img.heaps) img.cover.2.2)))))

/-- Vocabulary streams (10 R221 to R232). Where the spec leaves it open the model chooses: aN after a failure (log
entry 112), labels that fall (log entry 113), from when a stream owns its tile (log entry 56), the length of a merged
image (log entry 57), the SPILLED bit of an export (log entry 59). -/
def Obligations.Streams : Prop := Rules.StreamIssue ∧ Rules.StreamRead

/-- The array executes an operation whose turn has come (09 R194, R201, R210, R213, R214): `mzero` leaves zero tiles of label
0 and KCOUNT 0; `mrecv` arms its record; an operation behind an earlier one on its tile does nothing yet. -/
def Rules.ArrayExecutes : Prop :=
  ∀ s id (o : ArrOp) (t : Team) (gr : Grid), mfind s.arrops id = some o → o.id = id → s.team? o.team = some t →
    t.id = o.team → s.grid? t.grid = some gr → o.done = false →
    (s.opReady gr o = false → exec (.arrayOperationExecute id) s = .next s) ∧
    (s.opReady gr o = true → t.status = .admitted →
      (o.kind = .mzero → ∃ s' t', exec (.arrayOperationExecute id) s = .next s' ∧ s'.mem = s.mem ∧ s'.groups = s.groups ∧
        mfind s'.arrops id = some { o with done := true, wrote := [o.acc] } ∧ s'.team? o.team = some t' ∧
        (mget MRec.zero t'.mrecs o.acc).kcount = 0 ∧
        ∀ j, j < t.cores.length → (o.pair = true ∨ j = 0) → ∃ r', t'.cores[j]? = some r' ∧
          (mget Acc.zero r'.accs o.acc).el = [] ∧ (mget Acc.zero r'.accs o.acc).lbl = 0 ∧
          (mget Acc.zero r'.accs o.acc).bad = []) ∧
      (∀ n slot, o.kind = .mrecv n slot → o.begun = false → ∃ s' t', exec (.arrayOperationExecute id) s = .next s' ∧
        s'.mem = s.mem ∧ s'.groups = s.groups ∧ s'.team? o.team = some t' ∧
        mget MRec.zero t'.mrecs o.acc =
          { mget MRec.zero t.mrecs o.acc with armed := true, expect := n, rslot := slot, done := 0 } ∧
        t'.cores = t.cores))

/-- Products (09 R202): each element of a tile after an `mma` of a floating-point format is the sum, block by block with one
rounding each, of the row of A, the column of B and the element itself. -/
def Rules.MatrixProducts : Prop :=
  ∀ sl F slab bs (a : Acc) r c, r < 160 → c < 128 → rising a.el = true →
    mget 0 (mmaFp sl F slab bs a).1.el (128 * r + c) = mmaElement sl F slab bs r c (mget 0 a.el (128 * r + c))

/-- Array operations execute, and what one element of a product is (09 R203 to R211). Where the spec leaves it open
the model chooses: a NaN among dropped elements (log entry 52). -/
def Obligations.ArrayExecution : Prop := Rules.ArrayExecutes ∧ Rules.MatrixProducts

namespace Sys2Proof.Machine

open Sys2Proof

/-! ### Engines -/

/-- DST holds a result and every other register is as it was; memory is untouched. -/
def WroteOnly (e : Env) (s t : State) (w : DWord) : Prop :=
  SameMem s t ∧ ∃ g', t.group? e.g.team e.g.gid = some g' ∧ Holds e g' e.parts (fun _ => w) true ∧ Keeps e e.parts g' ∧
    g'.sat = e.g.sat

/-- A v or s destination that is not pending (14 R310). -/
def DstReady (e : Env) : Prop := dstVorS e.f.dst = true ∧ e.pendDst e.f.dst = false

/-- The handle that SRCA holds. -/
def handleA (e : Env) : Nat := (e.read32 e.f.a e.first).toNat

/-- The slot, and its generation, that `shp` fills (14 R317): the one that SRCB names, with the next generation, or the lowest
free one. -/
def shapePlace (e : Env) (old : Nat) : Option (Nat × Nat) :=
  if old ≠ 0 then some (old % 65536, nextGen (old / 65536))
  else ((List.range 65536).find? (fun n => (mget ShapeSlot.free e.ctx.shapes n).rcd.isNone)).map
    (fun n => (n, (mget ShapeSlot.free e.ctx.shapes n).gen))

/-- The operands of `tx` and `gx` (14 R310, R311). -/
structure CommandArgs (e : Env) : Prop where
  mod : e.f.mod.toNat < 4
  qual : e.f.qual.toNat < 32
  guard : if e.f.qual.toNat < 16 then e.f.qual = 0 else e.f.qual.toNat % 16 < e.gr.guards
  a : if e.f.mod.getLsbD 0 then PairReady e e.f.a else UniformReady e e.f.a
  b : UniformReady e e.f.b

/-- The decision on a command at its issue (14 R309): RUN without a guard, by the slot's value when it is resolved, none
yet otherwise. -/
def decisionAt (e : Env) : Option Bool :=
  if e.f.qual.toNat < 16 then some true
  else match mfind e.t.guards (e.f.qual.toNat % 16) with
    | some (.known b) => some (b != e.f.mod.getLsbD 1)
    | _ => none

/-- A command instruction (14 R311, R312). -/
def CommandForm (mk : Fields → Instr) (gather : Bool) : Prop :=
  ∀ f s e ctx h r, Issues (mk f) s e false → CommandArgs e → e.any = true → e.g.fencing = 0 →
    e.named s = .inr (ctx, h, r) → s.recordFault r (e.read32 e.f.b e.first).toNat gather = none →
    ((s.engQueue e.g.core e.ctx.fn gather).length < 64 →
      ∃ t g' c, exec (mk f) s = .next t ∧ t.group? e.g.team e.g.gid = some g' ∧ SameRegs e.g g' ∧ SameMem s t ∧
        mfind t.cmds s.nextId = some c ∧ c.id = s.nextId ∧ c.state = .queued ∧ c.gather = gather ∧ c.rcd = r ∧
        c.handle = BitVec.ofNat 32 h ∧ c.step = e.read32 e.f.b e.first ∧ c.team = e.g.team ∧ c.gid = e.g.gid ∧
        c.core = e.g.core ∧ c.ctx = ctx ∧ c.decided = decisionAt e ∧ c.chunks = 0 ∧ c.waited = false) ∧
    ((s.engQueue e.g.core e.ctx.fn gather).length ≥ 64 →
      exec (mk f) s = .next (s.setGroup { e.g with stall := true }))

end Sys2Proof.Machine

/-- Shape records (14 R299, R317 to R319): `shp` installs the record of a valid image and writes its handle, or 0 when
the table is full; `shpfree` frees the slot under the next generation; a handle that is not live raises HANDLE_STALE.
Where the spec leaves it open the model chooses: compute-only images (log entry 20), the fields of an image (log entry
22). -/
def Obligations.ShapeRecords : Prop :=
  (∀ f s e r, Issues (.shp f) s e false → Bare e → PairReady e e.f.a → UniformReady e e.f.b → UniformReady e e.f.c →
    DstReady e → e.any = true → e.g.fencing = 0 →
    let k := e.cap e.f.a 0
    let old := (e.read32 e.f.b e.first).toNat
    let coords := (e.read32 e.f.c e.first).toNat
    coords < 65536 → Usable s e k 0 [pLD] → isDev k.addr = true → k.inBounds k.addr 256 = true → k.addr % 256 = 0 →
    (old = 0 ∨ (e.ctx.shape? old).isSome = true) →
    shapeOf (bytesAt s.mem k.addr 256) (s.imgCap k (bytesAt s.mem k.addr 256)) coords = some r →
    e.shapeFault r = none → s.badSec? k.addr 256 = none → s.coAt k.addr 256 = false →
    (shapePlace e old = none → ∃ t, exec (.shp f) s = .next t ∧ WroteOnly e s t 0 ∧ t.ctxs = s.ctxs) ∧
    (∀ slot gen, shapePlace e old = some (slot, gen) → ∃ t, exec (.shp f) s = .next t ∧
      WroteOnly e s t (BitVec.ofNat 64 (slot + 65536 * gen)) ∧
      t.ctx? e.ctx.colour = some { e.ctx with shapes := mput e.ctx.shapes slot ⟨gen, some r⟩ })) ∧
  (∀ f s e, Issues (.shpfree f) s e false → Bare e → UniformReady e e.f.a → e.f.b = .zero → e.any = true →
    ((e.ctx.shape? (handleA e)).isSome = true → exec (.shpfree f) s = .next (e.done (s.setCtx { e.ctx with
      shapes := mset ShapeSlot.free e.ctx.shapes (handleA e % 65536) ⟨nextGen (handleA e / 65536), none⟩ }))) ∧
    (e.ctx.shape? (handleA e) = none →
      exec (.shpfree f) s = .next (e.take s { code := cSTALE, aux := BitVec.ofNat 64 (handleA e) })))

/-- Queries (14 R319): `eqry` writes 0 for a handle that is not live, else LIVE, SWSTATE and INFLIGHT; `swslot` writes
SWSTATE, and with MOD 1 gives a granted switch slot back. Where the spec leaves it open the model chooses: what
INFLIGHT counts (log entry 51). -/
def Obligations.EngineQueries : Prop :=
  (∀ f s e, Issues (.eqry f) s e false → Bare e → UniformReady e e.f.a → e.f.b = .zero → DstReady e → e.any = true →
    ∃ t, exec (.eqry f) s = .next t ∧ WroteOnly e s t (BitVec.ofNat 64 (match e.ctx.shape? (handleA e) with
      | none => 0
      | some r => 1 + 2 * r.swstate + 65536 * min 65535 (s.cmds.filter (fun p =>
          p.2.ctx == e.ctx.colour && p.2.handle.toNat == handleA e && !p.2.isDone)).length))) ∧
  (∀ f s e r, Issues (.swslot f) s e false → e.f.mod.toNat < 2 → e.f.qual = 0 → UniformReady e e.f.a → e.f.b = .zero →
    (e.f.dst = .none ∨ DstReady e) → e.any = true → e.ctx.shape? (handleA e) = some r →
    ∃ t, exec (.swslot f) s = .next t ∧
      WroteOnly e s t (if e.f.mod = 1 then 1 else BitVec.ofNat 64 (1 + 2 * r.swstate)) ∧
      ∃ c', t.ctx? e.ctx.colour = some c' ∧
        c'.shape? (handleA e) = some { r with swstate := if e.f.mod = 1 ∧ r.swstate = 1 then 0 else r.swstate })

/-- Engine commands (14 R311, R312): `tx` and `gx` on a live record that passes its checks put a command with the record, STEP
and the guard's decision into the queue, when it has room, and wait at issue when it has none. -/
def Rules.CommandIssue : Prop := CommandForm .tx false ∧ CommandForm .gx true

/-- `ewait` (14 R316, 12 R263): with every command it covers complete and no fault to report, the destinations of those that
ended DONE are acquired at this instant, again where an earlier `ewait` acquired them; with one under way the group waits; the first unreported fault is raised
with the command's handle and STEP. -/
def Rules.EngineWait : Prop :=
  ∀ f s e, Issues (.ewait f) s e false → Bare e → UniformReady e e.f.a → e.any = true →
    let cs := s.ewaited e.g.team e.g.gid (e.read32 e.f.a e.first).toNat
    ((∀ c ∈ cs, c.isDone = true ∧ (∀ code, c.state = .done 3 code → c.reported = true)) →
      ∃ t g', exec (.ewait f) s = .next t ∧ t.group? e.g.team e.g.gid = some g' ∧ SameRegs e.g g' ∧ SameMem s t ∧
        t.cmds = s.cmds ∧
        let rs := (cs.filter (fun c => match c.state with | .done 0 _ => true | _ => false)).flatMap
          (fun c => c.destRanges.map (fun r => (r.1, r.2, s.now)))
        g'.acquiredRanges = e.g.acquiredRanges.filter (fun r => !rs.any (fun x => x.1 == r.1 && x.2.1 == r.2.1)) ++ rs) ∧
    ((∃ c ∈ cs, c.isDone = false) → Waits e s (.ewait f) (.ewait (e.read32 e.f.a e.first).toNat)) ∧
    (∀ c code rest, cs = c :: rest → (∀ x ∈ cs, x.isDone = true) → c.state = .done 3 code → c.reported = false →
      exec (.ewait f) s = .next (takeFault (s.markReported c.id) e.g e.t e.gr e.ctx (e.frameWord false) (ewaitExc (c, code))))

/-- Engine commands are issued and awaited (14 R309 to R311, R316). Where the spec leaves it open the model chooses:
FADDR of faults at `ewait` (log entry 64). -/
def Obligations.Commands : Prop := Rules.CommandIssue ∧ Rules.EngineWait

/-- The Dredge (17 R391, R392): `dredge.start` asks for the next whole pass and writes its number, `dredge.wait` waits for one
that has been asked for, `dredge.query` writes the number of passes completed. -/
def Obligations.DredgePasses : Prop :=
  (∀ f s e, Issues (.dredgeStart f) s e false → Bare e → e.f.a = .zero → dstVSnone e.f.dst = true → e.pendDst e.f.dst = false →
    e.any = true →
    let n := if s.dredge.state = .idle then s.dredge.completed + 1 else s.dredge.completed + 2
    ∃ t, exec (.dredgeStart f) s = .next t ∧ WroteOnly e s t (BitVec.ofNat 64 n) ∧
      t.dredge = { s.dredge with requested := max s.dredge.requested n }) ∧
  (∀ f s e, Issues (.dredgeWait f) s e false → e.f.mod = 1 → e.f.qual = 0 → e.uniform e.f.a = true → e.f.dst = .none →
    e.pendSrc e.f.a = false → e.any = true → (e.read e.f.a e.first).toNat ≤ s.dredge.requested →
    ((e.read e.f.a e.first).toNat ≤ s.dredge.completed → exec (.dredgeWait f) s = .next (e.done s)) ∧
    (s.dredge.completed < (e.read e.f.a e.first).toNat →
      Waits e s (.dredgeWait f) (.dredge (e.read e.f.a e.first).toNat))) ∧
  (∀ f s e, Issues (.dredgeQuery f) s e false → e.f.mod = 2 → e.f.qual = 0 → e.f.a = .zero → dstVSnone e.f.dst = true →
    e.pendDst e.f.dst = false → e.any = true →
    ∃ t, exec (.dredgeQuery f) s = .next t ∧ WroteOnly e s t (BitVec.ofNat 64 s.dredge.completed))

namespace Sys2Proof.Machine

open Sys2Proof

/-! ### Events between instructions -/

/-- Group `gid` of team `team`, under its own identity, of a team that is ADMITTED and does not terminate. -/
structure Live (s : State) (team gid : Nat) (t : Team) (g : Group) : Prop where
  ofTeam : s.team? team = some t
  admitted : t.status = .admitted ∧ t.term = none
  ofGroup : s.group? team gid = some g
  named : g.team = team ∧ g.gid = gid ∧ t.id = team

/-- The group has become READY at this cycle (16 R353), with nothing else of it changed, and memory is as it was. -/
def Readied (s t : State) (g : Group) : Prop :=
  SameMem s t ∧ ∃ g', t.group? g.team g.gid = some g' ∧ g'.status = .ready ∧ g'.wait = .none ∧ g'.readySince = s.clk ∧
    SameRegs g g' ∧ g'.threads = g.threads

/-- The groups that a quadrant chooses among (16 R353). -/
def Contends (s : State) (core quad : Nat) (g : Group) : Prop := g ∈ s.onQuad core quad ∧ s.grantable g = true

end Sys2Proof.Machine

/-- Run arbitration (15 R336, 16 R353): a quadrant with a run in progress grants none; the group granted is the aged
one that has waited longest, and without an aged one a group of the lowest level; the subset that runs is the one at
the lowest PC that is not wholly demoted, or, once some subset is 192 runs old, the oldest; the group is in a run of
it and becomes the one last granted at its level. Where the spec leaves it open the model chooses: runs that were
stopped (log entry 73). -/
def Obligations.RunArbitration : Prop :=
  (∀ core quad s, (∃ x ∈ s.onQuad core quad, x.status = .running) → exec (.runGrant core quad) s = .next s) ∧
  (∀ core quad s g, s.arbitrate core quad = some g → Contends s core quad g ∧
    ((∃ x, Contends s core quad x ∧ s.isAged x = true) → s.isAged g = true ∧
      ∀ x, Contends s core quad x → s.isAged x = true → g.readySince ≤ x.readySince) ∧
    ((∀ x, Contends s core quad x → s.isAged x = false) →
      ∀ x, Contends s core quad x → g.level (s.prioOf g.team) ≤ x.level (s.prioOf x.team))) ∧
  (∀ (g : Group) p, p ∈ g.pcs → (∀ q ∈ g.pcs, subsetAge (g.subsetAt q) < 192) → subsetDem (g.subsetAt p) = false →
    (∀ q ∈ g.pcs, subsetDem (g.subsetAt q) = false → p.toNat ≤ q.toNat) →
    g.choose = some (subsetMask (g.subsetAt p))) ∧
  (∀ (g : Group) p, p ∈ g.pcs → 192 ≤ subsetAge (g.subsetAt p) →
    (∀ q ∈ g.pcs, subsetAge (g.subsetAt q) < subsetAge (g.subsetAt p) ∨
      (subsetAge (g.subsetAt q) = subsetAge (g.subsetAt p) ∧ p.toNat ≤ q.toNat)) →
    g.choose = some (subsetMask (g.subsetAt p))) ∧
  (∀ core quad g m s, (∀ x ∈ s.onQuad core quad, x.status ≠ .running) → s.arbitrate core quad = some g →
    g.run.resumed = false → g.choose = some m →
    ∃ t g', exec (.runGrant core quad) s = .next t ∧ t.group? g.team g.gid = some g' ∧ g'.status = .running ∧
      g'.run.subset = m ∧ SameRegs g g' ∧ g'.threads = g.threads ∧ SameMem s t ∧
      mget 0 t.rrobin (rrKey g.core g.quad (g.level (s.prioOf g.team))) = g.slot)

/-- What ends a group's wait or ages it (02 R43; 13 R275; 14 R316; 16 R353, R355, R358, R361): the end of a sleep, 16,384
cycles READY, the passing of a thread's demotion, the threshold of an `acq.ge`, the pass of a `dredge.wait`, the lines of a
tarn access, the drains of a held accumulator, the commands of an `ewait`, the loads of a `qwait`; and the faults of a fetch (04 R86). -/
def Rules.GroupEvents : Prop :=
  (∀ team gid t g wake s, Live s team gid t g → g.haltAtEnd = false → g.status = .waiting → g.wait = .sleep wake →
    (wake ≤ s.clk → ∃ t', exec (.sleepWake team gid) s = .next t' ∧ Readied s t' g) ∧
    (s.clk < wake → exec (.sleepWake team gid) s = .next s)) ∧
  (∀ team gid t g s, Live s team gid t g → g.status = .ready →
    exec (.aging team gid) s =
      .next (if g.readySince + 16384 ≤ s.clk then s.setGroup { g with aged := true } else s)) ∧
  (∀ team gid thread g s, s.group? team gid = some g → ∃ g', exec (.demotionExpiry team gid thread) s = .next (s.setGroup g') ∧
    SameRegs g g' ∧ g'.team = g.team ∧ g'.gid = g.gid ∧
    ∀ i th, g.threads[i]? = some th →
      g'.threads[i]? = some (if i = thread ∧ th.dleft = 0 then { th with demoted := false } else th)) ∧
  (∀ team gid t g gr c s, Live s team gid t g → g.haltAtEnd = false → s.grid? t.grid = some gr → s.ctx? gr.colour = some c →
    s.syncs = [] →
    (∀ n, g.status = .waiting → g.wait = .dredge n →
      (n ≤ s.dredge.completed → ∃ t', exec (.groupWake team gid) s = .next t' ∧ Readied s t' g) ∧
      (s.dredge.completed < n → exec (.groupWake team gid) s = .next s)) ∧
    (∀ ns, g.status = .waiting → g.wait = .hold ns →
      (s.held t.id ns = false → ∃ t', exec (.groupWake team gid) s = .next t' ∧ Readied s t' g) ∧
      (s.held t.id ns = true → exec (.groupWake team gid) s = .next s)) ∧
    (∀ e scope thr, g.status = .waiting → g.wait = .acqGe e scope thr →
      let b := mget Binding.empty t.binds e
      b.sync.tag = true → s.badSec? b.sync.addr 8 = none →
      (thr.toNat ≤ (s.syncV b.sync.addr).toNat → ∃ t', exec (.groupWake team gid) s = .next t' ∧ Readied s t' g) ∧
      ((s.syncV b.sync.addr).toNat < thr.toNat → exec (.groupWake team gid) s = .next s)) ∧
    (∀ ls, g.status = .parked → g.wait = .park ls → (∀ p ∈ ls, ∀ r, t.core? p.1 = some r → r.absent p.2 = false) →
      ∃ t', exec (.groupWake team gid) s = .next t' ∧ Readied s t' g) ∧
    (∀ n, g.status = .waiting → g.wait = .ewait n →
      (∀ k ∈ s.ewaited team gid n, ∃ st code, k.state = .done st code ∧ (st ≠ 3 ∨ k.reported = true)) →
      ∃ t' g', exec (.groupWake team gid) s = .next t' ∧ t'.group? team gid = some g' ∧ g'.status = .ready ∧
        SameRegs g g' ∧ SameMem s t' ∧ t'.cmds = s.cmds) ∧
    (∀ m, g.status = .waiting → g.wait = .qwait m →
      (∀ ld ∈ g.loads, ld.covered m = true → ∀ x ∈ ld.elems, x.status = .delivered ∨ x.status = .dropped) →
      ∃ t' g', exec (.groupWake team gid) s = .next t' ∧ t'.group? team gid = some g' ∧ g'.status = .ready ∧
        g'.v = g.v ∧ g'.s = g.s ∧ g'.loads = g.loads.filter (fun ld => !ld.covered m) ∧ SameMem s t')) ∧
  (∀ s g t gr c a, s.running? = some (g, t, gr, c) →
    exec (.fetchBound a) s = .next (takeFault s g t gr c (badFrame (s.fetchedWord g gr.native a) g gr.width)
      { code := cFETCH, faddr := a })) ∧
  (∀ s g t gr c w, s.running? = some (g, t, gr, c) → w.fault ≠ cUNCORR →
    exec (.nonInstructionEncoding w) s = .next (takeFault s g t gr c (badFrame w g gr.width)
      { code := w.fault, faddr := if w.fault = cCOLOUR ∨ w.fault = cCOREAD then g.pc + 4 * w.units.length else 0 }))

/-- Accesses under way and cached copies (03 R64, 12 R249): the write-back of a copy lays its dirty bits on the line at the
point of coherence, changes no other byte and leaves the copy clean; a copy without dirty bits may be dropped; a store through
a window to a tile register is performed when the window is ready; one that the target refuses then stores nothing and leaves its
fault owed by the group. -/
def Rules.AccessesPerformed : Prop :=
  (∀ c line colour s k, s.copy? c line colour = some k → k.hpa = none → k.dirty ≠ [] → rising k.dirty = true →
    (∀ p ∈ k.dirty, p.1 < 128) → (∀ core, c = .l1 core → s.remote core line none = false) → NoSync s (128 * line) 128 →
    ∃ t, exec (.dirtyWriteback c line colour) s = .next t ∧ t.copy? c line colour = some k.clean ∧
      ∀ a, byteAt t.mem a =
        if a / 128 = line then blend (byteAt s.mem a) (byteAt k.data (a % 128)) (mget 0 k.dirty (a % 128))
        else byteAt s.mem a) ∧
  (∀ c line colour s k, s.copy? c line colour = some k → k.isDirty = false →
    ∃ t, exec (.copyDrop c line colour) s = .next t ∧ t.copy? c line colour = none ∧ { t with copies := s.copies } = s ∧
      ∀ c' line' colour', ¬(c' = c ∧ line' = line ∧ colour' = colour) →
        t.copy? c' line' colour' = s.copy? c' line' colour') ∧
  (∀ wid w s, mfind s.wins wid = some w → s.winReady w = false → exec (.windowAccess wid) s = .next s) ∧
  (∀ wid w s team core tl o tm r, mfind s.wins wid = some w → w.id = wid → s.winReady w = true → w.load = none →
    s.syncs = [] → s.winFault w.addr w.bytes true none = none →
    s.winTgt w.addr = some (.tile team core tl o) → s.team? team = some tm → tm.id = team → tm.core? core = some r →
    ∃ t tm' r', exec (.windowAccess wid) s = .next t ∧ mfind t.wins wid = none ∧ t.team? team = some tm' ∧
      tm'.core? core = some r' ∧
      (mget Tile.zero r'.tiles tl).bytes = blendBytes (mget Tile.zero r.tiles tl).bytes o (w.data.zip w.mask) ∧
      (∀ n, n ≠ tl → mget Tile.zero r'.tiles n = mget Tile.zero r.tiles n) ∧ SameMem s t) ∧
  (∀ wid w s c g, mfind s.wins wid = some w → w.id = wid → s.winReady w = true → w.load = none → s.syncs = [] →
    s.winFault w.addr w.bytes true none = some c → s.group? w.byTeam w.byGid = some g → g.team = w.byTeam → g.gid = w.byGid →
    g.owed = none →
    exec (.windowAccess wid) s =
      .next ({ s with wins := mdel s.wins wid }.setGroup { g with owed := some (c, w.addr) }))

/-- The events that end waits, age groups, fault a fetch and perform accesses under way. Where the spec leaves it open
the model chooses: frames of a failed fetch (log entry 32), reach of window accesses (log entry 45). -/
def Obligations.WaitsAndAccesses : Prop := Rules.GroupEvents ∧ Rules.AccessesPerformed

namespace Sys2Proof.Machine

open Sys2Proof

/-! ### Engine commands and launches -/

/-- Command `cid`, under its own identity, of a team that no frozen session stops (18 R417). -/
structure LiveCmd (s : State) (cid : Nat) (c : Cmd) : Prop where
  stored : mfind s.cmds cid = some c
  named : c.id = cid
  thawed : s.frozenTeam c.fn c.team = false

/-- The command is the first queued one of its queue (14 R312). -/
structure AtHead (s : State) (c : Cmd) : Prop where
  queued : c.state = .queued
  head : ((s.engQueue c.core c.fn c.gather).filter (fun x => x.state == .queued)).head?.map (·.id) = some c.id

/-- What the acquire flag of a command leads to (12 R263; 14 R312, R313): it goes on at once or when V has reached the amount, it
waits, or the command ends because its sync object may not be accessed or V is in an uncorrectable sector. -/
def AcquireLeads (s : State) (c : Cmd) (o : Host.Outcome State Fault Refusal) : Prop :=
  (c.rcd.acq = none ∨ (s.flagFault c.rcd.synca = none ∧ s.badSec? c.rcd.synca.addr 8 = none ∧
      c.rcd.acqv.toNat ≤ (s.syncV c.rcd.synca.addr).toNat) →
    o = .next (s.setCmd { c with state := if c.rcd.coll = 0 then .active else .ring })) ∧
  (∀ code a, c.rcd.acq ≠ none → s.flagFault c.rcd.synca = some (code, a) →
    o = .next (s.setCmd { c with state := .finishing 3 code, faddr := a })) ∧
  (c.rcd.acq ≠ none → s.flagFault c.rcd.synca = none → s.badSec? c.rcd.synca.addr 8 = none → (s.syncV c.rcd.synca.addr).toNat < c.rcd.acqv.toNat →
    o = .next (s.setCmd { c with state := .acquiring })) ∧
  (∀ sec, c.rcd.acq ≠ none → s.flagFault c.rcd.synca = none → s.badSec? c.rcd.synca.addr 8 = some sec →
    o = .next (s.setCmd { c with state := .finishing 3 cUNCORR, faddr := 32 * sec }))

/-- It is the turn of the command's function at its engine (14 R320, 16 R349). -/
def EngineTurn (s : State) (c : Cmd) (d : List (Nat × Nat)) : Prop :=
  s.wdrrPick (s.turn c.server) ((List.range 64).filter (fun f =>
    ((s.cmds.map (·.2)).filter (fun x => x.server == c.server && s.chunkReady x)).any (fun x => x.fn == f))) = some (c.fn, d)

/-- The next chunk of a plain copy is one element, from `a` to `d` in device memory (14 R304, R313): tagged capabilities that are
not revoked, of colours with a key, nothing compute-only or uncorrectable, a label that DST admits, and no tag to keep. -/
structure OneElement (s : State) (c : Cmd) (a d : Nat) : Prop where
  active : c.state = .active
  plain : c.gather = false ∧ c.rcd.coll = 0 ∧ c.rcd.red = 0 ∧ c.peers = []
  kinds : c.rcd.src.kind = 0 ∧ c.rcd.dst.kind = 0 ∧ c.rcd.src.has pLDCAP = false
  live : ∀ k ∈ [c.rcd.src, c.rcd.dst], k.tag = true ∧ s.isRevoked k = false ∧ s.keyed k.col = true
  elem : c.chunkElems (fun _ => 0) = [⟨c.pos, some (a : Int), some (d : Int)⟩]
  src : isDev a = true ∧ s.badSec? a c.rcd.esize = none ∧ s.coAt a c.rcd.esize = false
  dst : isDev d = true ∧ s.coAt d c.rcd.esize = false ∧ NoSync s d c.rcd.esize
  label : (s.lblAt a c.rcd.esize).toNat ≤ lblLimit c.rcd.dst d
  area : ∀ p ∈ s.grids, p.2.ovflMeets a c.rcd.esize = false
  defined : Cmd.plainBytes c.rcd.esize c.writes (c.reads (fun _ => 0)) = true

/-- A launch packet that a queue of its revision reads and a NOP is not, whose record can be reached and whose completion
record can be written (16 R342 to R344). -/
structure PacketReady (s : State) (fn q : Nat) (b : List Byte) (c : Ctx) : Prop where
  read : s.packet fn q = .bytes b
  revision : imgNat b 0 2 = (s.queue fn q).rev
  launch : imgNat b 2 1 = 1
  now : s.serialWait fn q b = false
  ctx : s.lrecCtx fn b = some c
  fields : packetField b true = none
  cmpl : imgNat b 0x10 8 % 32 = 0
  reach : s.reach fn (s.cmplPasid fn (some c)) (imgNat b 0x10 8) 32 true = .ok
  sound : s.badSec? (imgNat b 8 8) 256 = none

/-- Teams and grids are stored under their own identities. -/
def Identified (s : State) : Prop :=
  (∀ id t, s.team? id = some t → t.id = id) ∧ (∀ id g, s.grid? id = some g → g.id = id)

/-- What the termination of a grid that has not completed leaves (16 R346, R347; 02 R48): its record will have STATUS 2, the code, and
a KID that none of the teams terminated or dropped lies below; the teams not yet admitted are dropped; a team with a group in a run
terminates when its runs have ended, another retires at once and its groups are gone. -/
def GridEnds (s : State) (id : Nat) (code : Byte) (gr : Grid) : Prop :=
  let t := s.terminateGrid id code
  (∃ k, t.grid? id = some { gr with nextKid := max gr.nextKid gr.nteams, term := some (code, k) } ∧
    (∀ g clk, t.grid? id = some g → g.record clk = launchRecord gr.tag 2 code 0 k gr.start clk) ∧
    (gr.nextKid < gr.nteams → k ≤ gr.nextKid) ∧
    ∀ team tm, s.team? team = some tm → tm.grid = id → tm.status ≠ .retired → k ≤ tm.kid) ∧
  (∀ c ∈ t.claims, c.grid ≠ id) ∧
  ∀ team tm, s.team? team = some tm → tm.grid = id → tm.status ≠ .retired →
    ∃ tm', t.team? team = some tm' ∧
      (s.anyRunning team = true → tm'.term.isSome = true ∧ tm'.status = tm.status) ∧
      (s.anyRunning team = false → tm'.status = .retired ∧ tm'.cores = [] ∧ ∀ p ∈ t.groups, p.2.team ≠ team)

/-- A packet of another revision (16 R345): the queue stops at it with ENGINE_REVISION and raises the queue-error vector, its record
has STATUS 3; with a CMPL that fails its test, no record is written and STOPCODE is that fault. -/
def RevisionStops (fn q : Nat) (s : State) (b : List Byte) : Prop :=
  let p := s.ringPasid fn
  let a := imgNat b 0x10 8
  let stops (code : Byte) (t : State) : Prop := (t.queue fn q).stopped = true ∧ (t.queue fn q).running = false ∧
    (t.queue fn q).stopcode = code ∧ (t.queue fn q).rdidx = (s.queue fn q).rdidx ∧ (t.fn fn).qerr = (s.fn fn).qerr + 1
  (a % 32 ≠ 0 → ∃ t, exec (.launch fn q) s = .next t ∧ SameMem s t ∧ stops cALIGN t) ∧
  (a % 32 = 0 → s.reach fn p a 32 true = .ok → isHost a = false → NoSync s a 32 → ∃ t, exec (.launch fn q) s = .next t ∧
    bytesAt t.mem a 32 = launchRecord (BitVec.ofNat 64 (imgNat b 0x18 8)) 3 cENGREV 0 0 0 s.clk ∧ stops cENGREV t) ∧
  (a % 32 = 0 → ∀ code, s.reach fn p a 32 true = .bad code → ∃ t, exec (.launch fn q) s = .next t ∧ SameMem s t ∧ stops code t) ∧
  (a % 32 = 0 → ∀ asks, s.reach fn p a 32 true = .wait asks → exec (.launch fn q) s = .next (s.askAll fn asks true))

/-- The place of a function in a round that starts behind `last` (16 R349). -/
def visitAt (last f : Nat) : Nat := (f + 63 - last) % 64

end Sys2Proof.Machine

/-- The life of an engine command (14 R304 to R308, R312 to R315, R320; 09 R214): at its queue's head, with fewer than four in
progress, it begins, waits for its acquire or its ring, or ends DISCARDED; a ring whose ranks agree goes on, another ends; a switch
that answers, fails or loses its link; in its function's turn, a chunk of one element of a plain copy; its completion record,
release and end; a receiver takes a drain. -/
def Rules.EngineEvents : Prop :=
  (∀ s cid c, LiveCmd s cid c → AtHead s c →
    (c.decided = none → exec (.engineCommandBegin cid) s = .next s) ∧
    (c.decided = some false → exec (.engineCommandBegin cid) s = .next (s.setCmd { c with state := .finishing 1 0 })) ∧
    (c.decided = some true → s.inProgress c < 4 → AcquireLeads s c (exec (.engineCommandBegin cid) s)) ∧
    (c.decided = some true → 4 ≤ s.inProgress c → exec (.engineCommandBegin cid) s = .next s)) ∧
  (∀ s cid c, LiveCmd s cid c → c.state = .acquiring → AcquireLeads s c (exec (.engineCommandBegin cid) s)) ∧
  (∀ s cid c peers, LiveCmd s cid c → c.state = .ring →
    (∀ p ∈ s.cmds, p.1 < cid → p.2.isDone = false → p.2.sameCollective c = false) → s.inProgress c < 4 →
    (∀ dg, s.devgroup = some dg → ∀ m ∈ c.rcd.ringRanks, m = dg.own ∨ s.portOk dg m = true) →
    peers.map (·.pos) = (List.range c.ringSize).filter (fun p => p != c.ringPos) →
    let held := ((s.ctx? c.ctx).bind (fun x => x.shape? c.handle.toNat)).any (fun r => r.swstate == 1)
    ((∃ x ∈ peers, x.agrees = false) →
      exec (.collectiveRingForm cid peers) s = .next (s.setCmd { c with peers := peers, state := .finishing 4 0 })) ∧
    ((∀ x ∈ peers, x.agrees = true) →
      (c.rcd.sw = false →
        exec (.collectiveRingForm cid peers) s = .next (s.setCmd { c with peers := peers, state := .active })) ∧
      (c.rcd.sw = true → held = true → exec (.collectiveRingForm cid peers) s =
        .next (s.setCmd { c with peers := peers, switched := true, state := .active })) ∧
      (c.rcd.sw = true → held = false → ∃ t, exec (.collectiveRingForm cid peers) s = .next t ∧ SameMem s t ∧
        mfind t.cmds cid = some { c with peers := peers, state := .switchWait, asked := true }))) ∧
  (∀ s cid c granted, LiveCmd s cid c → c.asked = true →
    let c1 : Cmd := { c with asked := false }
    (c.state = .switchWait → ∃ t, exec (.switchResponse cid granted) s = .next t ∧ SameMem s t ∧
      mfind t.cmds cid = some (if granted then { c1 with switched := true, state := .active }
        else if c.rcd.fallback then { c1 with state := .active } else { c1 with state := .finishing 2 0 })) ∧
    (c.state ≠ .switchWait → c.waited = false → ∃ t, exec (.switchResponse cid granted) s = .next t ∧ SameMem s t ∧
      mfind t.cmds cid = some c1) ∧
    (∀ x r, s.ctx? c.ctx = some x → x.colour = c.ctx → x.shape? c.handle.toNat = some r → ∃ t x' r',
      exec (.switchResponse cid granted) s = .next t ∧ t.ctx? c.ctx = some x' ∧ x'.shape? c.handle.toNat = some r' ∧
        r'.swstate = if granted = true ∨ r.swstate = 1 then 1
          else if ∃ p ∈ s.cmds, p.1 ≠ cid ∧ p.2.asked = true ∧ p.2.ctx = c.ctx ∧ p.2.handle = c.handle then 3 else 2)) ∧
  (∀ s cid c, LiveCmd s cid c → c.state = .active → c.switched = true →
    exec (.switchFailure cid) s = .next (s.setCmd { c with state := .finishing 3 cLINK })) ∧
  (∀ s cid c a d dfc, LiveCmd s cid c → OneElement s c a d → EngineTurn s c dfc →
    ∃ t c', exec (.engineChunk cid) s = .next t ∧ mfind t.cmds cid = some c' ∧ c'.pos = c.chunkEnd ∧
      c'.chunks = c.chunks + 1 ∧ c'.state = (if c.total ≤ c.chunkEnd then .finishing 0 0 else .active) ∧
      c'.lbl = Label.max c.lbl (s.lblAt a c.rcd.esize) ∧
      t.turn c.server = ⟨mmod 0 dfc c.fn (fun n => n - 1), c.fn⟩ ∧
      (∀ j, j < c.rcd.esize → byteAt t.mem (d + j) = byteAt s.mem (a + j)) ∧
      (∀ x, ¬(d ≤ x ∧ x < d + c.rcd.esize) → byteAt t.mem x = byteAt s.mem x)) ∧
  (∀ s cid c status code, LiveCmd s cid c → c.state = .finishing status code → c.waited = false →
    let k := c.rcd.cmpl
    let a := k.addr + 16 * (c.step.toNat % 2 ^ c.rcd.clog2)
    let ended (c : Cmd) (status : Nat) (code : Byte) : Cmd := { c with state := .done status code, page := none, lost := false }
    (k = ⟨0, false⟩ → c.rcd.rel = none → ∃ t, exec (.engineCommandComplete cid) s = .next t ∧ SameMem s t ∧
      mfind t.cmds cid = some (ended c status code)) ∧
    (k.tag = true → s.isRevoked k = false → s.keyed k.col = true → isHost a = false → c.rcd.rel = none → NoSync s a 16 →
      ∃ t, exec (.engineCommandComplete cid) s = .next t ∧ bytesAt t.mem a 16 = c.record status code ∧
        mfind t.cmds cid = some (ended c status code)) ∧
    (k.tag = true → s.isRevoked k = true → c.rcd.rel = none → ∃ t, exec (.engineCommandComplete cid) s = .next t ∧ SameMem s t ∧
      mfind t.cmds cid = some (if status ≤ 1 then ended { c with faddr := a } 3 cTAG else ended c status code)) ∧
    (∀ sc op, k = ⟨0, false⟩ → c.rcd.rel = some (sc, op) → status = 0 → s.flagFault c.rcd.syncr = none → s.badSec? c.rcd.syncr.addr 8 = none →
      s.markersOf [.engine c.core] (sc == 7) = [] →
      ∃ t, exec (.engineCommandComplete cid) s = .next t ∧
        t.syncV c.rcd.syncr.addr = relNew op (s.syncV c.rcd.syncr.addr) c.rcd.relv ∧
        mfind t.cmds cid = some (ended c status code)) ∧
    (∀ code' a', k = ⟨0, false⟩ → c.rcd.rel ≠ none → status = 0 → s.flagFault c.rcd.syncr = some (code', a') →
      ∃ t, exec (.engineCommandComplete cid) s = .next t ∧ SameMem s t ∧
        mfind t.cmds cid = some (ended { c with faddr := a' } 3 code')) ∧
    (∀ sc op, k = ⟨0, false⟩ → c.rcd.rel = some (sc, op) → status = 0 → s.flagFault c.rcd.syncr = none →
      s.markersOf [.engine c.core] (sc == 7) ≠ [] →
      exec (.engineCommandComplete cid) s =
        .next ((s.setCmd { c with state := .releasing false }).syncIssue c.team c.gid (.engine c.id) sc 0 [.engine c.core]))) ∧
  (∀ s team acc x rt st gr, Identified s → s.team? team = some rt → s.grid? rt.grid = some gr →
    (mget MRec.zero rt.mrecs acc).nextSender = some x → s.team? x.2.1 = some st → rt.onCore = true → st.onCore = true →
    (mget MRec.zero rt.mrecs acc).armed = true → (mget MRec.zero rt.mrecs acc).allHeld = true →
    ∃ t rt', exec (.drainTake team acc x.1) s = .next t ∧ t.team? team = some rt' ∧
      (mget MRec.zero rt'.mrecs acc).notified = (mget MRec.zero rt.mrecs acc).notified.filter (fun y => y != x) ∧
      SameMem s t)

/-- What reaches the engines from the device group (14 R313; 17 R387; 18 R415): the loss of a member ends the commands under
way with it; a message that does not verify, or whose counter does not rise, has no effect; one that the token's checks refuse
changes only the counter; a write that passes them is performed; one that must wait is not taken, and asks for its page. -/
def Rules.GroupMessages : Prop :=
  (∀ s dg member, s.devgroup = some dg → member < dg.hashes.length → member ≠ dg.own → member ∉ dg.lost →
    ∃ t, exec (.linkLost member) s = .next t ∧ t.devgroup = some { dg with lost := dg.lost ++ [member] } ∧ SameMem s t ∧
      ∀ id c, mfind s.cmds id = some c → mfind t.cmds id = some
        (if (c.state = .active ∨ c.state = .switchWait) ∧ member ∈ c.members then { c with state := .finishing 3 cLINK }
          else c)) ∧
  (∀ s dg m, s.devgroup = some dg →
    (m.tagOk = false ∨ m.counter ≤ mget 0 dg.recvCtr m.sender ∨ s.portOk dg m.sender = false) →
    exec (.groupChunkReceive m) s = .next s) ∧
  (∀ s dg m, s.devgroup = some dg → m.sender < dg.hashes.length → m.sender ≠ dg.own → m.tagOk = true →
    mget 0 dg.recvCtr m.sender < m.counter → m.sender ∉ dg.lost → s.portOk dg m.sender = true →
    let s1 : State := { s with devgroup := some { dg with recvCtr := mput dg.recvCtr m.sender m.counter } }
    (∀ code, s1.peerRefusal dg m = some code → exec (.groupChunkReceive m) s = .next s1) ∧
    (∀ k r l, s1.peerRefusal dg m = none → s1.peerEntry ⟨m.token, true⟩ = some (k, r, l) →
      let a := (k.bounds.1 + (m.offset : Int)).toNat
      (m.write = true → isWin a = false → isHost a = false → NoSync s a m.data.length →
        ∃ t, exec (.groupChunkReceive m) s = .next t ∧ t.devgroup = s1.devgroup ∧
          bytesAt t.mem a m.data.length = m.data ∧
          ∀ x, ¬(a ≤ x ∧ x < a + m.data.length) → byteAt t.mem x = byteAt s.mem x) ∧
      (m.write = false → isWin a = false → isHost a = false → exec (.groupChunkReceive m) s = .next s1) ∧
      (s1.peerPerform k m a = none → exec (.groupChunkReceive m) s = .next (s.peerAsk k m a))))

/-- The life of engine commands, and what comes from the device group. Where the spec leaves it open the model
chooses: the checks of a flag (log entry 124), which capabilities a chunk checks (log entry 61), engine releases (log
entry 62), counters of messages (log entry 66), the rounds of engines (log entry 122). -/
def Obligations.EngineAndGroupEvents : Prop := Rules.EngineEvents ∧ Rules.GroupMessages

/-- Launch queues (16 R341 to R347; 02 R35, R36): a queue is enabled when its registers and its ring are in order,
reports why not, or asks for the pages of its ring; a notify sets the write index; a queue with nothing to read goes
on as it is, one that cannot read stops; a packet whose record is in order makes a grid, another is refused at the
field's offset, one of another revision stops the queue; a NOP is passed; a terminate command ends its grid or reports
that there is none. Where the spec leaves it open the model chooses: queue stops (log entry 67), the ranges of a
launch (log entry 70). -/
def Obligations.LaunchQueues : Prop :=
  (∀ fn q s, fn < 64 → q < 16 →
    let x := s.queue fn q
    let p := s.ringPasid fn
    let n := 64 * 2 ^ x.qlog
    (x.enable = true → exec (.lqEnable fn q) s = .next s) ∧
    (x.enable = false → x.rev ≠ 1 ∨ x.qlog < 4 ∨ 16 < x.qlog → exec (.lqEnable fn q) s =
      .next (s.setQueue fn q { x with enabling := false, stopcode := cENGREV })) ∧
    (x.enable = false → x.rev = 1 → 4 ≤ x.qlog → x.qlog ≤ 16 →
      (x.qbase.toNat % 4096 ≠ 0 → exec (.lqEnable fn q) s =
        .next (s.setQueue fn q { x with enabling := false, stopcode := cCOLOUR })) ∧
      (x.qbase.toNat % 4096 = 0 →
        (s.reach fn p x.qbase.toNat n false = .ok → exec (.lqEnable fn q) s =
          .next (s.setQueue fn q { x with
            enable := true, running := true, stopped := false, stopcode := 0, enabling := false })) ∧
        (∀ code, s.reach fn p x.qbase.toNat n false = .bad code → exec (.lqEnable fn q) s =
          .next ((s.takeRange fn p x.qbase.toNat n).setQueue fn q { x with enabling := false, stopcode := code })) ∧
        (∀ asks, s.reach fn p x.qbase.toNat n false = .wait asks → exec (.lqEnable fn q) s =
          .next ((s.askAll fn asks false).setQueue fn q { x with enabling := true }))))) ∧
  (∀ fn q w s, fn < 64 → q < 16 → exec (.lqNotify fn q w) s = .next (s.setQueue fn q { s.queue fn q with wridx := w })) ∧
  (∀ fn q s, ∀ i ∈ [Instr.launch fn q, .nopPacket fn q],
    (s.packet fn q = .none → exec i s = .next s) ∧
    (s.packet fn q = .range → exec i s = .next (s.stopQueue fn q cILOPER)) ∧
    (∀ asks, s.packet fn q = .wait asks → exec i s = .next (s.askAll fn asks false)) ∧
    (∀ code, s.packet fn q = .lost code → ∃ t, exec i s = .next t ∧ SameMem s t ∧
      (t.queue fn q).stopcode = code ∧ (t.queue fn q).running = false ∧
      (t.queue fn q).rdidx = (s.queue fn q).rdidx ∧ (t.fn fn).qerr = (s.fn fn).qerr + 1)) ∧
  (∀ fn q s b, s.packet fn q = .bytes b →
    (imgNat b 0 2 ≠ (s.queue fn q).rev → RevisionStops fn q s b ∧ exec (.nopPacket fn q) s = .next s) ∧
    (imgNat b 2 1 = 0 → imgNat b 0 2 = (s.queue fn q).rev → exec (.launch fn q) s = .next s) ∧
    (imgNat b 2 1 ≠ 0 → exec (.nopPacket fn q) s = .next s) ∧
    (imgNat b 2 1 ≠ 0 → imgNat b 0 2 = (s.queue fn q).rev → s.serialWait fn q b = true → exec (.launch fn q) s = .next s) ∧
    (∀ off, imgNat b 2 1 ≠ 0 → imgNat b 0 2 = (s.queue fn q).rev → s.serialWait fn q b = false →
      let p := s.cmplPasid fn (s.lrecCtx fn b)
      packetField b (s.lrecCtx fn b).isSome = some off →
      (imgNat b 0x10 8 % 32 ≠ 0 → exec (.launch fn q) s = .next ((s.stopQueue fn q cALIGN).queueError fn)) ∧
      (imgNat b 0x10 8 % 32 = 0 → s.reach fn p (imgNat b 0x10 8) 32 true = .ok →
        exec (.launch fn q) s = .next (s.refusePacket fn q b p off)))) ∧
  (∀ fn q s b c, PacketReady s fn q b c →
    let a := imgNat b 8 8
    let gr := s.gridOf c a fn q b
    (s.recordRefusal c a gr = none → ∃ t, exec (.launch fn q) s = .next t ∧ SameMem s t ∧
      t.grid? s.nextId = some { gr with id := s.nextId } ∧ (t.queue fn q).rdidx = (s.queue fn q).rdidx + 1) ∧
    (∀ off, s.recordRefusal c a gr = some off → isHost (imgNat b 0x10 8) = false → NoSync s (imgNat b 0x10 8) 32 →
      ∃ t, exec (.launch fn q) s = .next t ∧
      bytesAt t.mem (imgNat b 0x10 8) 32 = launchRecord (BitVec.ofNat 64 (imgNat b 0x18 8)) 1 0 off 0 0 s.clk ∧
      t.grids = s.grids ∧ (t.queue fn q).rdidx = (s.queue fn q).rdidx + 1)) ∧
  (∀ fn q s b, s.packet fn q = .bytes b → imgNat b 0 2 = (s.queue fn q).rev → imgNat b 2 1 = 0 →
    s.serialWait fn q b = false → packetField b (s.lrecCtx fn b).isSome = none →
    exec (.nopPacket fn q) s = .next (s.setQueue fn q { s.queue fn q with rdidx := (s.queue fn q).rdidx + 1 })) ∧
  (∀ fn q s, fn < 64 → q < 16 →
    let x := s.queue fn q
    let found := (s.grids.map (·.2)).find? (fun g => g.fn == fn && g.queue == q && g.tag == x.ktag && !g.complete)
    (found = none → exec (.lqTerminate fn q 1) s = .next (s.setQueue fn q { x with kstat := 3, kgrid := 0 })) ∧
    (∀ g, found = some g → exec (.lqTerminate fn q 1) s =
      .next ((s.setQueue fn q { x with kstat := 1, kgrid := g.id }).terminateGrid g.id 0)) ∧
    (∀ w, w ≠ 1 → exec (.lqTerminate fn q w) s = .next s)) ∧
  (∀ s id code gr, Identified s → s.grid? id = some gr → gr.complete = false → GridEnds s id code gr)

/-- Which function and which unit a server and the dispatcher serve next (16 R349 to R352). A server goes on with its function while
its deficit lasts, and else visits the functions in ascending order, cyclically: one with a weight is served and its deficit rises by
it, one of weight 0 only when no ready function has a weight; the deficits of functions without a ready unit that it passes fall
to 0. The dispatcher restores the SAVED team of the lowest PRIO before it seats a team of its first grid, in order of PRIO and
acceptance, that can be placed or can pre-empt; it pre-empts only where the unit fits nowhere, with as few victims as free a
placement. -/
def Rules.Dispatch : Prop :=
  (∀ (s : State) (t : Turn) (ready : List Nat), t.last < 64 → (∀ f ∈ ready, f < 64) →
    let w (f : Nat) : Nat := (s.fn f).weight
    (s.wdrrPick t ready = none ↔ ready = []) ∧
    ∀ (f : Nat) (d : List (Nat × Nat)), s.wdrrPick t ready = some (f, d) → f ∈ ready ∧ 1 ≤ mget 0 d f ∧
      (∀ g ∈ ready, g ≠ f → mget 0 d g = mget 0 t.deficit g) ∧
      (t.last ∈ ready → 1 ≤ mget 0 t.deficit t.last → f = t.last ∧ d = t.deficit) ∧
      (t.last ∉ ready ∨ mget 0 t.deficit t.last = 0 →
        mget 0 d f = (if w f = 0 then 1 else mget 0 t.deficit f + w f) ∧
        (w f = 0 → ∀ g ∈ ready, w g = 0) ∧
        (∀ g ∈ ready, (w g ≠ 0 ∨ ∀ h ∈ ready, w h = 0) → visitAt t.last f ≤ visitAt t.last g) ∧
        (∀ g, g < 64 → g ∉ ready → (g = t.last ∨ visitAt t.last g < visitAt t.last f) → mget 0 d g = 0))) ∧
  (∀ (s : State) f d, s.wdrrNext = some (f, d) → f < 64 ∧
    ((∃ team, s.plan f = some (.restore team)) ∨ ∃ grid place, s.plan f = some (.seatUnit grid place))) ∧
  (∀ (s : State) fn team, s.savedNext fn = some team → s.plan fn = some (.restore team)) ∧
  (∀ (s : State) fn team, Identified s → s.savedNext fn = some team →
    (∃ (t : Team) (gr : Grid), t ∈ s.teams.map (·.2) ∧ t.id = team ∧ t.status = .saved ∧ s.grid? t.grid = some gr ∧ gr.fn = fn ∧
      s.canRestore t gr = true ∧
      ∀ (x : Team) (gx : Grid), x ∈ s.teams.map (·.2) → x.status = .saved → s.grid? x.grid = some gx → gx.fn = fn → s.canRestore x gx = true →
        s.prioOf team < s.prioOf x.id ∨ (s.prioOf team = s.prioOf x.id ∧ t.admitClk ≤ x.admitClk))) ∧
  (∀ (s : State) fn p, s.savedNext fn = none → s.plan fn = some p →
    ∃ (before : List Grid) (gr : Grid) (after : List Grid), s.gridOrder fn = before ++ gr :: after ∧ (∀ x ∈ before, s.gridPlan x = none) ∧ s.gridPlan gr = some p) ∧
  (∀ (s : State) fn, (∀ (g : Grid), g ∈ s.gridOrder fn ↔ g ∈ s.grids.map (·.2) ∧ g.fn = fn ∧ g.complete = false ∧ g.nextKid < g.nteams) ∧
    (s.gridOrder fn).Pairwise (fun (a b : Grid) => a.prio < b.prio ∨ (a.prio = b.prio ∧ a.id ≤ b.id))) ∧
  (∀ (s : State) (gr : Grid) c grid place vs, s.ctx? gr.colour = some c → s.gridPlan gr = some (.preempt grid place vs) →
    grid = gr.id ∧ (∀ k ∈ s.claims, k.grid ≠ gr.id) ∧ s.placeBy c gr (s.seatFits gr []) = none ∧ place ∈ s.placements c gr ∧
    vs ≠ [] ∧ (∀ seat ∈ place, s.seatFits gr vs seat = true) ∧
    (∀ v ∈ vs, ∃ (x : Team), x ∈ s.teams.map (·.2) ∧ s.victimOk gr.prio gr.fn x = true ∧ v ∈ s.block x) ∧
    ∀ p ∈ s.placements c gr, ∀ us ∈ s.victimSets gr p, vs.length ≤ us.length)

/-- The dispatcher's work (02 R37, R41, R47, R48; 16 R346, R349 to R353; 19 R434, R436): the unit of the function whose turn
it is is admitted with its groups at the entry, or its victims start to be saved; a team whose work has settled is SAVED, or is
ADMITTED again when the save area is full, and is restored in its function's turn; a DRAINING team whose work is done retires; a
grid whose teams have all retired gathers the markers of its writes, writes its record and completes. -/
def Rules.TeamEvents : Prop :=
  (∀ fn d grid seat gr s, s.wdrrNext = some (fn, d) → s.plan fn = some (.seatUnit grid [seat]) → s.grid? grid = some gr →
    gr.id = grid → gr.ngroups ≤ 32 → ∃ t tm, exec (.teamAdmit fn) s = .next t ∧ SameMem s t ∧
      t.team? s.nextId = some tm ∧ tm.kid = gr.nextKid ∧ tm.status = .admitted ∧ tm.cores.map (·.core) = seat ∧
      (∀ gid, gid < gr.ngroups → ∃ slot, t.group? s.nextId gid =
        some (Group.fresh gr s.nextId gid (seat.getD (gr.memberOf gid) 0) (gid % 4) slot s.clk s.now)) ∧
      t.grid? grid = some { gr with nextKid := gr.nextKid + 1, start := if gr.nextKid = 0 then s.clk else gr.start } ∧
      t.lastFn = fn) ∧
  (∀ fn grid place vs s, s.plan fn = some (.preempt grid place vs) → ∃ t, exec (.preemption fn) s = .next t ∧ SameMem s t ∧
    t.claims = s.claims ++ [⟨grid, place, vs⟩] ∧
    ∀ id tm, s.team? id = some tm → t.team? id = some (if tm.id ∈ vs then { tm with status := .saving } else tm)) ∧
  (∀ team tm gr c s, Identified s → s.team? team = some tm → s.grid? tm.grid = some gr → s.ctx? gr.colour = some c →
    tm.status = .saving → tm.term = none → s.settled tm = true → s.saveBad tm = none → (∀ a n, s.badSec? a n = none) →
    ∃ t tm', exec (.teamSave team) s = .next t ∧ t.team? team = some tm' ∧
      tm'.status = (if (placeAll (c.saveLen / 4096) gr.imageSizes (s.dirUsed c)).isSome then .saved else .admitted)) ∧
  (∀ team tm gr c d s, Identified s → s.team? team = some tm → s.grid? tm.grid = some gr → s.ctx? gr.colour = some c →
    s.savedNext gr.fn = some team → s.wdrrNext = some (gr.fn, d) → (∀ a n, s.badSec? a n = none) →
    ∃ t tm', exec (.teamRestore team) s = .next t ∧ t.team? team = some tm' ∧ t.lastFn = gr.fn ∧
      (tm'.status = .admitted ∨ tm'.status = .draining)) ∧
  (∀ team tm s, Identified s → s.team? team = some tm → tm.status = .draining → tm.term = none → s.drained team = true →
    ∃ t tm', exec (.teamRetire team) s = .next t ∧ t.team? team = some tm' ∧ tm'.status = .retired ∧ tm'.cores = [] ∧
      (∀ p ∈ t.groups, p.2.team ≠ team)) ∧
  (∀ grid gr s, s.grid? grid = some gr → gr.id = grid → gr.complete = false → s.allRetired gr = true → s.copies = [] →
    s.gathering grid = false →
    (gr.gathered = false → s.markersOf s.cacheSources false ≠ [] → exec (.gridComplete grid) s =
      .next (s.syncIssue 0 0 (.grid grid) 6 0 s.cacheSources)) ∧
    (gr.gathered = true ∨ s.markersOf s.cacheSources false = [] → isHost gr.cmpl = false →
      s.reach gr.fn (s.pasidOf gr.fn gr.colour) gr.cmpl 32 true = .ok → NoSync s gr.cmpl 32 →
      ∃ t, exec (.gridComplete grid) s = .next t ∧ bytesAt t.mem gr.cmpl 32 = gr.record s.clk ∧
        t.grid? grid = some { gr with complete := true } ∧
        (gr.irq = true → gr.vector < 2048 → (t.fn gr.fn).msix = (s.fn gr.fn).msix ++ [gr.vector])))

/-- The dispatcher's choices and work (16 R346, R349 to R353; 02 R37, R41, R47, R48; 19 R434, R436). Where the spec
leaves it open the model chooses: the order of restores (log entry 72), slots (log entry 71), what a save keeps (log
entry 76), the round of the dispatcher (log entry 122). -/
def Obligations.TeamLife : Prop := Rules.TeamEvents ∧ Rules.Dispatch

namespace Sys2Proof.Machine

open Sys2Proof

/-! ### Management, the host, sessions, reliability -/

/-- No TDI locks the configuration of a colour: it has no context, or one of the PF (18 R411). -/
def Unlocked (s : State) (colour : Nat) : Prop := ∀ c, s.ctx? colour = some c → c.fn = 0

/-- A session that is ACTIVE under its own identity (18 R416). -/
structure ActiveSession (s : State) (x : Session) : Prop where
  stored : mfind s.sessions x.id = some x
  active : x.state = .active

/-- The registers of a function's BAR0 can be written (20 R445). -/
def BarOpen (s : State) (fn : Nat) : Prop := fn < 64 ∧ (fn = 0 ∨ 9 ≤ s.part.boot)

/-- A write of `n` bytes at an offset of a function's BAR0 leads to the state that its value gives. -/
def Writes (s : State) (fn off n : Nat) (t : BitVec 64 → State) : Prop :=
  ∀ v, exec (.registerWrite fn off n v) s = .next (t v)

/-- Writes of these sizes at these offsets have no effect. -/
def Ignores (s : State) (fn : Nat) (fields : List (Nat × Nat)) : Prop := ∀ p ∈ fields, Writes s fn p.1 p.2 (fun _ => s)

/-- A matching host line of an invalidation: a host line of the range, cached under a colour that the function's PASID table maps to
the PASID (18 R410). -/
def HostLine (s : State) (fn pasid iova len : Nat) (k : Copy) : Prop :=
  k.hpa.isSome = true ∧ overlaps (128 * k.line) 128 (2 ^ 55 + iova) len = true ∧
    (∃ p ∈ (s.fn fn).pasids, p.2.colour = k.colour) ∧ s.pasidOf fn k.colour = some pasid

/-- A group that a fault ring or a debugger finds STOPPED by a fault (19 R420). -/
structure FaultStopped (s : State) (team gid : Nat) (g : Group) (code : Byte) : Prop where
  ofGroup : s.group? team gid = some g
  named : g.team = team ∧ g.gid = gid
  stopped : g.status = .stopped ∧ g.debugStop = false ∧ g.stopCode = code

/-- The group goes on at RPC: READY, the threads of the frame's SUBSET at RPC, the others where they were, no register
changed (19 R432). -/
def GoesOn (t : State) (g : Group) : Prop :=
  ∃ g', t.group? g.team g.gid = some g' ∧ g'.status = .ready ∧ SameRegs g g' ∧
    ∀ i th th', g.threads[i]? = some th → g'.threads[i]? = some th' →
      th'.pc = if g.frame.subset.getLsbD i then BitVec.setWidth 56 g.frame.rpc else th.pc

end Sys2Proof.Machine

/-- Contexts, grants and mints (16 R348, R349; 17 R372, R374, R375; 20 R443): a context and its key are made and
reported; destroying it empties its key; a grant clears the tags, labels and CO of its range and no refused one
changes anything but GSTAT; a withdrawal revokes every 64-byte unit of its range and ends after its pass; a mint
writes a tagged capability. Where the spec leaves it open the model chooses: the reply and its checks (log entry 84),
grids of a destroyed context (log entry 82), split grants (log entry 89), data kept by a grant (log entry 133),
refused mints (log entry 86). -/
def Obligations.GrantsAndMints : Prop :=
  (∀ r s, s.ctxReqOk r = true → isHost r.replyAt = false → r.replyAt + 64 ≤ s.reservedBase → NoSync s r.replyAt 64 →
    ∃ t c, exec (.contextCreate r) s = .next t ∧ t.ctx? r.colour = some c ∧ c.colour = r.colour ∧ c.fn = r.fn ∧
      c.shared = r.shared ∧ c.saveBase = r.saveBase ∧ c.saveLen = r.saveLen ∧ c.retired = s.retiredPairs ∧
      t.keyed r.colour = true ∧ bytesAt t.mem r.replyAt 64 = s.ctxReply c ∧
      ∀ x, ¬(r.replyAt ≤ x ∧ x < r.replyAt + 64) → (∀ g ∈ s.rangesOf r.colour, ¬(g.1 ≤ x ∧ x < g.1 + g.2)) →
        byteAt t.mem x = byteAt s.mem x) ∧
  (∀ colour s, (s.ctx? colour).isSome = true → s.keyed colour = true → (∀ p ∈ s.grids, p.2.colour ≠ colour) →
    ∃ t, exec (.contextDestroy colour) s = .next t ∧ t.keyed colour = false ∧ SameMem s t ∧
      ∃ d, t.receiptsDue = s.receiptsDue ++ [d] ∧ d.colour = colour ∧ d.kind = 2) ∧
  (∀ colour shared c s, s.ctx? colour = some c → c.fn = 0 → shared.length ≤ 15 → (∀ x ∈ shared, x < 4096) →
    shared ≠ c.shared → exec (.setSharedColours colour shared) s = .next (s.setCtx { c with shared := shared })) ∧
  (∀ fn w s, fn < 64 → w ≤ 255 → exec (.setFunctionWeight fn w) s = .next (s.setFn fn { s.fn fn with weight := w })) ∧
  (∀ s, s.gblock.gstat = 1 → s.gblock.gop = 1 →
    let a := s.gblock.gbase.toNat
    let n := s.gblock.glen.toNat
    (s.grantRefused = true → exec .grant s = .next { s with gblock := { s.gblock with gstat := 3, pass := 0 } }) ∧
    (s.grantRefused = false → Unlocked s s.gblock.gcol.toNat → ∃ t, exec .grant s = .next t ∧ t.gblock.gstat = 2 ∧
      t.granted = s.granted ++ [⟨a, n, s.gblock.gcol.toNat, false⟩] ∧
      (∀ sec, overlaps (32 * sec) 32 a n = true → t.sideAt sec &&& 0x1F = 0) ∧
      (∀ sec, overlaps (32 * sec) 32 a n = false → t.sideAt sec = s.sideAt sec) ∧
      (∀ x, s.sameKey s.gblock.gcol.toNat (x / 32) = true → s.coSector (x / 32) = false → byteAt t.mem x = byteAt s.mem x) ∧
      (∀ x, ¬(a ≤ x ∧ x < a + n) → byteAt t.mem x = byteAt s.mem x))) ∧
  (∀ s, s.gblock.gstat = 1 → s.gblock.gop = 2 → s.gblock.pass = 0 →
    let a := s.gblock.gbase.toNat
    let n := s.gblock.glen.toNat
    a % 4096 = 0 → n % 4096 = 0 → n ≠ 0 → s.grantedTo s.gblock.gcol.toNat a n = true → Unlocked s s.gblock.gcol.toNat →
    ∃ t, exec .withdraw s = .next t ∧ t.gblock.gstat = 1 ∧ s.dredge.completed < t.gblock.pass ∧
      t.gblock.pass ≤ t.dredge.requested ∧
      ∀ u, mget false t.revoked u = (mget false s.revoked u || decide (a ≤ 64 * u ∧ 64 * u < a + n))) ∧
  (∀ s, s.gblock.gstat = 1 → s.gblock.pass ≠ 0 → s.gblock.glen ≠ 0 →
    (s.dredge.completed < s.gblock.pass → exec .withdrawComplete s = .next s) ∧
    (s.gblock.pass ≤ s.dredge.completed → ∃ t, exec .withdrawComplete s = .next t ∧ t.gblock.gstat = 2 ∧ SameMem s t ∧
      ∀ r ∈ t.granted, overlaps r.base r.len s.gblock.gbase.toNat s.gblock.glen.toNat = false ∨ r.len = 0)) ∧
  (∀ fn s, fn < 64 → (s.fn fn).mstat = 1 →
    (s.mintRefused fn = true → exec (.mint fn) s = .next (s.setFn fn { s.fn fn with mstat := 3 })) ∧
    (s.mintRefused fn = false → isDev (s.fn fn).mdest.toNat = true → NoSync s (s.fn fn).mdest.toNat 16 → ∃ t, exec (.mint fn) s = .next t ∧
      (t.fn fn).mstat = 2 ∧
      bytesAt t.mem (s.fn fn).mdest.toNat 16 = bytesOfNat 16 ((s.fn fn).mintCap).bits.toNat ∧
      t.tagAt (s.fn fn).mdest.toNat = s.storedTag (s.fn fn).mintCap))

/-- Sealed imports and the TDI (18 R400, R401, R411; 20 R447): an import decrypts into CO sectors that stay BUSY until its tag
decides between LIVE and FAILED; a release ends the entry; a change to a locked TDI, and a function-level reset of one, put it
into ERROR. The blob is read once, so the tag that decides is that of the bytes decrypted. -/
def Rules.SealedImports : Prop :=
  (∀ fn s, fn < 64 → (s.fn fn).sstat = 1 → (s.fn fn).sop = 1 →
    (∀ e, s.sealEntry fn = some e → ¬(e.state = .busy ∧ e.fn = fn)) →
    let f := s.fn fn
    let good := Config.gcmVerifies (s.sealArgs fn).1 (s.sealArgs fn).2.1 (s.sealArgs fn).2.2
      (bytesAt s.mem f.ssrc.toNat f.slen.toNat) (bytesAt s.mem (f.ssrc.toNat + f.slen.toNat) 16)
    (s.importRefused fn = true → exec (.sealImport fn) s = .next (s.setFn fn { f with sstat := 3 })) ∧
    (s.importRefused fn = false → ∃ t, exec (.sealImport fn) s = .next t ∧
      t.comap = s.comap ++ [⟨f.sdst.toNat, f.slen.toNat, f.skey.toNat, .busy, fn, good⟩] ∧
      (∀ sec, overlaps (32 * sec) 32 f.sdst.toNat f.slen.toNat = true → t.sideAt sec = 0x10) ∧
      (∀ j, j < f.slen.toNat → byteAt t.mem (f.sdst.toNat + j) =
        (Config.gcmDecrypt (s.sealArgs fn).1 (s.sealArgs fn).2.1 (bytesAt s.mem f.ssrc.toNat f.slen.toNat)).getD j 0) ∧
      (∀ x, ¬(f.sdst.toNat ≤ x ∧ x < f.sdst.toNat + f.slen.toNat) → byteAt t.mem x = byteAt s.mem x))) ∧
  (∀ fn s e, fn < 64 → (s.fn fn).sstat = 1 → (s.fn fn).sop = 1 → s.sealEntry fn = some e → e.fn = fn →
    (e.state = .busy → ∃ t, exec (.sealImportComplete fn) s = .next t ∧ SameMem s t ∧
      (t.fn fn).sstat = (if e.good then 2 else 4) ∧
      ∀ e' ∈ t.comap, e'.base = e.base → e'.state = if e.good then .live else .failed) ∧
    (e.state ≠ .busy → ∃ t, exec (.sealImportComplete fn) s = .next t ∧ SameMem s t ∧ (t.fn fn).sstat = 4 ∧
      ∀ e' ∈ t.comap, e'.base = e.base → e'.state = e.state)) ∧
  (∀ fn s e, fn < 64 → (s.fn fn).sstat = 1 → (s.fn fn).sop = 2 → s.sealEntry fn = some e →
    s.colourOf fn (s.fn fn).scol.toNat = true → s.grantedTo (s.fn fn).scol.toNat e.base e.len = true →
    ∃ t, exec (.sealRelease fn) s = .next t ∧ (t.fn fn).sstat = 2 ∧ (∀ e' ∈ t.comap, e'.base ≠ e.base) ∧
      ∀ sec, overlaps (32 * sec) 32 e.base e.len = true → t.sideAt sec &&& 0x1F = 0) ∧
  (∀ fn s, fn < 64 → fn ≠ 0 → (∀ p ∈ s.ctxs, p.2.fn ≠ fn) →
    ((s.fn fn).tdi = .locked ∨ (s.fn fn).tdi = .run →
      (∃ t, exec (.tdiConfigChange fn) s = .next t ∧ (t.fn fn).tdi = .error ∧ SameMem s t) ∧
      (∃ t, exec (.functionLevelReset fn) s = .next t ∧ (t.fn fn).tdi = .error ∧ SameMem s t)) ∧
    ((s.fn fn).tdi = .unlocked → exec (.tdiConfigChange fn) s = .next s ∧
      ∃ t, exec (.functionLevelReset fn) s = .next t ∧ (t.fn fn).tdi = .unlocked ∧ SameMem s t))

/-- A Dredge pass and the receipt of destroyed data (17 R391; 20 R443): SNAP records the bits that are set; SWEEP, once what
SNAP waits for is over and no group is in a run, clears the tag of every capability that a recorded bit marks, in memory and in
the registers, and in the records of issued commands; CLEAR clears those bits and ends the pass; Wellhead clears the tags of
the destroyed ranges and issues the receipt that is due. -/
def Rules.DredgeAndReceipts : Prop :=
  (∀ s, s.dredge.state = .idle → s.dredge.completed < s.dredge.requested → ∃ t, exec .dredgeSnap s = .next t ∧
    t.dredge.state = .snap ∧ t.dredge.snap = s.revoked.map (·.1) ∧ { t with dredge := s.dredge } = s) ∧
  (∀ s, s.dredge.state = .snap → s.snapOver = true → (∀ p ∈ s.groups, p.2.status ≠ .running) → s.memOk = true →
    ∃ t, exec .dredgeSweep s = .next t ∧ t.dredge.state = .sweep ∧ t.mem = s.mem ∧ t.hostMem = s.hostMem ∧
      (∀ a, a % 16 = 0 → (s.sideAt (a / 32)).toNat < 32 → t.tagAt a =
        (s.tagAt a && !marked s.dredge.snap ⟨BitVec.ofNat 128 (natOfBytes (bytesAt s.mem a 16)), true⟩)) ∧
      (∀ team gid g tm, s.group? team gid = some g → s.team? g.team = some tm → tm.status ≠ .saved →
        ∃ g', t.group? team gid = some g' ∧ g'.v = g.v ∧ g'.s = g.s ∧
          (∀ q i, i < 64 → mget false g'.vtag (64 * q + i) =
            (mget false g.vtag (64 * q + i) && !marked s.dredge.snap (g.capQuad (4 * q) i))) ∧
          (∀ m, mget false g'.stag m = (mget false g.stag m && !marked s.dredge.snap (g.capPair (2 * m))))) ∧
      ∀ id c, mfind s.cmds id = some c → mfind t.cmds id = some { c with rcd := c.rcd.swept s.dredge.snap }) ∧
  (∀ s, s.dredge.state = .sweep → ∃ t, exec .dredgeClear s = .next t ∧
    t.dredge.completed = s.dredge.completed + 1 ∧ SameMem s t ∧
    (∀ u, mget false t.revoked u = (mget false s.revoked u && !s.dredge.snap.contains u)) ∧
    (s.dredge.requested ≤ t.dredge.completed → t.dredge.state = .idle) ∧
    (t.dredge.completed < s.dredge.requested → t.dredge.state = .snap ∧ t.dredge.snap = t.revoked.map (·.1))) ∧
  (∀ s d, s.receiptsDue.find? s.receiptReady = some d → ∃ t r, exec .scrubReceipt s = .next t ∧ r ∈ t.receipts ∧
    r.kind = d.kind ∧ r.colour = d.colour ∧ r.seq = s.nextReceipt ∧ r.clk = s.clk ∧ t.nextReceipt = s.nextReceipt + 1 ∧
    (∀ sec, ∀ g ∈ s.scrubRanges d, overlaps (32 * sec) 32 g.1 g.2 = true → t.sideAt sec &&& 0x1F = 0) ∧
    ∀ x, (∀ g ∈ s.scrubRanges d, ∀ sec, overlaps (32 * sec) 32 g.1 g.2 = true → x / 32 ≠ sec) → byteAt t.mem x = byteAt s.mem x)

/-- Sealed imports, the TDI, Dredge passes and scrub receipts. Where the spec leaves it open the model chooses:
imports during a withdrawal (log entry 117), who may import (log entry 87), status 4 (log entry 88), a TDI in ERROR
(log entry 83), the instant of a sweep (log entry 90). -/
def Obligations.ImportsAndDredge : Prop := Rules.SealedImports ∧ Rules.DredgeAndReceipts

/-- What a write to a register of BAR0 does (00 R11; 16 R341; 17 R374, R375; 18 R400, R407, R411; 19 R431; 20 R440): it sets the
field, starts the operation, or is ignored: of a read-only field, of a queue's or a fault ring's base while it is enabled, of a
block whose operation is under way, of a block that only the PF has. -/
def Rules.RegisterWrites : Prop :=
  (∀ fn q s, BarOpen s fn → q < 16 →
    let x := s.queue fn q
    let b := 0x10000 + 64 * q
    (x.enable = false → Writes s fn b 8 (fun v => s.setQueue fn q { x with qbase := v }) ∧
      Writes s fn (b + 8) 4 (fun v => s.setQueue fn q { x with qcfg := v.setWidth 32 &&& 0xFFFF001F })) ∧
    (x.enable = true → Ignores s fn [(b, 8), (b + 8, 4)]) ∧
    (∀ v, v.getLsbD 0 = true → exec (.registerWrite fn (b + 0xC) 4 v) s = exec (.lqEnable fn q) s) ∧
    (∀ v, v.getLsbD 0 = false → ∃ t, exec (.registerWrite fn (b + 0xC) 4 v) s = .next t ∧ SameMem s t ∧
      t.queue fn q = { x with enable := false, running := false, enabling := false }) ∧
    Ignores s fn [(b + 0x10, 4), (b + 0x14, 4), (b + 0x24, 4), (b + 0x28, 8), (b + 0x30, 8), (b + 0x38, 8)] ∧
    Writes s fn (b + 0x18) 8 (fun v => s.setQueue fn q { x with ktag := v }) ∧
    (∀ v, exec (.registerWrite fn (b + 0x20) 4 v) s = exec (.lqTerminate fn q (v.setWidth 32)) s) ∧
    Writes s fn (0x20000 + 4096 * q) 4 (fun v => s.setQueue fn q { x with wridx := v.setWidth 32 })) ∧
  (∀ fn s, BarOpen s fn →
    let f := s.fn fn
    Ignores s fn [(0x3101E, 1)] ∧
    (f.mstat = 1 → Ignores s fn [(0x31000, 8), (0x31008, 8), (0x31010, 8), (0x31018, 2), (0x3101A, 2), (0x3101C, 1), (0x3101D, 1),
      (0x3101F, 1)]) ∧
    (f.mstat ≠ 1 → Writes s fn 0x31000 8 (fun v => s.setFn fn { f with mbase := v }) ∧
      Writes s fn 0x31008 8 (fun v => s.setFn fn { f with mlen := v }) ∧
      Writes s fn 0x31010 8 (fun v => s.setFn fn { f with mdest := v }) ∧
      Writes s fn 0x31018 2 (fun v => s.setFn fn { f with mperm := v.setWidth 16 }) ∧
      Writes s fn 0x3101A 2 (fun v => s.setFn fn { f with mcol := v.setWidth 16 }) ∧
      Writes s fn 0x3101C 1 (fun v => s.setFn fn { f with mkind := v.setWidth 8 }) ∧
      Writes s fn 0x3101D 1 (fun v => s.setFn fn { f with mlbl := v.setWidth 8 }) ∧
      Writes s fn 0x3101F 1 (fun v => if v.setWidth 8 = (1 : Byte) then s.setFn fn { f with mstat := 1 } else s))) ∧
  (∀ fn s, BarOpen s fn →
    let f := s.fn fn
    Ignores s fn [(0x3201D, 1), (0x3201F, 1)] ∧
    (f.sstat = 1 → Ignores s fn [(0x32000, 8), (0x32008, 8), (0x32010, 8), (0x32018, 2), (0x3201A, 2), (0x3201C, 1), (0x3201E, 1)] ∧
      ∀ j, j < 12 → Ignores s fn [(0x32020 + j, 1)]) ∧
    (f.sstat ≠ 1 → Writes s fn 0x32000 8 (fun v => s.setFn fn { f with ssrc := v }) ∧
      Writes s fn 0x32008 8 (fun v => s.setFn fn { f with sdst := v }) ∧
      Writes s fn 0x32010 8 (fun v => s.setFn fn { f with slen := v }) ∧
      Writes s fn 0x32018 2 (fun v => s.setFn fn { f with scol := v.setWidth 16 }) ∧
      Writes s fn 0x3201A 2 (fun v => s.setFn fn { f with skey := v.setWidth 16 }) ∧
      Writes s fn 0x3201C 1 (fun v => s.setFn fn { f with sop := v.setWidth 8 }) ∧
      (f.sop = 1 ∨ f.sop = 2 → Writes s fn 0x3201E 1 (fun v =>
        if v.setWidth 8 = (1 : Byte) then s.setFn fn { f with sstat := 1 } else s)) ∧
      ∀ j, j < 12 → Writes s fn (0x32020 + j) 1 (fun v => s.setFn fn { f with siv := mset 0 f.siv j (v.setWidth 8) }))) ∧
  (∀ fn j s v, BarOpen s fn → j < 16 →
    let old := mget PasidEntry.none (s.fn fn).pasids j
    let new : PasidEntry := ⟨v.getLsbD 32, (v.extractLsb' 12 20).toNat, (v.extractLsb' 0 12).toNat⟩
    (new = old → exec (.registerWrite fn (0x33000 + 8 * j) 8 v) s = .next s) ∧
    (new ≠ old → ∃ t, exec (.registerWrite fn (0x33000 + 8 * j) 8 v) s = .next t ∧
      (∀ k, mget PasidEntry.none (t.fn fn).pasids k = if k = j then new else mget PasidEntry.none (s.fn fn).pasids k) ∧
      (t.fn fn).tdi = (if fn ≠ 0 ∧ ((s.fn fn).tdi = .locked ∨ (s.fn fn).tdi = .run) then .error else (s.fn fn).tdi))) ∧
  (∀ fn s, BarOpen s fn →
    let f := s.fn fn
    (f.fenable = false → Writes s fn 0x34000 8 (fun v => s.setFn fn { f with fbase := v }) ∧
      Writes s fn 0x34008 4 (fun v => s.setFn fn { f with fcfg := v.setWidth 32 })) ∧
    (f.fenable = true → Ignores s fn [(0x34000, 8), (0x34008, 4)]) ∧
    (∀ v, v.getLsbD 0 = true → exec (.registerWrite fn 0x3400C 4 v) s = exec (.faultRingEnable fn) s) ∧
    (∀ v, v.getLsbD 0 = false → ∃ t, exec (.registerWrite fn 0x3400C 4 v) s = .next t ∧ SameMem s t ∧ (t.fn fn).fenable = false) ∧
    Ignores s fn [(0x34010, 4)] ∧
    Writes s fn 0x34014 4 (fun v => s.setFn fn { f with frd := v.setWidth 32 }) ∧
    Writes s fn 0x34018 4 (fun v => s.setFn fn { f with fseq := v.setWidth 32 }) ∧
    ∀ v, exec (.registerWrite fn 0x3401C 4 v) s = (match (v.extractLsb' 0 2).toNat with
      | 1 => exec (.faultResume fn) s
      | 2 => exec (.faultTerminate fn) s
      | _ => .next s)) ∧
  (∀ s,
    let b := s.gblock
    Ignores s 0 [(0x30013, 1), (0x30018, 8), (0x30020, 8)] ∧
    (b.gstat = 1 → Ignores s 0 [(0x30000, 8), (0x30008, 8), (0x30010, 2), (0x30012, 1), (0x30014, 4)]) ∧
    (b.gstat ≠ 1 → Writes s 0 0x30000 8 (fun v => { s with gblock := { b with gbase := v } }) ∧
      Writes s 0 0x30008 8 (fun v => { s with gblock := { b with glen := v } }) ∧
      Writes s 0 0x30010 2 (fun v => { s with gblock := { b with gcol := v.setWidth 16 } }) ∧
      Writes s 0 0x30012 1 (fun v => { s with gblock := { b with gop := v.setWidth 8 } }) ∧
      (b.gop = 1 ∨ b.gop = 2 → Writes s 0 0x30014 4 (fun v =>
        if v.setWidth 32 = (1 : Word) then { s with gblock := { b with gstat := 1, pass := 0 } } else s)))) ∧
  (∀ s,
    let b := s.snapb
    Ignores s 0 [(0x3500A, 1), (0x3500C, 4)] ∧
    Writes s 0 0x35000 8 (fun v => { s with snapb := { b with sbuf := v } }) ∧
    Writes s 0 0x35008 1 (fun v => { s with snapb := { b with sarm := v.setWidth 8 &&& 0x1F } }) ∧
    Writes s 0 0x35009 1 (fun v => { s with snapb := { b with scode := v.setWidth 8 } }) ∧
    ∀ v, exec (.registerWrite 0 0x3500B 1 v) s = if v.setWidth 8 = (1 : Byte) then exec .snapshotArm s else .next s) ∧
  (∀ fn s, fn ≠ 0 → ∀ o, 0x30000 ≤ o ∧ o < 0x31000 ∨ 0x35000 ≤ o ∧ o < 0x36000 → ∀ n, Ignores s fn [(o, n)])

/-- What the host does (00 R11; 18 R408 to R410, R412; 19 R431, R432): registers are written and read through BAR0, and not
outside a running TDI's stream; the fault ring is enabled, takes records while it has room, and its commands resume the group
or terminate the grid of a record; translations are answered, and discarded when what they cover was invalidated since they were asked for; their page requests are sent
up to the host's number and answered; an invalidation is completed. -/
def Rules.HostActions : Prop :=
  (∀ fn inStream tbit off size w s, BarOpen s fn →
    ((s.fn fn).tdi = .run → (inStream && tbit && (s.fn fn).ide) = false →
      exec (.hostBarRequest fn inStream tbit off size w) s = .next (s.reply (.bar fn none))) ∧
    ((s.fn fn).tdi ≠ .run ∨ (inStream && tbit && (s.fn fn).ide) = true →
      (∀ v, w = some v → exec (.hostBarRequest fn inStream tbit off size w) s = exec (.registerWrite fn off size v) s) ∧
      (w = none → exec (.hostBarRequest fn inStream tbit off size w) s =
        .next (s.reply (.bar fn (some (BitVec.ofNat 64 (s.barRead fn off (min size 8))))))))) ∧
  (∀ fn s, fn < 64 →
    let f := s.fn fn
    f.fenable = false → 4 ≤ f.flog → f.flog ≤ 12 → f.fcfg &&& 0xF800FFE0 = 0 → f.fbase.toNat % 4096 = 0 →
    s.reach fn (s.ringPasid fn) f.fbase.toNat (64 * 2 ^ f.flog) true = .ok →
    exec (.faultRingEnable fn) s = .next (s.setFn fn { f with fenable := true, fenabling := false })) ∧
  (∀ fn r rs s,
    let f := s.fn fn
    let a := f.fbase.toNat + 64 * (f.fwr.toNat % 2 ^ f.flog)
    f.pendingRecs = r :: rs →
    (f.fenable = false ∨ 2 ^ f.flog ≤ (f.fwr - f.frd).toNat → exec (.faultRecordWrite fn) s = .next s) ∧
    (f.fenable = true → (f.fwr - f.frd).toNat < 2 ^ f.flog → s.reach fn (s.ringPasid fn) a 64 true = .ok →
      isHost a = false → NoSync s a 64 → ∃ t, exec (.faultRecordWrite fn) s = .next t ∧
        bytesAt t.mem a 64 = r.bytes f.fwr ∧ (t.fn fn).fwr = f.fwr + 1 ∧ (t.fn fn).pendingRecs = rs)) ∧
  (∀ fn r g s, s.fseqRec fn = some r → r.teamterm = false → s.laterRec fn r = false → FaultStopped s r.team r.gid g r.code →
    g.haltAtEnd = false → ∃ t, exec (.faultResume fn) s = .next t ∧ SameMem s t ∧ GoesOn t g) ∧
  (∀ fn r tm s, s.fseqRec fn = some r → s.team? r.team = some tm →
    exec (.faultTerminate fn) s = .next (s.terminateGrid tm.grid r.code)) ∧
  (∀ c r s, s.ats.find? (fun r => r.fn == c.fn && r.pasid == c.pasid && decide (c.iova ≤ 4096 * r.page) &&
      decide (4096 * r.page < c.iova + c.size)) = some r →
    ((∃ v ∈ r.inval, overlaps v.1 v.2 c.iova c.size = true) →
      exec (.atsCompletion c) s = .next { s with ats := s.ats.erase r }) ∧
    ((∀ v ∈ r.inval, overlaps v.1 v.2 c.iova c.size = false) →
    ((c.read = true ∨ c.write = true) → ∃ t, exec (.atsCompletion c) s = .next t ∧ SameMem s t ∧ t.ats = s.ats.erase r ∧
      ∀ x, c.iova ≤ x → x < c.iova + c.size →
        t.tlbFind c.fn c.pasid x = some ⟨c.fn, c.pasid, c.iova, c.size, c.read, c.write, c.frame⟩) ∧
    (c.read = false → c.write = false → r.quiet = true → exec (.atsCompletion c) s = .next { s with ats := s.ats.erase r }) ∧
    (c.read = false → c.write = false → r.quiet = false → (s.fn r.fn).paging r.pasid r.page = false →
      ∃ t, exec (.atsCompletion c) s = .next t ∧ SameMem s t ∧
        (t.fn r.fn).pageReqs ++ (t.fn r.fn).pageQueue =
          (s.fn r.fn).pageReqs ++ (s.fn r.fn).pageQueue ++ [⟨r.pasid, r.page, r.write⟩] ∧
        ((s.fn r.fn).pageReqs.length < (s.fn r.fn).pageMax → (s.fn r.fn).pageQueue = [] →
          (t.fn r.fn).pageReqs = (s.fn r.fn).pageReqs ++ [⟨r.pasid, r.page, r.write⟩])))) ∧
  (∀ r s, (∃ q ∈ (s.fn r.fn).pageReqs, q.pasid = r.pasid ∧ q.page = r.page) → ∃ t, exec (.pageResponse r) s = .next t ∧ SameMem s t ∧
    (∀ left, left = (s.fn r.fn).pageReqs.filter (fun q => !(q.pasid == r.pasid && q.page == r.page)) →
      (t.fn r.fn).pageReqs = left ++ (s.fn r.fn).pageQueue.take ((s.fn r.fn).pageMax - left.length)) ∧
    ∀ team gid g a store, s.group? team gid = some g → g.status = .replayable → g.wait = .page a store →
      onPage r.page a = true → s.fnOfTeam g.team = r.fn → g.haltAtEnd = false →
      (∀ tm, s.team? g.team = some tm → tm.status ≠ .saved) →
      ∃ g', t.group? team gid = some g' ∧ g'.status = .ready ∧ SameRegs g g' ∧
        (store = true → r.ok = false → g'.refused = some (r.pasid, r.page))) ∧
  (∀ fn pasid iova len s, ∃ t, exec (.atsInvalidate fn pasid iova len) s = .next t ∧
    (∀ k ∈ t.copies, ¬ HostLine s fn pasid iova len k) ∧
    (∀ k, s.copies = [k] →
      (¬ HostLine s fn pasid iova len k → t.copies = [k] ∧ SameMem s t) ∧
      (HostLine s fn pasid iova len k → ∀ h, k.hpa = some h → (k.dirty.map (·.1)).Pairwise (· < ·) → (∀ p ∈ k.dirty, p.1 < 128) →
        t.mem = s.mem ∧ (∀ j, j < 128 → byteAt t.hostMem (h + j) =
          blend (byteAt s.hostMem (h + j)) (byteAt k.data j) (mget 0 k.dirty j)) ∧
        ∀ x, x < h ∨ h + 128 ≤ x → byteAt t.hostMem x = byteAt s.hostMem x)) ∧
    (∀ x ∈ t.tlb, ¬(x.fn = fn ∧ x.pasid = pasid ∧ overlaps x.iova x.size iova len = true)) ∧
    (∀ r ∈ t.ats, r.fn = fn → r.pasid = pasid → (iova, len) ∈ r.inval) ∧
    t.replies = s.replies ++ [.invalidated fn pasid iova len])

/-- The host's writes to registers, and what else it does (00 R11; 18 R408 to R410, R412; 19 R431, R432). Where the
spec leaves it open the model chooses: page requests (log entry 93), which record resumes (log entry 94), the STOPCODE
of an enable (log entry 67). -/
def Obligations.HostEvents : Prop := Rules.RegisterWrites ∧ Rules.HostActions

namespace Sys2Proof.Machine

open Sys2Proof

/-- The requests that a session takes, as messages of it (18 R413, R414; 20 R443). -/
inductive SessionRequest (m : SpdmMsg) : Instr → Prop where
  | getVersion : SessionRequest m (.getVersion m)
  | getCapabilities : SessionRequest m (.getCapabilities m)
  | negotiateAlgorithms : SessionRequest m (.negotiateAlgorithms m)
  | getDigests : SessionRequest m (.getDigests m)
  | getCertificate : SessionRequest m (.getCertificate m)
  | challenge : SessionRequest m (.challenge m)
  | getMeasurements : SessionRequest m (.getMeasurements m)
  | heartbeat : SessionRequest m (.heartbeat m)
  | keyUpdate : SessionRequest m (.keyUpdate m)
  | endSession : SessionRequest m (.endSession m)
  | setWeightKey (colour : Nat) (key : List Byte) : SessionRequest m (.setWeightKey m colour key)
  | setGroup (g : GroupReq) : SessionRequest m (.setGroup m g)
  | setGrace (ms : Nat) : SessionRequest m (.setGrace m ms)
  | destroyKey (colour : Nat) : SessionRequest m (.destroyKey m colour)
  | getReceipt (seq : Nat) : SessionRequest m (.getReceipt ⟨m, seq⟩)
  | ideKm : SessionRequest m (.ideKm m)

/-- A session is lost now: it is FROZEN and its grace ends, or it is ACTIVE and ends (18 R416). -/
def LosesSession (s : State) (x : Session) (i : Instr) : Prop :=
  mfind s.sessions x.id = some x ∧ ((x.state = .frozen ∧ i = .graceExpiry x.id) ∨ (x.state = .active ∧ i = .endSession ⟨x.id, true⟩))

/-- What the loss of a session that owns a TDI leaves (18 R418; 02 R48): the keys of the TDI's contexts are destroyed and their receipts
are due, its CO map entries are DEAD, its device group is gone, and its contexts' grids and teams terminate with SESSION_LOST. -/
def TdiLost (s t : State) (fn : Nat) : Prop :=
  (∀ p ∈ s.ctxs, p.2.fn = fn → t.keyed p.1 = false ∧
    (s.keyed p.1 = true → ∃ d ∈ t.receiptsDue, d.kind = 1 ∧ d.colour = p.1)) ∧
  (∀ e ∈ t.comap, e.fn = fn → e.state = .dead) ∧ (∀ d, t.devgroup = some d → d.fn ≠ fn) ∧
  ∀ id gr, s.grid? id = some gr → gr.complete = false → (∃ p ∈ s.ctxs, p.2.fn = fn ∧ p.1 = gr.colour) →
    (∃ g k, t.grid? id = some g ∧ g.term = some (cSESSION, k)) ∧
    ∀ team tm, s.team? team = some tm → tm.grid = id → tm.status ≠ .retired →
      ∃ tm', t.team? team = some tm' ∧ (s.anyRunning team = true → tm'.term.isSome = true) ∧
        (s.anyRunning team = false → tm'.status = .retired ∧ tm'.cores = [])

/-- What the loss of a weight key leaves (18 R418; R411): its entry is EMPTY and a receipt is due, its CO map entries are DEAD, a locked
or running TDI that used it is in ERROR, and the teams whose tile registers it keys terminate. -/
def WeightLost (s t : State) (kind colour : Nat) : Prop :=
  t.keyed colour = false ∧ (∃ d ∈ t.receiptsDue, d.kind = kind ∧ d.colour = colour) ∧
  (∀ e ∈ t.comap, e.keycol = colour → e.state = .dead) ∧
  (∀ e ∈ s.comap, e.keycol = colour → e.fn ≠ 0 → (s.fn e.fn).tdi = .locked ∨ (s.fn e.fn).tdi = .run →
    (t.fn e.fn).tdi = .error) ∧
  ∀ team tm, s.team? team = some tm → tm.holdsKey (fun k => k == colour) = true → tm.status ≠ .retired → tm.term = none →
    s.anyRunning team = false → ∃ tm', t.team? team = some tm' ∧ tm'.status = .retired ∧ tm'.cores = []

end Sys2Proof.Machine

/-- Sessions (18 R413 to R418; 20 R443, R445): every request is answered in the session that sent it or outside one,
the measurements with their registers, and a LOST session gets InvalidSession; a key exchange begins a session and a
finish makes it ACTIVE; a silent one is FROZEN, and any valid request revives it until its grace ends it; a LOST one
takes its TDI's keys and grids, or its weight keys, with it; owner sessions set weight keys in EMPTY entries and
destroy their own, function sessions set the group and the grace period within its limits; a locked TDI runs. Where
the spec leaves it open the model chooses: the function of a session (log entry 91), changes in RUN (log entry 92),
the bodies of answers (log entry 4), error answers (log entry 130). -/
def Obligations.Sessions : Prop :=
  (∀ s x, ActiveSession s x → x.id ≠ 0 →
    let m : SpdmMsg := ⟨x.id, true⟩
    let n := s.answer x.id
    exec (.getVersion m) s = .next n ∧ exec (.getCapabilities m) s = .next n ∧ exec (.negotiateAlgorithms m) s = .next n ∧
    exec (.getDigests m) s = .next n ∧ exec (.getCertificate m) s = .next n ∧ exec (.challenge m) s = .next n ∧
    exec (.heartbeat m) s = .next n ∧ exec (.keyUpdate m) s = .next n ∧
    exec (.getMeasurements m) s = .next (s.reply (.measurements x.id s.measurements))) ∧
  (∀ s, let m : SpdmMsg := ⟨0, true⟩
    let n := s.answer 0
    exec (.getVersion m) s = .next n ∧ exec (.getCapabilities m) s = .next n ∧ exec (.negotiateAlgorithms m) s = .next n ∧
    exec (.getDigests m) s = .next n ∧ exec (.getCertificate m) s = .next n ∧ exec (.challenge m) s = .next n ∧
    exec (.getMeasurements m) s = .next (s.reply (.measurements 0 s.measurements))) ∧
  (∀ s m i, m.sess ≠ 0 → SessionRequest m i →
    (mfind s.sessions m.sess = none ∨
      (∃ x, mfind s.sessions m.sess = some x ∧ x.state ≠ .lost ∧ (m.valid = false ∨ x.state = .handshake)) →
      exec i s = .next (s.reply (.error m.sess))) ∧
    (∀ x, mfind s.sessions m.sess = some x → x.state = .lost → exec i s = .next (s.reply (.invalidSession m.sess)))) ∧
  (∀ s sess fn hb, sess ≠ 0 → (∀ x, mfind s.sessions sess = some x → x.state = .lost) → s.liveSessions < 64 →
    (∀ f, fn = some f → f < 64) →
    ∃ t, exec (.keyExchange ⟨sess, true⟩ fn hb) s = .next t ∧
      mfind t.sessions sess = some ⟨sess, fn, .handshake, 2000, hb⟩) ∧
  (∀ s x, mfind s.sessions x.id = some x → x.state = .handshake → ∃ t, exec (.finishh ⟨x.id, true⟩) s = .next t ∧
    mfind t.sessions x.id = some { x with state := .active }) ∧
  (∀ s x, ActiveSession s x → exec (.sessionTimeout x.id) s = .next (s.setSession { x with state := .frozen })) ∧
  (∀ s x i, x.id ≠ 0 → mfind s.sessions x.id = some x → x.state = .frozen → SessionRequest ⟨x.id, true⟩ i →
    exec i s = exec i (s.setSession { x with state := .active })) ∧
  (∀ s x i, Identified s → LosesSession s x i → ∃ t, exec i s = .next t ∧
    mfind t.sessions x.id = some { x with state := .lost } ∧
    (∀ fn, x.fn = some fn → ((s.fn fn).session = x.id → TdiLost s t fn) ∧
      ((s.fn fn).session ≠ x.id → t.keys = s.keys ∧ t.teams = s.teams ∧ t.receiptsDue = s.receiptsDue)) ∧
    (x.fn = none → ∀ p ∈ s.keys, (∃ key, p.2 = .weight key x.id) → WeightLost s t 1 p.1)) ∧
  (∀ s x colour key, ActiveSession s x → x.fn = none → colour < 4096 → s.ctx? colour = none →
    (s.keyed colour = true → exec (.setWeightKey ⟨x.id, true⟩ colour key) s = .next (s.reply (.error x.id))) ∧
    (s.keyed colour = false → (∃ e ∈ s.comap, e.keycol = colour ∧ e.fn ≠ 0 ∧ (s.fn e.fn).tdi ≠ .run) →
      exec (.setWeightKey ⟨x.id, true⟩ colour key) s = .next (s.reply (.error x.id))) ∧
    (s.keyed colour = false → (∀ e ∈ s.comap, e.keycol = colour → e.fn = 0 ∨ (s.fn e.fn).tdi = .run) →
      ∃ t, exec (.setWeightKey ⟨x.id, true⟩ colour key) s = .next t ∧ mfind t.keys colour = some (.weight key x.id))) ∧
  (∀ s x colour key, Identified s → ActiveSession s x → x.fn = none → mfind s.keys colour = some (.weight key x.id) →
    ∃ t, exec (.destroyKey ⟨x.id, true⟩ colour) s = .next t ∧ WeightLost s t 3 colour) ∧
  (∀ s x fn g, ActiveSession s x → x.fn = some fn →
    (fn = 0 ∨ (s.fn fn).session ≠ x.id ∨ (s.fn fn).tdi ≠ .run →
      exec (.setGroup ⟨x.id, true⟩ g) s = .next (s.reply (.error x.id))) ∧
    (fn ≠ 0 → (s.fn fn).session = x.id → (s.fn fn).tdi = .run → g.hashes.length ≤ 64 → g.own < g.hashes.length →
      (∀ d, s.devgroup = some d → d.fn = fn ∧ s.ringBusy = false) → ∃ t d, exec (.setGroup ⟨x.id, true⟩ g) s = .next t ∧
        t.devgroup = some d ∧ d.id = g.gid ∧ d.own = g.own ∧ d.hashes = g.hashes ∧ d.key = g.key ∧ d.fn = fn ∧ d.lost = [])) ∧
  (∀ s x ms, ActiveSession s x →
    (100 ≤ ms → ms ≤ 60000 → exec (.setGrace ⟨x.id, true⟩ ms) s = .next ((s.setSession { x with grace := ms }).answer x.id)) ∧
    (ms < 100 ∨ 60000 < ms → exec (.setGrace ⟨x.id, true⟩ ms) s = .next (s.reply (.error x.id)))) ∧
  (∀ s sess seq, sess = 0 ∨ (∃ x, ActiveSession s x ∧ x.id = sess) → exec (.getReceipt ⟨⟨sess, true⟩, seq⟩) s =
    .next (s.reply (.receipt seq ((s.receipts.find? (fun r => r.seq == seq)).map Receipt.bytes)))) ∧
  (∀ s x fn, ActiveSession s x → x.fn = some fn → fn ≠ 0 → fn < 64 → 9 ≤ s.part.boot → (s.fn fn).tdi = .unlocked →
    exec (.tdispLock fn x.id) s = .next (s.setFn fn { s.fn fn with tdi := .locked, session := x.id })) ∧
  (∀ s fn, fn < 64 → (s.fn fn).tdi = .locked → exec (.tdiRun fn) s = .next (s.setFn fn { s.fn fn with tdi := .run })) ∧
  (∀ s x fn, ActiveSession s x → x.fn = some fn →
    exec (.ideKm ⟨x.id, true⟩) s = .next ((s.setFn fn { s.fn fn with ide := true }).answer x.id))

/-- The debugger (16 R363, R364; 18 R402; 19 R420, R428): it attaches, sets at most 16 breakpoints, stops a READY
group at once and another at its run's end, resumes it, steps one run of a subset, and reads what its capability
admits, never compute-only data; its read of a window waits while the target group is in a run. Where the spec leaves
it open the model chooses: the instants of halts and steps (log entry 37), a seventeenth breakpoint (log entry 100).
-/
def Obligations.Debugger : Prop :=
  (∀ colour att stop c s, s.ctx? colour = some c →
    exec (.debuggerAttach colour att stop) s = .next (s.setCtx { c with debugger := att, teamstop := stop })) ∧
  (∀ colour addr c s, s.ctx? colour = some c → BitVec.ofNat 56 addr ∉ c.breaks →
    exec (.debugSetBreakpoint colour addr) s =
      .next (if c.breaks.length < 16 then s.setCtx { c with breaks := c.breaks ++ [BitVec.ofNat 56 addr] } else s)) ∧
  (∀ team gid g s, s.debugged team = true → s.group? team gid = some g → g.team = team → g.gid = gid →
    ∃ t g', exec (.debugHalt team gid) s = .next t ∧ t.group? team gid = some g' ∧ SameRegs g g' ∧ SameMem s t ∧
      (g.status = .ready → g'.status = .stopped ∧ g'.debugStop = true) ∧
      (g.status = .running ∨ g.status = .waiting → g'.status = g.status ∧ g'.haltAtEnd = true)) ∧
  (∀ team gid g s, s.debugged team = true → s.group? team gid = some g → g.team = team → g.gid = gid →
    g.status = .stopped →
    (g.debugStop = true → ∃ t g', exec (.debugResume team gid) s = .next t ∧ t.group? team gid = some g' ∧
      g'.status = .ready ∧ g'.threads = g.threads ∧ SameRegs g g' ∧ SameMem s t) ∧
    (g.debugStop = false → ∃ t, exec (.debugResume team gid) s = .next t ∧ SameMem s t ∧ GoesOn t g)) ∧
  (∀ team gid tm g i th s, Live s team gid tm g → s.debugged team = true → g.status = .stopped → g.thread i = some th →
    (∀ p ∈ s.groups, p.2.status ≠ .running) → s.winHolds g = false →
    s.frozenTeam (s.fnOfTeam team) team = false → (subsetMask (g.subsetAt th.pc)).getLsbD i = true →
    ∃ t g', exec (.debugStep team gid i) s = .next t ∧ t.group? team gid = some g' ∧ g'.status = .running ∧
      g'.run.subset = subsetMask (g.subsetAt th.pc) ∧ g'.run.stepped = true ∧ SameRegs g g' ∧ SameMem s t) ∧
  (∀ team tm gr c k a n s, s.team? team = some tm → s.grid? tm.grid = some gr → s.ctx? gr.colour = some c →
    c.debugger = true → 0 < n → n ≤ 16 → dbgCheck c ⟨k.bits, k.tag⟩ a n = none →
    (isDev a = true → a + n ≤ 0x8000000000 → s.keyed (TCap.mk k.bits k.tag).col = true →
      exec (.debugRead team k a n) s = .next (State.reply { s with dbgReads := s.dbgReads.erase (team, k, a, n) }
        (if s.coAt a n then .debug cCODEBUG [] else if (s.badSec? a n).isSome then .debug cUNCORR []
          else .debug 0 (bytesAt s.mem a n)))) ∧
    (isWin a = true → s.debugWaits a n = true → (team, k, a, n) ∉ s.dbgReads →
      exec (.debugRead team k a n) s = .next { s with dbgReads := s.dbgReads ++ [(team, k, a, n)] }))

namespace Sys2Proof.Machine

/-- A source of the snapshot trigger: its bit in SARM, and the code, the function and the tag that it gives the header (20 R440, R442). A
fault is a source where SCODE is 0 or its code. -/
inductive SnapOf (s : State) : SnapSource → Nat → Byte → Nat → Word → Prop where
  | sw (imm : BitVec 17) (fn : Nat) : SnapOf s (.sw imm fn) 0 0 fn (imm.setWidth 32)
  | fault (code : Byte) (fn : Nat) : s.snapb.scode = 0 ∨ s.snapb.scode = code → SnapOf s (.fault code fn) 1 code fn (code.setWidth 32)
  | debug : SnapOf s .debug 2 0 0 0
  | fabric : SnapOf s .fabric 3 0 0 0

end Sys2Proof.Machine

/-- Errors, snapshots, boot and power (20 R437 to R442, R444 to R447): a correctable error is counted and the fourth
within the window takes its page out of service, an uncorrectable one does at once and marks its data; a lane is
replaced by its quadrant's spare, or takes its pair out of service; the window and the power limit take only values of
their ranges; an armed trigger fixes TCLK, 64 cycles on but for a peer's message, at which the snapshot latches;
staged firmware waits for the cold reset; without power everything but host memory and what is out of service is lost.
Where the spec leaves it open the model chooses: when a spare is taken (log entry 118), what a lost host line leaves
(log entry 120), cache sites (log entry 95), SRAM rows (log entry 96), snapshot records (log entry 97), the counter of
a fabric trigger (log entry 98), what a reset keeps (log entry 99), what SMISS counts (log entry 11). -/
def Obligations.ReliabilityEvents : Prop :=
  (∀ n j s, let r := s.errRec (.page n 0)
    r.lasting = false →
    ∃ t, exec (.correctableError (.page n j)) s = .next t ∧ SameMem s t ∧ t.unc = s.unc ∧
      (t.errRec (.page n 0)).events = (s.clk :: r.events).take 4 ∧
      (∀ c1 c2 c3, r.events.take 3 = [c1, c2, c3] → s.clk - c3 < 2 ^ s.errW →
        (t.errRec (.page n 0)).lasting = true ∧ n ∈ t.retiredPages) ∧
      (r.events.length < 3 → (t.errRec (.page n 0)).lasting = false ∧ t.retiredPages = s.retiredPages)) ∧
  (∀ n j s, ∃ t, exec (.uncorrectableError (.page n j)) s = .next t ∧ SameMem s t ∧ n ∈ t.retiredPages ∧
    (t.errRec (.page n 0)).lasting = true ∧ mget false t.unc (128 * n + j % 128) = true ∧
    ∀ sec, sec ≠ 128 * n + j % 128 → mget false t.unc sec = mget false s.unc sec) ∧
  (∀ core quad lane s, ∃ t, exec (.uncorrectableError (.lane core quad lane)) s = .next t ∧ SameMem s t ∧
    ((core, quad) ∉ s.spares → t.spares = s.spares ++ [(core, quad)] ∧ t.retiredPairs = s.retiredPairs) ∧
    ((core, quad) ∈ s.spares → core / 2 ∈ t.retiredPairs)) ∧
  (∀ sec s, isDev (32 * sec) = true →
    exec (.patrolScrub sec) s = .next { s with patrol := mset 0 s.patrol (s.homeDie (32 * sec)) sec }) ∧
  (∀ w s, exec (.setErrorWindow w) s = .next (if 28 ≤ w ∧ w ≤ 36 then { s with errW := w } else s)) ∧
  (∀ w s, exec (.setPowerLimit w) s = .next (if 2000 ≤ w ∧ w ≤ 5200 then { s with powerLimit := w } else s)) ∧
  (∀ s, s.snapb.sarm ≠ 0 → (s.snapb.sstat = 0 ∨ s.snapb.sstat = 3) →
    exec .snapshotArm s = .next { s with snapb := { s.snapb with sstat := 1, srcmask := 0 } }) ∧
  (∀ s imm fn, s.snapb.sarm.getLsbD 0 = true → s.snapb.sarm.getLsbD 4 = false → s.snapb.sstat = 1 →
    exec (.snapshotTrigger (.sw imm fn)) s = .next { s with snapb := { s.snapb with
      sstat := 2, tclk := s.clk + 64, srcmask := 1, code := 0, fn := fn, tag := imm.setWidth 32 } }) ∧
  (∀ s src b c f tg, SnapOf s src b c f tg →
    (s.snapb.sarm.getLsbD b = false → exec (.snapshotTrigger src) s = .next s) ∧
    (s.snapb.sarm.getLsbD b = true →
      (s.snapb.sstat = 1 → s.snapb.sarm.getLsbD 4 = false ∨ b = 3 → exec (.snapshotTrigger src) s =
        .next { s with snapb := { s.snapb with sstat := 2, tclk := if b = 3 then s.clk else s.clk + 64,
                                               srcmask := 1#8 <<< b, code := c, fn := f, tag := tg } }) ∧
      (s.snapb.sstat = 2 → s.clk < s.snapb.tclk → exec (.snapshotTrigger src) s =
        .next { s with snapb := { s.snapb with srcmask := s.snapb.srcmask ||| (1#8 <<< b) } }) ∧
      (s.snapb.sstat ≠ 1 → ¬(s.snapb.sstat = 2 ∧ s.clk < s.snapb.tclk) → exec (.snapshotTrigger src) s =
        .next { s with snapb := { s.snapb with
          smiss := if s.snapb.smiss = BitVec.allOnes 32 then s.snapb.smiss else s.snapb.smiss + 1 } }))) ∧
  (∀ s code fn, s.snapb.scode ≠ 0 → s.snapb.scode ≠ code → exec (.snapshotTrigger (.fault code fn)) s = .next s) ∧
  (∀ s, s.snapb.sarm.getLsbD 3 = true → s.snapb.sstat = 1 →
    exec (.snapshotTrigger .fabric) s = .next { s with snapb := { s.snapb with
      sstat := 2, tclk := s.clk, srcmask := 8, code := 0, fn := 0, tag := 0 } }) ∧
  (∀ s dg m, s.devgroup = some dg → m ≠ dg.own → s.portOk dg m = true →
    exec (.fabricTrigger m) s = .next (State.snapSource { s with devgroup := some { dg with
      recvCtr := mput dg.recvCtr m (mget 0 dg.recvCtr m + 1) } } 3 0 0 0)) ∧
  (∀ s, s.snapb.sstat = 2 → s.snapb.tclk ≤ s.clk → s.sbufOk = true → NoSync s s.snapb.sbuf.toNat (64 + s.snapRecords.length) →
    ∃ t, exec .snapshotLatch s = .next t ∧ t.snapb.sstat = 3 ∧ bytesAt t.mem s.snapb.sbuf.toNat 64 = s.snapHeader) ∧
  (∀ image s, exec (.firmwareStage image) s = .next { s with staged := s.staged ++ [image] }) ∧
  (∀ s, ∃ t, exec .thermalShutdown s = .next t ∧ t.part.powered = false ∧ t.keys = [] ∧ t.mem = [] ∧ t.groups = [] ∧
    t.hostMem = s.hostMem ∧ t.retiredPages = s.retiredPages ∧ t.retiredPairs = s.retiredPairs ∧ t.spares = s.spares) ∧
  (∀ b s, ∃ t, exec (.coldReset b) s = .next t ∧ t.part.powered = true ∧ t.part.boot = (bootRun b.images s.staged).1 ∧
    t.measure = (bootRun b.images s.staged).2 ∧ t.staged = [] ∧ t.keys = [] ∧ t.mem = [] ∧ t.groups = [] ∧
    t.hostMem = s.hostMem ∧ (∀ p ∈ t.retiredPages, p ∈ s.retiredPages) ∧ (∀ x ∈ s.spares ++ b.spares, x ∈ t.spares))

namespace Sys2Proof.Machine

open Sys2Proof

/-! ### The machine as a whole -/

/-- The group whose turn it is stands at an instruction: its bytes, `len` of them at its PC, can be fetched, hold no
uncorrectable or compute-only sector and decode to `i`, which is no fill and has no breakpoint in front of it. -/
structure StandsAt (s : State) (g : Group) (t : Team) (gr : Grid) (c : Ctx) (i : Instr) (len : Nat) : Prop where
  running : s.running? = some (g, t, gr, c) ∧ g.canIssue = true
  length : unitLength gr.native (s.codeUnit g.pc) = some len ∧ 4 ≤ len
  fetch : ∀ j, j < len / 4 → g.canFetch (g.pc + 4 * j) 4 = true
  keyed : s.keyed g.kcode.col = true
  sound : ∀ j, j < len / 4 → s.badSec? (g.pc + 4 * j) 4 = none ∧ s.coAt (g.pc + 4 * j) 4 = false
  inSlot : gr.native = true → g.pc % 32 + len ≤ 32
  decodes : decode (!gr.native) (s.codeUnits g.pc (len / 4)) = .ok i
  instr : i.parts.isSome = true
  plain : s.isFill gr.native g.pc = false ∧ g.breaks c g.pc = false

end Sys2Proof.Machine

/-- A step runs the decoded instruction (04 R85): with no input at hand, power and no snapshot due, a step of a
machine whose running group stands at an instruction is the meaning of that instruction; only the model's count of
steps has gone up. Where the spec leaves it open the model chooses: the order of a step (log entry 2), rewritten code
(log entry 33). -/
def Obligations.StepRunsInstruction : Prop :=
  ∀ s g t gr c i len, s.inputs = [] → s.part.powered = true → s.snapDue = false → StandsAt s g t gr c i len →
    step s = exec i { s with now := s.now + 1 }

/-- Words of 15, 16 and 19, written out from the encodings of 04 R72 and R75, decode to their instructions; a reserved length,
an unassigned opcode and a set reserved bit do not decode. -/
def Obligations.DecodeWords : Prop :=
  decode false [0xB7DB0000, 0x00000EDB] = .ok (.nop ⟨.n64, false, 0, .none, .zero, .zero, .zero, .zero, Guard.always,
    Guard.always, 0, 0, 0, 0⟩) ∧
  decode true [0x1DBED800] = .ok (.nop ⟨.d32, false, 0, .none, .zero, .zero, .zero, .zero, Guard.always, Guard.always,
    0, 0, 0, 0⟩) ∧
  decode false [0x12080101, 0x00040ED8, 0x01F401DB] = .ok (.add ⟨.n96, false, 0, .v 8, .v 9, .zero, .zero, .zero,
    Guard.always, Guard.always, 1, 0, 0, 1000⟩) ∧
  decode true [0x40904081, 0x020001DB, 0x000003E8] = .ok (.add ⟨.d64 false true, false, 0, .v 8, .v 9, .zero, .zero, .zero,
    Guard.always, Guard.always, 1, 0, 0, 1000⟩) ∧
  decode false [0xB7DB1005, 0x02000EDB, 0xFFE801DB] = .ok (.br ⟨.n96, true, 0, .none, .zero, .zero, .zero, .zero,
    Guard.always, Guard.always, 0, 2, 0, 0x1FFD0⟩) ∧
  decode false [0xB7DB0003, 0x00000EDB, 0, 0, 0] = .error .illegalLen ∧
  decode false [0xB7DB0ABC, 0x00000EDB] = .error .unimplemented ∧
  decode true [0x00101FC3, 0x80000002] = .error .reservedBit

/-- Decode and encode agree (04 R72, R75 to R80): the units of every well-formed instruction, in each of its forms and with
every operand, modifier, guard and immediate that the form holds, decode to that instruction. -/
def Obligations.DecodeEncode : Prop :=
  ∀ i r f, i.parts = some (r, f) → i.wf = true → decode f.form.isDense (encode i) = .ok i

/-- Every step keeps memory in its canonical form: device memory, host memory and the side band list rising addresses,
and nothing that an unlisted address reads as. Where the spec leaves it open the model chooses: what an unlisted byte
reads as (log entry 5). -/
def Obligations.MemoryStaysCanonical : Prop :=
  ∀ s t, s.memOk = true → step s = .next t → t.memOk = true

/-- After reset (20 R447) memory is in its canonical form, CLK is 0, the side band is clear, and no context, key, session,
grid, team or group exists; a Dredge pass has neither been asked for nor run. -/
def Obligations.ResetState : Prop :=
  State.reset.memOk = true ∧ State.reset.clk = 0 ∧ (∀ sec, State.reset.sideAt sec = 0) ∧ State.reset.ctxs = [] ∧
  State.reset.keys = [] ∧ State.reset.sessions = [] ∧ State.reset.grids = [] ∧ State.reset.teams = [] ∧
  State.reset.groups = [] ∧ State.reset.granted = [] ∧ State.reset.dredge.state = .idle ∧ State.reset.dredge.completed = 0 ∧
  State.reset.dredge.requested = 0 ∧ State.reset.revoked = []

/-- A p register holds one bit per thread and reads as 0 or 1; a result that is written to one is 1 where it is not zero, in
the threads that take part; p0 reads as 1 in every thread and a write to it is discarded (03 R52). -/
def Obligations.PredicateRegisters : Prop :=
  (∀ (g : Group) width i, i < width → width ≤ 64 → (g.pget width 0).getLsbD i = true) ∧
  (∀ (e : Env) n i, e.read (.p n) i = if (e.g.pget e.gr.width n.val).getLsbD i then 1 else 0) ∧
  (∀ (e : Env) (n : Fin 16) (ws : List Nat) (w : Nat → DWord) tn l wide unif i, e.f.dst = .p n → (∀ j ∈ ws, j < 64) → i < 64 →
    ((e.writeResult (ws.map (fun j => (j, w j))) tn l wide unif).pget e.gr.width n.val).getLsbD i =
      (if n.val ≠ 0 ∧ i ∈ ws then (w i).setWidth 32 != (0 : Word) else (e.g.pget e.gr.width n.val).getLsbD i)) ∧
  (∀ (e : Env) (ws : List Nat) (w : Nat → DWord) tn l wide unif, e.f.dst = .p 0 →
    (e.writeResult (ws.map (fun j => (j, w j))) tn l wide unif).p = e.g.p)

/-- Memory is little-endian (00 R9): byte j of a multi-byte value holds bits [8j + 7 : 8j], reading gives the value back, and
a capability stored at A holds bits [63:0] at A and bits [127:64] at A + 8. -/
def Obligations.LittleEndian : Prop :=
  (∀ n v j, j < n → (bytesOfNat n v)[j]? = some (BitVec.ofNat 8 (v / 2 ^ (8 * j)))) ∧
  (∀ n v m a, bytesAt (setBytes m a (bytesOfNat n v)) a n = bytesOfNat n v ∧
    natOfBytes (bytesAt (setBytes m a (bytesOfNat n v)) a n) = v % 2 ^ (8 * n)) ∧
  (∀ (k : BitVec 128) m a, let m' := setBytes m a (bytesOfNat 16 k.toNat)
    natOfBytes (bytesAt m' a 8) = (k.extractLsb' 0 64).toNat ∧
    natOfBytes (bytesAt m' (a + 8) 8) = (k.extractLsb' 64 64).toNat)

namespace Sys2Proof.Machine

open Sys2Proof

/-! ### Where instructions trap -/

/-- A step of the table of 13 R271: its fault, when an access fails it, and the address that it reports. -/
structure AccessCheck where
  code : Byte
  fails : MemAcc → Prop
  reports : MemAcc → Int

/-- A step that reports the effective address. -/
def AccessCheck.ofEa (code : Byte) (fails : MemAcc → Prop) : AccessCheck := ⟨code, fails, fun a => a.ea⟩

/-- The address that step 8 reports: of a packed block within the address space, whose three bytes are its parts, the first byte outside
the bounds (12 R267). -/
def firstOutside (n : Nat) (a : MemAcc) : Int :=
  if n = 3 ∧ 0 ≤ a.ea ∧ a.ea + 3 ≤ ((2 ^ 56 : Nat) : Int) then
    match (List.range 3).find? (fun j => !a.k.inBounds (a.ea.toNat + j) 1) with
    | some j => a.ea + (j : Int)
    | none => a.ea
  else a.ea

/-- Steps 3 to 8 of 13 R271 for accesses of `n` bytes: tag, seal, KIND, colour, permissions, bounds (13 R268, R272). -/
def capTable (s : State) (e : Env) (kinds : MemAcc → Prop) (perms : MemAcc → List Nat) (n : Nat) : List AccessCheck :=
  [.ofEa cTAG (fun a => a.k.tag = false), .ofEa cSEAL (fun a => a.k.otype ≠ 0), .ofEa cKIND (fun a => ¬ kinds a),
   .ofEa cCOLOUR (fun a => s.permits e.ctx a.k.col = false),
   .ofEa cPERM (fun a => (∃ p ∈ perms a, a.k.has p = false) ∨ (needsTile a.ea = true ∧ a.k.has pTILE = false)),
   ⟨cBOUND, fun a => a.ea < 0 ∨ a.ea + n > ((2 ^ 56 : Nat) : Int) ∨ a.k.inBounds a.ea.toNat n = false, firstOutside n⟩]

/-- Step 9: alignment, and the rule of 03 R64 for windows. -/
def alignTable (n al : Nat) : List AccessCheck :=
  [.ofEa cALIGN (fun a => a.ea.toNat % al ≠ 0 ∨ (isWin a.ea.toNat = true ∧ winAligned a.ea.toNat n = false))]

/-- Step 10: the label of the data written (18 R394). -/
def labelTable (l : Label) : List AccessCheck :=
  [.ofEa cLABEL (fun a => lblLimit a.k a.ea.toNat < l.toNat)]

/-- Step 11: the first compute-only part that is written (18 R402). -/
def coTable (s : State) (n : Nat) : List AccessCheck :=
  [⟨cCOSTORE, fun a => ∃ p ∈ lineParts a.ea.toNat n, s.coAt p.1 p.2 = true,
    fun a => (((lineParts a.ea.toNat n).find? (fun p => s.coAt p.1 p.2)).map (fun p => (p.1 : Int))).getD 0⟩]

/-- The accesses fail a table first with a fault, by a thread, at an address: no access fails an earlier step, and of those that fail the
step the thread is the first. -/
def FailsFirst (steps : List AccessCheck) (as : List MemAcc) (code : Byte) (thread : Nat) (addr : Int) : Prop :=
  ∃ (k : Nat) (x : AccessCheck) (pre : List MemAcc) (a : MemAcc) (post : List MemAcc), steps[k]? = some x ∧
    (∀ (j : Nat) (y : AccessCheck), j < k → steps[j]? = some y → ∀ b ∈ as, ¬ y.fails b) ∧ as = pre ++ a :: post ∧
    (∀ b ∈ pre, ¬ x.fails b) ∧ x.fails a ∧ code = x.code ∧ thread = a.i ∧ addr = x.reports a

/-- The steps of 13 R271 in order: EARLY_READ, ILLEGAL_OPERAND, and, where a thread takes part and no fence of the group is under way,
the first failing step of the table. -/
def TrapsInOrder (s : State) (e : Env) (i : Instr) (early bad : Prop) (steps : List AccessCheck) (as : List MemAcc) : Prop :=
  (early → exec i s = .next (e.take s { code := cEARLY })) ∧
  (¬ early → bad → exec i s = .next (e.take s { code := cILOPER })) ∧
  (¬ early → ¬ bad → e.any = true → e.g.fencing = 0 → ∀ c j x, FailsFirst steps as c j x →
    exec i s = .next (e.take s { code := c, fthread := some j, faddr := bitsOf 64 x }))

/-- A register of the capability, the index or the destination of a load is pending. -/
def LoadEarly (e : Env) (size : Nat) : Prop :=
  e.capPend e.f.a = true ∨ e.pendSrc e.f.b = true ∨ e.shapePendDst e.f.dst (sizeRegs size).1 (sizeRegs size).2 = true

/-- A register of the capability, the index or the data of a store is pending. -/
def StoreEarly (e : Env) (size : Nat) : Prop :=
  e.capPend e.f.a = true ∨ e.pendSrc e.f.b = true ∨ e.shapePend e.f.c (sizeRegs size).1 (sizeRegs size).2 = true

/-- The address operands are no capability, or QUAL has no meaning (13 R268). -/
def AddrBad (e : Env) (queued : Bool) : Prop := e.f.qualOk queued = false ∨ e.capSrcOk e.f.a = false

/-- The access lies outside the team's own tarn on this core (13 R272; 03 R61). -/
def OutsideTarn (s : State) (e : Env) (n : Nat) (a : MemAcc) : Prop :=
  a.ea.toNat / 2 ^ 38 ≠ s.tarnPrefix e.coreRes.core e.coreRes.slot ∨ a.ea.toNat % 2 ^ 38 + n > e.gr.tarn * 4096

/-- A tagged capability without GLOBAL is stored outside the team's own block (17 R371). -/
def Escapes (s : State) (e : Env) (a : MemAcc) : Prop :=
  (e.cap e.f.c a.i).tag = true ∧ (e.cap e.f.c a.i).has pGLOBAL = false ∧ ¬ OwnBlock e s a

/-- What an atomic's destination and width require (13 R282, R284 to R286). -/
def AtomShape.Fits (x : AtomShape) (e : Env) : Prop :=
  (match e.f.dst with
    | .v d => x.wide e = false ∧ d.val < e.gr.vregs
    | .s _ => e.uniform e.f.a = true ∧ e.uniform e.f.b = true ∧ (x.srcs e).all e.uniform = true
    | .none => True
    | _ => False) ∧
  (x.wide e = true → isSPair e.f.a = true ∧ e.uniform e.f.b = true ∧ (x.srcs e).all e.uniform = true)

/-- The traps of a form of atomic (13 R271, R282). -/
def AtomTraps (mk : Fields → Instr) (x : AtomShape) : Prop :=
  ∀ f s e, Issues (mk f) s e false →
    TrapsInOrder s e (mk f)
      (e.capPend e.f.a = true ∨ e.pendSrc e.f.b = true ∨ (x.srcs e).any e.pendSrc = true ∨ e.pendDst e.f.dst = true)
      (¬ x.ok e ∨ e.f.scope = 3 ∨ AddrBad e true ∨ ¬ x.Fits e)
      (capTable s e (fun a => a.k.kind = 0 ∧ 0 ≤ a.ea ∧ isDev a.ea.toNat = true) (fun _ => [pLD, pST]) (x.bytes e) ++
        alignTable (x.bytes e) (x.bytes e) ++ labelTable (e.lbls (x.data e)) ++ coTable s (x.bytes e))
      (x.accs e)

/-- A check of a capability instruction: its fault, whether a thread fails it, and the cursor reported. -/
abbrev ThreadCheck := Byte × Bool × Nat

/-- The first failing thread fails first with a fault at an address (17 R378). -/
def ThreadFails (e : Env) (cs : Nat → List ThreadCheck) (code : Byte) (i addr : Nat) : Prop :=
  ∃ (pre post : List Nat) (k : Nat), e.parts = pre ++ i :: post ∧ (∀ j ∈ pre, ∀ c ∈ cs j, c.2.1 = false) ∧
    (cs i)[k]? = some (code, true, addr) ∧ ∀ (m : Nat) (c : ThreadCheck), m < k → (cs i)[m]? = some c → c.2.1 = false

/-- The checks of a capability instruction in order (17 R378): EARLY_READ, ILLEGAL_OPERAND, the CAP_ faults. -/
def CapTraps (mk : Fields → Instr) (here : Env → Prop) (early : Env → Prop) (bad : Env → Prop)
    (cs : State → Env → Nat → List ThreadCheck) : Prop :=
  ∀ f s e, Issues (mk f) s e false → here e →
    (early e ∨ e.shapePendDst e.f.dst 4 2 = true → exec (mk f) s = .next (e.take s { code := cEARLY })) ∧
    (¬ early e → e.shapePendDst e.f.dst 4 2 = false → bad e → exec (mk f) s = .next (e.take s { code := cILOPER })) ∧
    (¬ early e → e.shapePendDst e.f.dst 4 2 = false → ¬ bad e → ∀ c i a, ThreadFails e (cs s e) c i a →
      exec (mk f) s = .next (e.take s { code := c, fthread := some i, faddr := a }))

/-- The operands of a capability instruction with a capability destination do not fit (03 R51, R56; 17 R377). -/
def CapBad (e : Env) (caps : List Src) (us : List Src) : Prop :=
  e.f.qual ≠ 0 ∨ e.capDstOk e.f.dst = false ∨ e.dstOk false us = false ∨ ∃ x ∈ caps, e.capSrcOk x = false

/-- What a tagged A of a derivation must be (17 R379). -/
def derivedChecks (k : TCap) : List ThreadCheck :=
  [(cSEAL, k.tag && k.otype != 0, k.addr), (cKIND, k.tag && (k.kind == 2 || k.kind == 5), k.addr)]

/-- What a sealer or an unsealer must be beyond its tag and its seal (17 R381). -/
def sealerChecks (e : Env) (b : TCap) (perm : Nat) : List ThreadCheck :=
  [(cKIND, b.kind != 0, b.addr), (cCOLOUR, !e.ctx.permits b.col, b.addr), (cPERM, !b.has perm, b.addr),
    (cBOUND, !(b.inBounds b.addr 1 && decide (1 ≤ b.addr) && decide (b.addr ≤ 61)), b.addr)]

/-- An instruction of the floating-point, conversion or special-function class that would set an enabled flag raises FP_TRAP, whose
frame shows the flags, and has no effect (07 R148; 08 R151). -/
def FlagTraps (mk : Fields → Instr) (ok : Env → Prop) (h : Env → Lane) : Prop :=
  ∀ f s e, Issues (mk f) s e true → ok e → Fits e e.srcs → e.flagsOf (h e) &&& e.g.fpten ≠ 0 →
    let first := (e.parts.filter (fun i => ((h e i).2 &&& e.g.fpten) != 0)).head?
    exec (mk f) s = .next (e.take s { code := cFPTRAP, xflags := e.flagsOf (h e), fthread := first })

/-- A run rule of Torub-N is broken (04 R81): a run-ending instruction without RE, the 25th instruction of a run, a meeting address
inside it. -/
def RunBroken (e : Env) (row : OpRow) : Prop :=
  (runEndDuty row e.f.mod = true ∧ e.f.re = false) ∨ 24 ≤ e.g.run.count ∨ e.meetInside = true

/-- A combination of LAT and DST that 04 R83 forbids, or a read of a latch that is not valid (04 R84). -/
def LatchBroken (e : Env) : Prop := latOk e.f.lat e.f.dst = false ∨ e.badLatch = true

end Sys2Proof.Machine

/-- Where memory accesses trap (13 R271, R272, R279, R282): `ld`, `ldk`, `st`, `stk`, `ldt`, `stt` and the atomics make the checks of the
table in order, each for the first thread that fails it; a tarn access outside the team's own tarn raises CAP_BOUND, a capability that
may not leave its team CAP_PERM. -/
def Rules.AccessTraps : Prop :=
  (∀ f s e, Issues (.ld f) s e false →
    TrapsInOrder s e (.ld f) (LoadEarly e e.f.size)
      (e.f.sizeOk true = false ∨ AddrBad e true ∨ ¬ LoadDst e e.f.size true false)
      (capTable s e (loadKinds false) (fun _ => [pLD]) (sizeBytes e.f.size) ++
        alignTable (sizeBytes e.f.size) (sizeAlign e.f.size))
      (e.accs (e.actors e.f.dst.isS))) ∧
  (∀ f s e, Issues (.ldk f) s e false →
    TrapsInOrder s e (.ldk f) (LoadEarly e 4) (e.f.mod ≠ 0 ∨ AddrBad e true ∨ ¬ LoadDst e 4 false false)
      (capTable s e (loadKinds true) (fun _ => [pLD]) 16 ++ alignTable 16 16) (e.accs (e.actors e.f.dst.isS))) ∧
  (∀ f s e, Issues (.st f) s e false →
    TrapsInOrder s e (.st f) (StoreEarly e e.f.size)
      (e.f.sizeOk false = false ∨ e.dataOk e.f.c e.f.size = false ∨ AddrBad e false)
      (capTable s e (loadKinds false) (fun _ => [pST]) (sizeBytes e.f.size) ++
        alignTable (sizeBytes e.f.size) (sizeAlign e.f.size) ++
        labelTable (e.shapeLbl e.f.c (sizeRegs e.f.size).1 (sizeRegs e.f.size).2) ++ coTable s (sizeBytes e.f.size))
      (e.accs e.parts)) ∧
  (∀ f s e, Issues (.stk f) s e false →
    let early := StoreEarly e 4
    let bad := e.f.mod ≠ 0 ∨ e.capSrcOk e.f.c = false ∨ AddrBad e false
    let perms (a : MemAcc) : List Nat := if (e.cap e.f.c a.i).tag = true then [pST, pSTCAP] else [pST]
    let caps := capTable s e (loadKinds true) perms 16
    ((∀ a ∈ e.accs e.parts, ¬ Escapes s e a) → TrapsInOrder s e (.stk f) early bad
      (caps ++ alignTable 16 16 ++ labelTable (e.shapeLbl e.f.c 4 2) ++ coTable s 16) (e.accs e.parts)) ∧
    (¬ early → ¬ bad → e.any = true → e.g.fencing = 0 →
      (∀ x ∈ caps.take 5, ∀ a ∈ e.accs e.parts, ¬ x.fails a) → ∀ c j x, FailsFirst [.ofEa cPERM (Escapes s e)] (e.accs e.parts) c j x →
      exec (.stk f) s = .next (e.take s { code := c, fthread := some j, faddr := bitsOf 64 x }))) ∧
  (∀ f s e, Issues (.ldt f) s e (f.size != 3 && f.size != 4) →
    let n := sizeBytes e.f.size
    let as := e.accs (e.actors e.f.dst.isS)
    let early := LoadEarly e e.f.size
    let bad := e.f.sizeOk true = false ∨ AddrBad e false ∨ ¬ LoadDst e e.f.size (asksCapture e.f) true
    let caps := capTable s e (fun a => a.k.kind = 3) (fun _ => [pLD]) n
    ((∀ a ∈ as, ¬ OutsideTarn s e n a) →
      TrapsInOrder s e (.ldt f) early bad (caps ++ alignTable n (sizeAlign e.f.size)) as) ∧
    (¬ early → ¬ bad → e.any = true → e.g.fencing = 0 → (∀ x ∈ caps, ∀ a ∈ as, ¬ x.fails a) →
      ∀ c j x, FailsFirst [.ofEa cBOUND (OutsideTarn s e n)] as c j x →
      exec (.ldt f) s = .next (e.take s { code := c, fthread := some j, faddr := bitsOf 64 x }))) ∧
  (∀ f s e, Issues (.stt f) s e false →
    let n := sizeBytes e.f.size
    let as := e.accs e.parts
    let early := StoreEarly e e.f.size
    let bad := e.f.sizeOk false = false ∨ e.dataOk e.f.c e.f.size = false ∨ AddrBad e false
    let caps := capTable s e (fun a => a.k.kind = 3) (fun _ => [pST]) n
    ((∀ a ∈ as, ¬ OutsideTarn s e n a) →
      TrapsInOrder s e (.stt f) early bad (caps ++ alignTable n (sizeAlign e.f.size) ++
        labelTable (e.shapeLbl e.f.c (sizeRegs e.f.size).1 (sizeRegs e.f.size).2)) as) ∧
    (¬ early → ¬ bad → e.any = true → e.g.fencing = 0 → (∀ x ∈ caps, ∀ a ∈ as, ¬ x.fails a) →
      ∀ c j x, FailsFirst [.ofEa cBOUND (OutsideTarn s e n)] as c j x →
      exec (.stt f) s = .next (e.take s { code := c, fthread := some j, faddr := bitsOf 64 x }))) ∧
  AtomTraps .atom atomShape ∧ AtomTraps .atomf atomfShape ∧ AtomTraps .atomfAddOrd atomfOrdShape ∧ AtomTraps .cas casShape

/-- Where capability instructions trap (17 R378 to R381, R386): the checks of each in order, for the first thread that fails one; and a
derivation of an untagged capability raises none of them. -/
def Rules.CapabilityTraps : Prop :=
  CapTraps .kbound (fun _ => True) (fun e => e.capPend e.f.a = true ∨ e.pendSrc e.f.b = true)
    (fun e => 2 ≤ e.f.mod.toNat ∨ CapBad e [e.f.a] [e.f.a, e.f.b])
    (fun _ e i => let k := e.cap e.f.a i
      derivedChecks k ++ [(cBOUND, k.tag && (boundCap k (e.capInt e.f.b false i).toNat (e.f.mod.getLsbD 0)).2, k.addr)]) ∧
  (∀ (mk : Fields → Instr), mk ∈ [Instr.kaddr, .kadd] →
    CapTraps mk (fun _ => True) (fun e => e.capPend e.f.a = true ∨ e.pendSrc e.f.b = true)
      (fun e => e.f.mod ≠ 0 ∨ CapBad e [e.f.a] [e.f.a, e.f.b]) (fun _ e i => derivedChecks (e.cap e.f.a i))) ∧
  CapTraps .kperm (fun _ => True) (fun e => e.capPend e.f.a = true ∨ e.pendSrc e.f.b = true)
    (fun e => 2 ≤ e.f.mod.toNat ∨ CapBad e [e.f.a] [e.f.a, e.f.b])
    (fun _ e i => let k := e.cap e.f.a i
      [(cILOPER, decide ((if e.f.mod.getLsbD 0 then 2 ^ 14 else 2 ^ 12) ≤ (e.capInt e.f.b false i).toNat), 0),
        (cSEAL, k.tag && k.otype != 0, k.addr)]) ∧
  CapTraps .kseal (fun e => e.f.mod.getLsbD 0 = false) (fun e => e.capPend e.f.a = true ∨ e.capPend e.f.b = true)
    (fun e => e.f.mod ≠ 0 ∨ CapBad e [e.f.a, e.f.b] [e.f.a, e.f.b])
    (fun _ e i => let a := e.cap e.f.a i
      let b := e.cap e.f.b i
      [(cTAG, !a.tag, a.addr), (cTAG, !b.tag, b.addr), (cSEAL, a.otype != 0, a.addr), (cSEAL, b.otype != 0, b.addr)] ++
        sealerChecks e b pSEAL) ∧
  CapTraps .kseal (fun e => e.f.mod.getLsbD 0 = true) (fun e => e.capPend e.f.a = true)
    (fun e => e.f.mod ≠ 1 ∨ e.f.b ≠ .zero ∨ CapBad e [e.f.a] [e.f.a])
    (fun _ e i => let a := e.cap e.f.a i
      [(cTAG, !a.tag, a.addr), (cSEAL, a.otype != 0, a.addr), (cKIND, a.kind != 1, a.addr), (cPERM, !a.has pEXEC, a.addr)]) ∧
  CapTraps .kunseal (fun _ => True) (fun e => e.capPend e.f.a = true ∨ e.capPend e.f.b = true)
    (fun e => e.f.mod ≠ 0 ∨ CapBad e [e.f.a, e.f.b] [e.f.a, e.f.b])
    (fun _ e i => let a := e.cap e.f.a i
      let b := e.cap e.f.b i
      [(cTAG, !a.tag, a.addr), (cTAG, !b.tag, b.addr), (cSEAL, !(decide (1 ≤ a.otype) && decide (a.otype ≤ 61)), a.addr),
        (cSEAL, b.otype != 0 || b.addr != a.otype, b.addr)] ++ sealerChecks e b pUNSEAL) ∧
  CapTraps .kunsealGrant (fun _ => True) (fun e => e.capPend e.f.a = true)
    (fun e => e.f.mod ≠ 1 ∨ e.f.b ≠ .zero ∨ CapBad e [e.f.a] [e.f.a])
    (fun s e i => let a := e.cap e.f.a i
      [(cTAG, !a.tag || (a.otype == 62 && (s.tokenEntry a).isNone), a.addr),
        (cSEAL, a.otype != 62 || decide (a.kind > 4) || !(s.tokenEntry a).any e.isRecipient, a.addr),
        (cCOLOUR, !e.ctx.permits a.col, a.addr)])

/-- Decode steps 6 to 9 (04 R85): for every instruction but `fdiv`, which is not implemented, a form that its opcode does not allow, a
broken run rule, a bad or missing latch, and an operand that its row does not use or that lies outside the allocation, each when no
earlier one applies. -/
def Rules.DecodeTraps : Prop :=
  ∀ i row f s e, i.parts = some (row, f) → (∀ f', i ≠ .fdiv f') → s.env? row f = some e → e.g.owed = none →
    (row.formOk f.form = false → exec i s = .next (e.take s { code := cILFORM })) ∧
    (row.formOk f.form = true → f.form.isDense = false → RunBroken e row → exec i s = .next (e.take s { code := cILRUN })) ∧
    (row.formOk f.form = true → f.form.isDense = false → ¬ RunBroken e row → LatchBroken e →
      exec i s = .next (e.take s { code := cILLATCH })) ∧
    (row.formOk f.form = true → (f.form.isDense = false → ¬ RunBroken e row ∧ ¬ LatchBroken e ∧ asksCapture f = false) →
      (f.clean row = false ∨ (∃ x ∈ [f.a, f.b, f.c, f.d], ∃ n, x = .v n ∧ e.gr.vregs ≤ n.val) ∨
        (∃ n, f.dst = .v n ∧ e.gr.vregs ≤ n.val)) →
      exec i s = .next (e.take s { code := cILOPER }))

/-- FP_TRAP (07 R148): arithmetic, comparisons, special functions and conversions whose result sets an enabled flag. -/
def Rules.FlagTrap : Prop :=
  FlagTraps .fadd (FloatForm true false 1) (arithLane (fun rd a b _ => addFp rd a b)) ∧
  FlagTraps .fsub (FloatForm true false 1) (arithLane (fun rd a b _ => addFp rd a (negFp b))) ∧
  FlagTraps .fmul (FloatForm true false 1) (arithLane (fun _ a b _ => mulFp a b)) ∧
  FlagTraps .ffma (FloatForm true false 1) (arithLane (fun rd a b c => fmaFp rd a b c)) ∧
  FlagTraps .frint (FloatForm true true 1)
    (fun e => e.elems (fun i k => rintPat e.ffmt (e.rm false) (e.f.mod.getLsbD 5) (e.patA i k))) ∧
  FlagTraps .fldexp (FloatForm true false 1) fldexpLane ∧ FlagTraps .fcmp (FloatForm false false 8) fcmpLane ∧
  FlagTraps .rcp (FloatForm true false 1) (exactLane rcpFp) ∧ FlagTraps .rsqrt (FloatForm true false 1) (exactLane rsqrtFp) ∧
  FlagTraps .sqrt (FloatForm true false 1) (exactLane sqrtFp) ∧
  FlagTraps .exp2 (FloatForm false false 1) (refLane true exp2Ref) ∧
  FlagTraps .log2 (FloatForm false false 1) (refLane false log2Ref) ∧
  FlagTraps .cvt (fun e => e.f.mod.toNat % 8 < 7 ∧ e.f.mod.toNat / 8 < 7 ∧ e.f.mod.toNat % 8 ≠ e.f.mod.toNat / 8 ∧ e.f.qual = 0)
    cvtLane ∧
  FlagTraps .cvtf (fun e => e.f.mod.toNat < 2 ∧ e.f.qual.toNat < 8) cvtfLane ∧
  FlagTraps .qscale (fun e => e.f.mod.toNat < 2 ∧ e.f.qual.toNat < 8 ∧ (emaxOf (slotFmt e.slot)).isSome = true) qscaleLane

/-- Where instructions trap: memory accesses (13 R271, R272), capability instructions (17 R378), the decode checks (04
R85), FP_TRAP (07 R148). Where the spec leaves it open the model chooses: SRCB beside IMM (log entry 125). -/
def Obligations.InstructionTraps : Prop := Rules.AccessTraps ∧ Rules.CapabilityTraps ∧ Rules.DecodeTraps ∧ Rules.FlagTrap

namespace Sys2Proof.Machine

open Sys2Proof

/-! ### Saving and restoring -/

/-- The keys of a map rise and lie below a bound. -/
def KeysBelow {α : Type} (m : List (Nat × α)) (n : Nat) : Prop := (m.map (·.1)).Pairwise (· < ·) ∧ ∀ p ∈ m, p.1 < n

/-- A group's registers lie within its allocation and its records within their block (03 R50, R67). -/
structure GroupFits (gr : Grid) (g : Group) : Prop where
  v : (g.v.map (·.1)).Pairwise (· < ·) ∧ ∀ p ∈ g.v, p.1 / 64 < gr.vregs ∧ p.1 % 64 < gr.width
  side : ∀ p ∈ g.vside, p.1 < gr.vregs
  tags : ∀ p ∈ g.vtag, p.1 / 64 < gr.vregs / 4 ∧ p.1 % 64 < gr.width
  defer : g.deferBytes.length ≤ 0x10000
  p : ∀ n, g.pget gr.width n &&& firstMask gr.width = g.pget gr.width n
  mode : g.mode &&& 0xFFF = g.mode ∧ g.sat &&& 0x7F = g.sat
  threads : g.threads.length = gr.width

/-- A core image can be written at a base in device memory: its groups exist, and everything lies within its area (03 R65 to R67). -/
structure ImageFits (s : State) (gr : Grid) (t : Team) (r : CoreRes) (member base : Nat) : Prop where
  base : base % 4096 = 0 ∧ ∀ x, x < 4096 * (gr.areas member).size → isDev (base + x) = true
  mem : Memory.wf s.mem = true
  width : gr.width ∈ [16, 32, 64]
  groups : ∀ gid ∈ gr.gidsAt member, ∃ g, s.group? t.id gid = some g ∧ GroupFits gr g
  tiles : gr.tiles ≤ 8 ∧ KeysBelow r.tiles gr.tiles ∧ ∀ p ∈ r.tiles, KeysBelow p.2.bytes 0x10000 ∧ p.2.keycol < 4096
  accs : gr.accs ≤ 16 ∧ KeysBelow r.accs gr.accs ∧ ∀ p ∈ r.accs, KeysBelow p.2.el 20480
  mscr : KeysBelow r.mscr (16384 * gr.mscr)
  tarn : KeysBelow r.tarn (4096 * gr.tarn)
  team : member = 0 → KeysBelow t.guards 64 ∧ KeysBelow t.bars 24 ∧ KeysBelow t.binds 24 ∧ KeysBelow t.mrecs 16 ∧ KeysBelow t.streams 16

/-- The registers and the threads of a group that an image gives back. -/
structure SameGroup (gr : Grid) (g g' : Group) : Prop where
  v : ∀ n i, n < gr.vregs → i < gr.width → g'.vget n i = g.vget n i
  s : ∀ n, n < 64 → g'.sget n = g.sget n
  p : ∀ n, n < 16 → g'.pget gr.width n = g.pget gr.width n
  c : g'.c = g.c
  sr : g'.mode = g.mode ∧ g'.sat = g.sat ∧ g'.psize = g.psize
  kcode : g'.kcode.bits = g.kcode.bits
  threads : g'.threads.map (fun h => (h.pc, h.meet, h.exited, h.held)) = g.threads.map (fun h => (h.pc, h.meet, h.exited, h.held))

/-- The tiles, accumulators, mere scratch and tarn of a core that an image gives back. -/
structure SameCore (gr : Grid) (r r' : CoreRes) : Prop where
  tiles : ∀ n, n < gr.tiles → (mget Tile.zero r'.tiles n).co = (mget Tile.zero r.tiles n).co ∧
    ((mget Tile.zero r.tiles n).co = true → (mget Tile.zero r'.tiles n).keycol = (mget Tile.zero r.tiles n).keycol) ∧
    ∀ j, j < 0x10000 → byteAt (mget Tile.zero r'.tiles n).bytes j = byteAt (mget Tile.zero r.tiles n).bytes j
  accs : ∀ n, n < gr.accs → (mget Acc.zero r'.accs n).stream = (mget Acc.zero r.accs n).stream ∧
    (mget Acc.zero r'.accs n).unwaited = (mget Acc.zero r.accs n).unwaited ∧
    ∀ j, j < 20480 → mget 0 (mget Acc.zero r'.accs n).el j = mget 0 (mget Acc.zero r.accs n).el j
  mscr : ∀ j, j < 16384 * gr.mscr → byteAt r'.mscr j = byteAt r.mscr j
  tarn : ∀ j, j < 4096 * gr.tarn → byteAt r'.tarn j = byteAt r.tarn j

/-- The state from which the images of a team are written: its flags are in its records, its groups as they are recorded (19 R434). -/
def State.beforeImages (s : State) (team : Nat) : State := (s.foldFlags team).modGroups team Group.recorded

/-- Where the directory says that the image of a team for a core begins (19 R433), in units. -/
def State.imageUnit (s : State) (c : Ctx) (gr : Grid) (t : Team) (r : CoreRes) : Nat :=
  ((s.dirOf c gr.tag t.kid).filterMap (fun i =>
    if natOfBytes (bytesAt s.mem (c.dirAt i + 12) 2) = r.core then some (natOfBytes (bytesAt s.mem (c.dirAt i + 16) 4)) else none)).headD 0

end Sys2Proof.Machine

/-- A save and a restore keep what the team holds (03 R65 to R68; 19 R433, R434, R436): a group and a core read from
an image hold the registers, the tiles, the accumulators, the mere scratch and the tarn that were written into it;
TEAM_SAVE writes these images at the places that it finds in the save area and names them in the directory;
TEAM_RESTORE gives the team what its images hold. Where the spec leaves it open the model chooses: what a save keeps
(log entry 76), the order of restores (log entry 72). -/
def Obligations.SaveAndRestore : Prop :=
  (∀ s gr t r member base, ImageFits s gr t r member base →
    let s' := s.writeImage gr t r member base
    (∀ i gid g old, (gr.gidsAt member)[i]? = some gid → s.group? t.id gid = some g →
      SameGroup gr g (s'.readGroup gr (gr.areas member) old base i)) ∧
    SameCore gr r (s'.readCore gr (gr.areas member) r.shell base)) ∧
  (∀ team (tm tm1 : Team) gr c offs s, Identified s → s.team? team = some tm → s.grid? tm.grid = some gr → s.ctx? gr.colour = some c →
    tm.status = .saving → tm.term = none → s.settled tm = true → s.saveBad tm = none → (∀ a n, s.badSec? a n = none) →
    placeAll (c.saveLen / 4096) gr.imageSizes (s.dirUsed c) = some offs → (s.beforeImages team).team? team = some tm1 →
    (∀ (j : Nat) (r : CoreRes) (o : Nat), tm1.cores[j]? = some r → offs[j]? = some o → ImageFits (s.beforeImages team) gr tm1 r j (c.saveBase + 4096 * o)) →
    ∃ t, ∃ tm' : Team, exec (.teamSave team) s = .next t ∧ t.team? team = some tm' ∧ tm'.status = .saved ∧
      ∀ (j : Nat) (r : CoreRes) (o : Nat), tm1.cores[j]? = some r → offs[j]? = some o →
        let base := c.saveBase + 4096 * o
        let s' := (s.beforeImages team).writeImage gr tm1 r j base
        ∀ x, x < 4096 * (gr.areas j).size → byteAt t.mem (base + x) = byteAt s'.mem (base + x) ∧
          t.sideAt ((base + x) / 32) = s'.sideAt ((base + x) / 32)) ∧
  (∀ team (tm : Team) gr c d s, Identified s → s.team? team = some tm → s.grid? tm.grid = some gr → s.ctx? gr.colour = some c →
    s.savedNext gr.fn = some team → s.wdrrNext = some (gr.fn, d) → (∀ a n, s.badSec? a n = none) →
    (∀ r ∈ tm.cores, 64 ≤ s.imageUnit c gr tm r) →
    (∀ gid g, s.group? team gid = some g → g.team = team ∧ g.gid = gid) →
    ∃ t, ∃ tm' : Team, exec (.teamRestore team) s = .next t ∧ t.team? team = some tm' ∧
      ∀ (j : Nat) (r : CoreRes), tm.cores[j]? = some r →
        let base := c.saveBase + 4096 * s.imageUnit c gr tm r
        (∃ r' : CoreRes, tm'.cores[j]? = some r' ∧ SameCore gr (s.readCore gr (gr.areas j) r base) r') ∧
        ∀ i gid g, (gr.gidsAt j)[i]? = some gid → s.group? team gid = some g →
          let x := s.readGroup gr (gr.areas j) g base i
          ∃ g', t.group? team gid = some g' ∧ (∀ n k, g'.vget n k = x.vget n k) ∧ (∀ n, g'.sget n = x.sget n) ∧
            ∀ n, g'.pget gr.width n = x.pget gr.width n)
end

