-- ==== Sys2Proof/Laws/Maps.lean ====
section
/-! SUPPORT. Laws/Maps.lean: reading a finite map after writing it, the canonical form, and memory bytes. -/

namespace Sys2Proof.Machine

open Sys2Proof

variable {α : Type}

theorem mfind_mput (m : List (Nat × α)) (k k' : Nat) (a : α) :
    mfind (mput m k a) k' = if k' = k then some a else mfind m k' := by
  induction m with
  | nil => simp only [mput, mfind, eq_comm]
  | cons p m ih =>
    obtain ⟨q, b⟩ := p
    simp only [mput]
    split
    · simp only [mfind, eq_comm (a := k)]
    · split
      · subst q; by_cases h : k' = k
        · subst h; simp [mfind]
        · simp [mfind, h, Ne.symm h]
      · simp only [mfind, ih]
        by_cases h : q = k'
        · subst h; simp [Ne.symm ‹_›]
        · simp [h]

theorem mfind_mdel (m : List (Nat × α)) (k k' : Nat) :
    mfind (mdel m k) k' = if k' = k then none else mfind m k' := by
  induction m with
  | nil => simp [mdel, mfind]
  | cons p m ih =>
    obtain ⟨q, b⟩ := p
    simp only [mdel]
    split
    · subst q; rw [ih]; by_cases h : k' = k
      · simp [h]
      · simp [mfind, h, Ne.symm h]
    · simp only [mfind, ih]
      by_cases h : q = k'
      · subst h; simp [*]
      · simp [h]

theorem mfind_mmap (h : α → α) (m : List (Nat × α)) (k : Nat) :
    mfind (mmap h m) k = (mfind m k).map h := by
  induction m with
  | nil => rfl
  | cons p m ih =>
    obtain ⟨q, b⟩ := p
    simp only [mmap, mfind, ih]
    split <;> rfl

@[simp] theorem mget_mset [DecidableEq α] (d : α) (m : List (Nat × α)) (k k' : Nat) (a : α) :
    mget d (mset d m k a) k' = if k' = k then a else mget d m k' := by
  unfold mset mget
  split
  · rw [mfind_mdel]; split <;> simp [*]
  · rw [mfind_mput]; split <;> simp

@[simp] theorem mget_mput (d : α) (m : List (Nat × α)) (k k' : Nat) (a : α) :
    mget d (mput m k a) k' = if k' = k then a else mget d m k' := by
  unfold mget; rw [mfind_mput]; split <;> simp

@[simp] theorem mget_mmod [DecidableEq α] (d : α) (m : List (Nat × α)) (k k' : Nat) (f : α → α) :
    mget d (mmod d m k f) k' = if k' = k then f (mget d m k) else mget d m k' := by
  simp [mmod]

/-! ### The canonical form -/

theorem risingFrom_mono {lo lo' : Nat} (h : lo' ≤ lo) {m : List (Nat × α)} (r : risingFrom lo m = true) :
    risingFrom lo' m = true := by
  cases m with
  | nil => rfl
  | cons p m => obtain ⟨q, b⟩ := p; simp [risingFrom] at *; exact ⟨by omega, r.2⟩

theorem risingFrom_mput {lo k : Nat} {m : List (Nat × α)} (a : α) (r : risingFrom lo m = true) (h : lo ≤ k) :
    risingFrom lo (mput m k a) = true := by
  induction m generalizing lo with
  | nil => simp [mput, risingFrom, h]
  | cons p m ih =>
    obtain ⟨q, b⟩ := p
    simp only [risingFrom, Bool.and_eq_true, decide_eq_true_eq] at r
    simp only [mput]
    split
    · simp only [risingFrom, Bool.and_eq_true, decide_eq_true_eq]; exact ⟨h, by omega, r.2⟩
    · split
      · subst q; simp only [risingFrom, Bool.and_eq_true, decide_eq_true_eq]; exact ⟨h, r.2⟩
      · simp only [risingFrom, Bool.and_eq_true, decide_eq_true_eq]; exact ⟨r.1, ih r.2 (by omega)⟩

theorem risingFrom_mdel {lo : Nat} (k : Nat) {m : List (Nat × α)} (r : risingFrom lo m = true) :
    risingFrom lo (mdel m k) = true := by
  induction m generalizing lo with
  | nil => rfl
  | cons p m ih =>
    obtain ⟨q, b⟩ := p
    simp only [risingFrom, Bool.and_eq_true, decide_eq_true_eq] at r
    simp only [mdel]
    split
    · exact ih (risingFrom_mono (by omega) r.2)
    · simp only [risingFrom, Bool.and_eq_true, decide_eq_true_eq]; exact ⟨r.1, ih r.2⟩

theorem lean0_mput [DecidableEq α] {d a : α} {m : List (Nat × α)} (k : Nat) (h : lean0 d m = true) (ha : a ≠ d) :
    lean0 d (mput m k a) = true := by
  induction m with
  | nil => simp [mput, lean0, ha]
  | cons p m ih =>
    obtain ⟨q, b⟩ := p
    simp only [lean0, Bool.and_eq_true, decide_eq_true_eq] at h
    simp only [mput]
    split
    · simp [lean0, ha, h]
    · split <;> simp [lean0, ha, h, ih h.2]

theorem lean0_mdel [DecidableEq α] {d : α} {m : List (Nat × α)} (k : Nat) (h : lean0 d m = true) :
    lean0 d (mdel m k) = true := by
  induction m with
  | nil => rfl
  | cons p m ih =>
    obtain ⟨q, b⟩ := p
    simp only [lean0, Bool.and_eq_true, decide_eq_true_eq] at h
    simp only [mdel]
    split
    · exact ih h.2
    · simp [lean0, h, ih h.2]

theorem rising_mset [DecidableEq α] {d : α} {m : List (Nat × α)} (k : Nat) (a : α) (h : rising m = true) :
    rising (mset d m k a) = true := by
  unfold mset rising
  split
  · exact risingFrom_mdel k h
  · exact risingFrom_mput a h (Nat.zero_le k)

theorem lean0_mset [DecidableEq α] {d : α} {m : List (Nat × α)} (k : Nat) (a : α) (h : lean0 d m = true) :
    lean0 d (mset d m k a) = true := by
  unfold mset
  split
  · exact lean0_mdel k h
  · exact lean0_mput k h ‹_›

/-! ### Memory bytes -/

/-- A written byte reads back, and no other byte changes. -/
@[simp] theorem byteAt_setByte (m : List Host.Cell) (a a' : Nat) (b : Byte) :
    byteAt (setByte m a b) a' = if a' = a then b else byteAt m a' := mget_mset 0 m a a' b

/-- Writing one byte keeps memory canonical. -/
theorem wf_setByte {m : List Host.Cell} (a : Nat) (b : Byte) (h : Memory.wf m = true) :
    Memory.wf (setByte m a b) = true := by
  simp only [Memory.wf, Bool.and_eq_true] at *
  exact ⟨rising_mset a b h.1, lean0_mset a b h.2⟩

/-- Writing bytes in address order keeps memory canonical. -/
theorem wf_setBytes {m : List Host.Cell} (a : Nat) (bs : List Byte) (h : Memory.wf m = true) :
    Memory.wf (setBytes m a bs) = true := by
  induction bs generalizing m a with
  | nil => exact h
  | cons b bs ih => exact ih (a + 1) (wf_setByte a b h)

/-- A byte after writing bytes in address order: one of them, or the old one. -/
theorem byteAt_setBytes (m : List Host.Cell) (a a' : Nat) (bs : List Byte) :
    byteAt (setBytes m a bs) a' = if a ≤ a' then (bs[a' - a]?).getD (byteAt m a') else byteAt m a' := by
  induction bs generalizing m a with
  | nil => simp [setBytes]
  | cons b bs ih =>
    simp only [setBytes, ih, byteAt_setByte]
    by_cases h : a' = a
    · subst h; simp <;> omega
    · by_cases h2 : a ≤ a'
      · have h3 : a + 1 ≤ a' := by omega
        have h4 : a' - a = (a' - (a + 1)) + 1 := by omega
        simp [h, h2, h3, h4]
      · have h3 : ¬ a + 1 ≤ a' := by omega
        simp [h, h2, h3]

end Sys2Proof.Machine
end

