-- ==== Sys2Proof/Laws/State.lean ====
section
/-! SUPPORT. Laws/State.lean: what each update of the state leaves in each field. -/

namespace Sys2Proof.Machine

open Sys2Proof

/-! ### `setGroup` -/

@[simp] theorem State.setGroup_part (s : State) (g : Group) : (s.setGroup g).part = s.part := rfl
@[simp] theorem State.setGroup_clk (s : State) (g : Group) : (s.setGroup g).clk = s.clk := rfl
@[simp] theorem State.setGroup_now (s : State) (g : Group) : (s.setGroup g).now = s.now := rfl
@[simp] theorem State.setGroup_inputs (s : State) (g : Group) : (s.setGroup g).inputs = s.inputs := rfl
@[simp] theorem State.setGroup_free (s : State) (g : Group) : (s.setGroup g).free = s.free := rfl
@[simp] theorem State.setGroup_nextId (s : State) (g : Group) : (s.setGroup g).nextId = s.nextId := rfl
@[simp] theorem State.setGroup_cur (s : State) (g : Group) : (s.setGroup g).cur = s.cur := rfl
@[simp] theorem State.setGroup_mem (s : State) (g : Group) : (s.setGroup g).mem = s.mem := rfl
@[simp] theorem State.setGroup_side (s : State) (g : Group) : (s.setGroup g).side = s.side := rfl
@[simp] theorem State.setGroup_unc (s : State) (g : Group) : (s.setGroup g).unc = s.unc := rfl
@[simp] theorem State.setGroup_hostMem (s : State) (g : Group) : (s.setGroup g).hostMem = s.hostMem := rfl
@[simp] theorem State.setGroup_copies (s : State) (g : Group) : (s.setGroup g).copies = s.copies := rfl
@[simp] theorem State.setGroup_sent (s : State) (g : Group) : (s.setGroup g).sent = s.sent := rfl
@[simp] theorem State.setGroup_hostBad (s : State) (g : Group) : (s.setGroup g).hostBad = s.hostBad := rfl
@[simp] theorem State.setGroup_turns (s : State) (g : Group) : (s.setGroup g).turns = s.turns := rfl
@[simp] theorem State.setGroup_certs (s : State) (g : Group) : (s.setGroup g).certs = s.certs := rfl
@[simp] theorem State.setGroup_dbgReads (s : State) (g : Group) : (s.setGroup g).dbgReads = s.dbgReads := rfl
@[simp] theorem State.setGroup_spares (s : State) (g : Group) : (s.setGroup g).spares = s.spares := rfl
@[simp] theorem State.setGroup_revoked (s : State) (g : Group) : (s.setGroup g).revoked = s.revoked := rfl
@[simp] theorem State.setGroup_pins (s : State) (g : Group) : (s.setGroup g).pins = s.pins := rfl
@[simp] theorem State.setGroup_granted (s : State) (g : Group) : (s.setGroup g).granted = s.granted := rfl
@[simp] theorem State.setGroup_ungranted (s : State) (g : Group) : (s.setGroup g).ungranted = s.ungranted := rfl
@[simp] theorem State.setGroup_gblock (s : State) (g : Group) : (s.setGroup g).gblock = s.gblock := rfl
@[simp] theorem State.setGroup_snapb (s : State) (g : Group) : (s.setGroup g).snapb = s.snapb := rfl
@[simp] theorem State.setGroup_fns (s : State) (g : Group) : (s.setGroup g).fns = s.fns := rfl
@[simp] theorem State.setGroup_ctxs (s : State) (g : Group) : (s.setGroup g).ctxs = s.ctxs := rfl
@[simp] theorem State.setGroup_grids (s : State) (g : Group) : (s.setGroup g).grids = s.grids := rfl
@[simp] theorem State.setGroup_teams (s : State) (g : Group) : (s.setGroup g).teams = s.teams := rfl
@[simp] theorem State.setGroup_rrobin (s : State) (g : Group) : (s.setGroup g).rrobin = s.rrobin := rfl
@[simp] theorem State.setGroup_deficit (s : State) (g : Group) : (s.setGroup g).deficit = s.deficit := rfl
@[simp] theorem State.setGroup_claims (s : State) (g : Group) : (s.setGroup g).claims = s.claims := rfl
@[simp] theorem State.setGroup_lastFn (s : State) (g : Group) : (s.setGroup g).lastFn = s.lastFn := rfl
@[simp] theorem State.setGroup_wins (s : State) (g : Group) : (s.setGroup g).wins = s.wins := rfl
@[simp] theorem State.setGroup_atoms (s : State) (g : Group) : (s.setGroup g).atoms = s.atoms := rfl
@[simp] theorem State.setGroup_contribs (s : State) (g : Group) : (s.setGroup g).contribs = s.contribs := rfl
@[simp] theorem State.setGroup_syncs (s : State) (g : Group) : (s.setGroup g).syncs = s.syncs := rfl
@[simp] theorem State.setGroup_arrops (s : State) (g : Group) : (s.setGroup g).arrops = s.arrops := rfl
@[simp] theorem State.setGroup_cmds (s : State) (g : Group) : (s.setGroup g).cmds = s.cmds := rfl
@[simp] theorem State.setGroup_tlb (s : State) (g : Group) : (s.setGroup g).tlb = s.tlb := rfl
@[simp] theorem State.setGroup_ats (s : State) (g : Group) : (s.setGroup g).ats = s.ats := rfl
@[simp] theorem State.setGroup_dredge (s : State) (g : Group) : (s.setGroup g).dredge = s.dredge := rfl
@[simp] theorem State.setGroup_keys (s : State) (g : Group) : (s.setGroup g).keys = s.keys := rfl
@[simp] theorem State.setGroup_comap (s : State) (g : Group) : (s.setGroup g).comap = s.comap := rfl
@[simp] theorem State.setGroup_sessions (s : State) (g : Group) : (s.setGroup g).sessions = s.sessions := rfl
@[simp] theorem State.setGroup_devgroup (s : State) (g : Group) : (s.setGroup g).devgroup = s.devgroup := rfl
@[simp] theorem State.setGroup_measure (s : State) (g : Group) : (s.setGroup g).measure = s.measure := rfl
@[simp] theorem State.setGroup_staged (s : State) (g : Group) : (s.setGroup g).staged = s.staged := rfl
@[simp] theorem State.setGroup_replies (s : State) (g : Group) : (s.setGroup g).replies = s.replies := rfl
@[simp] theorem State.setGroup_receipts (s : State) (g : Group) : (s.setGroup g).receipts = s.receipts := rfl
@[simp] theorem State.setGroup_receiptsDue (s : State) (g : Group) : (s.setGroup g).receiptsDue = s.receiptsDue := rfl
@[simp] theorem State.setGroup_nextReceipt (s : State) (g : Group) : (s.setGroup g).nextReceipt = s.nextReceipt := rfl
@[simp] theorem State.setGroup_errs (s : State) (g : Group) : (s.setGroup g).errs = s.errs := rfl
@[simp] theorem State.setGroup_errW (s : State) (g : Group) : (s.setGroup g).errW = s.errW := rfl
@[simp] theorem State.setGroup_retiredPairs (s : State) (g : Group) : (s.setGroup g).retiredPairs = s.retiredPairs := rfl
@[simp] theorem State.setGroup_retiredPages (s : State) (g : Group) : (s.setGroup g).retiredPages = s.retiredPages := rfl
@[simp] theorem State.setGroup_disabled (s : State) (g : Group) : (s.setGroup g).disabled = s.disabled := rfl
@[simp] theorem State.setGroup_eccCounts (s : State) (g : Group) : (s.setGroup g).eccCounts = s.eccCounts := rfl
@[simp] theorem State.setGroup_ports (s : State) (g : Group) : (s.setGroup g).ports = s.ports := rfl
@[simp] theorem State.setGroup_patrol (s : State) (g : Group) : (s.setGroup g).patrol = s.patrol := rfl
@[simp] theorem State.setGroup_powerLimit (s : State) (g : Group) : (s.setGroup g).powerLimit = s.powerLimit := rfl

/-! ### `setTeam` -/

@[simp] theorem State.setTeam_part (s : State) (t : Team) : (s.setTeam t).part = s.part := rfl
@[simp] theorem State.setTeam_clk (s : State) (t : Team) : (s.setTeam t).clk = s.clk := rfl
@[simp] theorem State.setTeam_now (s : State) (t : Team) : (s.setTeam t).now = s.now := rfl
@[simp] theorem State.setTeam_inputs (s : State) (t : Team) : (s.setTeam t).inputs = s.inputs := rfl
@[simp] theorem State.setTeam_free (s : State) (t : Team) : (s.setTeam t).free = s.free := rfl
@[simp] theorem State.setTeam_nextId (s : State) (t : Team) : (s.setTeam t).nextId = s.nextId := rfl
@[simp] theorem State.setTeam_cur (s : State) (t : Team) : (s.setTeam t).cur = s.cur := rfl
@[simp] theorem State.setTeam_mem (s : State) (t : Team) : (s.setTeam t).mem = s.mem := rfl
@[simp] theorem State.setTeam_side (s : State) (t : Team) : (s.setTeam t).side = s.side := rfl
@[simp] theorem State.setTeam_unc (s : State) (t : Team) : (s.setTeam t).unc = s.unc := rfl
@[simp] theorem State.setTeam_hostMem (s : State) (t : Team) : (s.setTeam t).hostMem = s.hostMem := rfl
@[simp] theorem State.setTeam_copies (s : State) (t : Team) : (s.setTeam t).copies = s.copies := rfl
@[simp] theorem State.setTeam_sent (s : State) (t : Team) : (s.setTeam t).sent = s.sent := rfl
@[simp] theorem State.setTeam_hostBad (s : State) (t : Team) : (s.setTeam t).hostBad = s.hostBad := rfl
@[simp] theorem State.setTeam_turns (s : State) (t : Team) : (s.setTeam t).turns = s.turns := rfl
@[simp] theorem State.setTeam_certs (s : State) (t : Team) : (s.setTeam t).certs = s.certs := rfl
@[simp] theorem State.setTeam_dbgReads (s : State) (t : Team) : (s.setTeam t).dbgReads = s.dbgReads := rfl
@[simp] theorem State.setTeam_spares (s : State) (t : Team) : (s.setTeam t).spares = s.spares := rfl
@[simp] theorem State.setTeam_revoked (s : State) (t : Team) : (s.setTeam t).revoked = s.revoked := rfl
@[simp] theorem State.setTeam_pins (s : State) (t : Team) : (s.setTeam t).pins = s.pins := rfl
@[simp] theorem State.setTeam_granted (s : State) (t : Team) : (s.setTeam t).granted = s.granted := rfl
@[simp] theorem State.setTeam_ungranted (s : State) (t : Team) : (s.setTeam t).ungranted = s.ungranted := rfl
@[simp] theorem State.setTeam_gblock (s : State) (t : Team) : (s.setTeam t).gblock = s.gblock := rfl
@[simp] theorem State.setTeam_snapb (s : State) (t : Team) : (s.setTeam t).snapb = s.snapb := rfl
@[simp] theorem State.setTeam_fns (s : State) (t : Team) : (s.setTeam t).fns = s.fns := rfl
@[simp] theorem State.setTeam_ctxs (s : State) (t : Team) : (s.setTeam t).ctxs = s.ctxs := rfl
@[simp] theorem State.setTeam_grids (s : State) (t : Team) : (s.setTeam t).grids = s.grids := rfl
@[simp] theorem State.setTeam_groups (s : State) (t : Team) : (s.setTeam t).groups = s.groups := rfl
@[simp] theorem State.setTeam_rrobin (s : State) (t : Team) : (s.setTeam t).rrobin = s.rrobin := rfl
@[simp] theorem State.setTeam_deficit (s : State) (t : Team) : (s.setTeam t).deficit = s.deficit := rfl
@[simp] theorem State.setTeam_claims (s : State) (t : Team) : (s.setTeam t).claims = s.claims := rfl
@[simp] theorem State.setTeam_lastFn (s : State) (t : Team) : (s.setTeam t).lastFn = s.lastFn := rfl
@[simp] theorem State.setTeam_wins (s : State) (t : Team) : (s.setTeam t).wins = s.wins := rfl
@[simp] theorem State.setTeam_atoms (s : State) (t : Team) : (s.setTeam t).atoms = s.atoms := rfl
@[simp] theorem State.setTeam_contribs (s : State) (t : Team) : (s.setTeam t).contribs = s.contribs := rfl
@[simp] theorem State.setTeam_syncs (s : State) (t : Team) : (s.setTeam t).syncs = s.syncs := rfl
@[simp] theorem State.setTeam_arrops (s : State) (t : Team) : (s.setTeam t).arrops = s.arrops := rfl
@[simp] theorem State.setTeam_cmds (s : State) (t : Team) : (s.setTeam t).cmds = s.cmds := rfl
@[simp] theorem State.setTeam_tlb (s : State) (t : Team) : (s.setTeam t).tlb = s.tlb := rfl
@[simp] theorem State.setTeam_ats (s : State) (t : Team) : (s.setTeam t).ats = s.ats := rfl
@[simp] theorem State.setTeam_dredge (s : State) (t : Team) : (s.setTeam t).dredge = s.dredge := rfl
@[simp] theorem State.setTeam_keys (s : State) (t : Team) : (s.setTeam t).keys = s.keys := rfl
@[simp] theorem State.setTeam_comap (s : State) (t : Team) : (s.setTeam t).comap = s.comap := rfl
@[simp] theorem State.setTeam_sessions (s : State) (t : Team) : (s.setTeam t).sessions = s.sessions := rfl
@[simp] theorem State.setTeam_devgroup (s : State) (t : Team) : (s.setTeam t).devgroup = s.devgroup := rfl
@[simp] theorem State.setTeam_measure (s : State) (t : Team) : (s.setTeam t).measure = s.measure := rfl
@[simp] theorem State.setTeam_staged (s : State) (t : Team) : (s.setTeam t).staged = s.staged := rfl
@[simp] theorem State.setTeam_replies (s : State) (t : Team) : (s.setTeam t).replies = s.replies := rfl
@[simp] theorem State.setTeam_receipts (s : State) (t : Team) : (s.setTeam t).receipts = s.receipts := rfl
@[simp] theorem State.setTeam_receiptsDue (s : State) (t : Team) : (s.setTeam t).receiptsDue = s.receiptsDue := rfl
@[simp] theorem State.setTeam_nextReceipt (s : State) (t : Team) : (s.setTeam t).nextReceipt = s.nextReceipt := rfl
@[simp] theorem State.setTeam_errs (s : State) (t : Team) : (s.setTeam t).errs = s.errs := rfl
@[simp] theorem State.setTeam_errW (s : State) (t : Team) : (s.setTeam t).errW = s.errW := rfl
@[simp] theorem State.setTeam_retiredPairs (s : State) (t : Team) : (s.setTeam t).retiredPairs = s.retiredPairs := rfl
@[simp] theorem State.setTeam_retiredPages (s : State) (t : Team) : (s.setTeam t).retiredPages = s.retiredPages := rfl
@[simp] theorem State.setTeam_disabled (s : State) (t : Team) : (s.setTeam t).disabled = s.disabled := rfl
@[simp] theorem State.setTeam_eccCounts (s : State) (t : Team) : (s.setTeam t).eccCounts = s.eccCounts := rfl
@[simp] theorem State.setTeam_ports (s : State) (t : Team) : (s.setTeam t).ports = s.ports := rfl
@[simp] theorem State.setTeam_patrol (s : State) (t : Team) : (s.setTeam t).patrol = s.patrol := rfl
@[simp] theorem State.setTeam_powerLimit (s : State) (t : Team) : (s.setTeam t).powerLimit = s.powerLimit := rfl

/-! ### `setGrid` -/

@[simp] theorem State.setGrid_part (s : State) (g : Grid) : (s.setGrid g).part = s.part := rfl
@[simp] theorem State.setGrid_clk (s : State) (g : Grid) : (s.setGrid g).clk = s.clk := rfl
@[simp] theorem State.setGrid_now (s : State) (g : Grid) : (s.setGrid g).now = s.now := rfl
@[simp] theorem State.setGrid_inputs (s : State) (g : Grid) : (s.setGrid g).inputs = s.inputs := rfl
@[simp] theorem State.setGrid_free (s : State) (g : Grid) : (s.setGrid g).free = s.free := rfl
@[simp] theorem State.setGrid_nextId (s : State) (g : Grid) : (s.setGrid g).nextId = s.nextId := rfl
@[simp] theorem State.setGrid_cur (s : State) (g : Grid) : (s.setGrid g).cur = s.cur := rfl
@[simp] theorem State.setGrid_mem (s : State) (g : Grid) : (s.setGrid g).mem = s.mem := rfl
@[simp] theorem State.setGrid_side (s : State) (g : Grid) : (s.setGrid g).side = s.side := rfl
@[simp] theorem State.setGrid_unc (s : State) (g : Grid) : (s.setGrid g).unc = s.unc := rfl
@[simp] theorem State.setGrid_hostMem (s : State) (g : Grid) : (s.setGrid g).hostMem = s.hostMem := rfl
@[simp] theorem State.setGrid_copies (s : State) (g : Grid) : (s.setGrid g).copies = s.copies := rfl
@[simp] theorem State.setGrid_sent (s : State) (g : Grid) : (s.setGrid g).sent = s.sent := rfl
@[simp] theorem State.setGrid_hostBad (s : State) (g : Grid) : (s.setGrid g).hostBad = s.hostBad := rfl
@[simp] theorem State.setGrid_turns (s : State) (g : Grid) : (s.setGrid g).turns = s.turns := rfl
@[simp] theorem State.setGrid_certs (s : State) (g : Grid) : (s.setGrid g).certs = s.certs := rfl
@[simp] theorem State.setGrid_dbgReads (s : State) (g : Grid) : (s.setGrid g).dbgReads = s.dbgReads := rfl
@[simp] theorem State.setGrid_spares (s : State) (g : Grid) : (s.setGrid g).spares = s.spares := rfl
@[simp] theorem State.setGrid_revoked (s : State) (g : Grid) : (s.setGrid g).revoked = s.revoked := rfl
@[simp] theorem State.setGrid_pins (s : State) (g : Grid) : (s.setGrid g).pins = s.pins := rfl
@[simp] theorem State.setGrid_granted (s : State) (g : Grid) : (s.setGrid g).granted = s.granted := rfl
@[simp] theorem State.setGrid_ungranted (s : State) (g : Grid) : (s.setGrid g).ungranted = s.ungranted := rfl
@[simp] theorem State.setGrid_gblock (s : State) (g : Grid) : (s.setGrid g).gblock = s.gblock := rfl
@[simp] theorem State.setGrid_snapb (s : State) (g : Grid) : (s.setGrid g).snapb = s.snapb := rfl
@[simp] theorem State.setGrid_fns (s : State) (g : Grid) : (s.setGrid g).fns = s.fns := rfl
@[simp] theorem State.setGrid_ctxs (s : State) (g : Grid) : (s.setGrid g).ctxs = s.ctxs := rfl
@[simp] theorem State.setGrid_teams (s : State) (g : Grid) : (s.setGrid g).teams = s.teams := rfl
@[simp] theorem State.setGrid_groups (s : State) (g : Grid) : (s.setGrid g).groups = s.groups := rfl
@[simp] theorem State.setGrid_rrobin (s : State) (g : Grid) : (s.setGrid g).rrobin = s.rrobin := rfl
@[simp] theorem State.setGrid_deficit (s : State) (g : Grid) : (s.setGrid g).deficit = s.deficit := rfl
@[simp] theorem State.setGrid_claims (s : State) (g : Grid) : (s.setGrid g).claims = s.claims := rfl
@[simp] theorem State.setGrid_lastFn (s : State) (g : Grid) : (s.setGrid g).lastFn = s.lastFn := rfl
@[simp] theorem State.setGrid_wins (s : State) (g : Grid) : (s.setGrid g).wins = s.wins := rfl
@[simp] theorem State.setGrid_atoms (s : State) (g : Grid) : (s.setGrid g).atoms = s.atoms := rfl
@[simp] theorem State.setGrid_contribs (s : State) (g : Grid) : (s.setGrid g).contribs = s.contribs := rfl
@[simp] theorem State.setGrid_syncs (s : State) (g : Grid) : (s.setGrid g).syncs = s.syncs := rfl
@[simp] theorem State.setGrid_arrops (s : State) (g : Grid) : (s.setGrid g).arrops = s.arrops := rfl
@[simp] theorem State.setGrid_cmds (s : State) (g : Grid) : (s.setGrid g).cmds = s.cmds := rfl
@[simp] theorem State.setGrid_tlb (s : State) (g : Grid) : (s.setGrid g).tlb = s.tlb := rfl
@[simp] theorem State.setGrid_ats (s : State) (g : Grid) : (s.setGrid g).ats = s.ats := rfl
@[simp] theorem State.setGrid_dredge (s : State) (g : Grid) : (s.setGrid g).dredge = s.dredge := rfl
@[simp] theorem State.setGrid_keys (s : State) (g : Grid) : (s.setGrid g).keys = s.keys := rfl
@[simp] theorem State.setGrid_comap (s : State) (g : Grid) : (s.setGrid g).comap = s.comap := rfl
@[simp] theorem State.setGrid_sessions (s : State) (g : Grid) : (s.setGrid g).sessions = s.sessions := rfl
@[simp] theorem State.setGrid_devgroup (s : State) (g : Grid) : (s.setGrid g).devgroup = s.devgroup := rfl
@[simp] theorem State.setGrid_measure (s : State) (g : Grid) : (s.setGrid g).measure = s.measure := rfl
@[simp] theorem State.setGrid_staged (s : State) (g : Grid) : (s.setGrid g).staged = s.staged := rfl
@[simp] theorem State.setGrid_replies (s : State) (g : Grid) : (s.setGrid g).replies = s.replies := rfl
@[simp] theorem State.setGrid_receipts (s : State) (g : Grid) : (s.setGrid g).receipts = s.receipts := rfl
@[simp] theorem State.setGrid_receiptsDue (s : State) (g : Grid) : (s.setGrid g).receiptsDue = s.receiptsDue := rfl
@[simp] theorem State.setGrid_nextReceipt (s : State) (g : Grid) : (s.setGrid g).nextReceipt = s.nextReceipt := rfl
@[simp] theorem State.setGrid_errs (s : State) (g : Grid) : (s.setGrid g).errs = s.errs := rfl
@[simp] theorem State.setGrid_errW (s : State) (g : Grid) : (s.setGrid g).errW = s.errW := rfl
@[simp] theorem State.setGrid_retiredPairs (s : State) (g : Grid) : (s.setGrid g).retiredPairs = s.retiredPairs := rfl
@[simp] theorem State.setGrid_retiredPages (s : State) (g : Grid) : (s.setGrid g).retiredPages = s.retiredPages := rfl
@[simp] theorem State.setGrid_disabled (s : State) (g : Grid) : (s.setGrid g).disabled = s.disabled := rfl
@[simp] theorem State.setGrid_eccCounts (s : State) (g : Grid) : (s.setGrid g).eccCounts = s.eccCounts := rfl
@[simp] theorem State.setGrid_ports (s : State) (g : Grid) : (s.setGrid g).ports = s.ports := rfl
@[simp] theorem State.setGrid_patrol (s : State) (g : Grid) : (s.setGrid g).patrol = s.patrol := rfl
@[simp] theorem State.setGrid_powerLimit (s : State) (g : Grid) : (s.setGrid g).powerLimit = s.powerLimit := rfl

/-! ### `setCtx` -/

@[simp] theorem State.setCtx_part (s : State) (c : Ctx) : (s.setCtx c).part = s.part := rfl
@[simp] theorem State.setCtx_clk (s : State) (c : Ctx) : (s.setCtx c).clk = s.clk := rfl
@[simp] theorem State.setCtx_now (s : State) (c : Ctx) : (s.setCtx c).now = s.now := rfl
@[simp] theorem State.setCtx_inputs (s : State) (c : Ctx) : (s.setCtx c).inputs = s.inputs := rfl
@[simp] theorem State.setCtx_free (s : State) (c : Ctx) : (s.setCtx c).free = s.free := rfl
@[simp] theorem State.setCtx_nextId (s : State) (c : Ctx) : (s.setCtx c).nextId = s.nextId := rfl
@[simp] theorem State.setCtx_cur (s : State) (c : Ctx) : (s.setCtx c).cur = s.cur := rfl
@[simp] theorem State.setCtx_mem (s : State) (c : Ctx) : (s.setCtx c).mem = s.mem := rfl
@[simp] theorem State.setCtx_side (s : State) (c : Ctx) : (s.setCtx c).side = s.side := rfl
@[simp] theorem State.setCtx_unc (s : State) (c : Ctx) : (s.setCtx c).unc = s.unc := rfl
@[simp] theorem State.setCtx_hostMem (s : State) (c : Ctx) : (s.setCtx c).hostMem = s.hostMem := rfl
@[simp] theorem State.setCtx_copies (s : State) (c : Ctx) : (s.setCtx c).copies = s.copies := rfl
@[simp] theorem State.setCtx_sent (s : State) (c : Ctx) : (s.setCtx c).sent = s.sent := rfl
@[simp] theorem State.setCtx_hostBad (s : State) (c : Ctx) : (s.setCtx c).hostBad = s.hostBad := rfl
@[simp] theorem State.setCtx_turns (s : State) (c : Ctx) : (s.setCtx c).turns = s.turns := rfl
@[simp] theorem State.setCtx_certs (s : State) (c : Ctx) : (s.setCtx c).certs = s.certs := rfl
@[simp] theorem State.setCtx_dbgReads (s : State) (c : Ctx) : (s.setCtx c).dbgReads = s.dbgReads := rfl
@[simp] theorem State.setCtx_spares (s : State) (c : Ctx) : (s.setCtx c).spares = s.spares := rfl
@[simp] theorem State.setCtx_revoked (s : State) (c : Ctx) : (s.setCtx c).revoked = s.revoked := rfl
@[simp] theorem State.setCtx_pins (s : State) (c : Ctx) : (s.setCtx c).pins = s.pins := rfl
@[simp] theorem State.setCtx_granted (s : State) (c : Ctx) : (s.setCtx c).granted = s.granted := rfl
@[simp] theorem State.setCtx_ungranted (s : State) (c : Ctx) : (s.setCtx c).ungranted = s.ungranted := rfl
@[simp] theorem State.setCtx_gblock (s : State) (c : Ctx) : (s.setCtx c).gblock = s.gblock := rfl
@[simp] theorem State.setCtx_snapb (s : State) (c : Ctx) : (s.setCtx c).snapb = s.snapb := rfl
@[simp] theorem State.setCtx_fns (s : State) (c : Ctx) : (s.setCtx c).fns = s.fns := rfl
@[simp] theorem State.setCtx_grids (s : State) (c : Ctx) : (s.setCtx c).grids = s.grids := rfl
@[simp] theorem State.setCtx_teams (s : State) (c : Ctx) : (s.setCtx c).teams = s.teams := rfl
@[simp] theorem State.setCtx_groups (s : State) (c : Ctx) : (s.setCtx c).groups = s.groups := rfl
@[simp] theorem State.setCtx_rrobin (s : State) (c : Ctx) : (s.setCtx c).rrobin = s.rrobin := rfl
@[simp] theorem State.setCtx_deficit (s : State) (c : Ctx) : (s.setCtx c).deficit = s.deficit := rfl
@[simp] theorem State.setCtx_claims (s : State) (c : Ctx) : (s.setCtx c).claims = s.claims := rfl
@[simp] theorem State.setCtx_lastFn (s : State) (c : Ctx) : (s.setCtx c).lastFn = s.lastFn := rfl
@[simp] theorem State.setCtx_wins (s : State) (c : Ctx) : (s.setCtx c).wins = s.wins := rfl
@[simp] theorem State.setCtx_atoms (s : State) (c : Ctx) : (s.setCtx c).atoms = s.atoms := rfl
@[simp] theorem State.setCtx_contribs (s : State) (c : Ctx) : (s.setCtx c).contribs = s.contribs := rfl
@[simp] theorem State.setCtx_syncs (s : State) (c : Ctx) : (s.setCtx c).syncs = s.syncs := rfl
@[simp] theorem State.setCtx_arrops (s : State) (c : Ctx) : (s.setCtx c).arrops = s.arrops := rfl
@[simp] theorem State.setCtx_cmds (s : State) (c : Ctx) : (s.setCtx c).cmds = s.cmds := rfl
@[simp] theorem State.setCtx_tlb (s : State) (c : Ctx) : (s.setCtx c).tlb = s.tlb := rfl
@[simp] theorem State.setCtx_ats (s : State) (c : Ctx) : (s.setCtx c).ats = s.ats := rfl
@[simp] theorem State.setCtx_dredge (s : State) (c : Ctx) : (s.setCtx c).dredge = s.dredge := rfl
@[simp] theorem State.setCtx_keys (s : State) (c : Ctx) : (s.setCtx c).keys = s.keys := rfl
@[simp] theorem State.setCtx_comap (s : State) (c : Ctx) : (s.setCtx c).comap = s.comap := rfl
@[simp] theorem State.setCtx_sessions (s : State) (c : Ctx) : (s.setCtx c).sessions = s.sessions := rfl
@[simp] theorem State.setCtx_devgroup (s : State) (c : Ctx) : (s.setCtx c).devgroup = s.devgroup := rfl
@[simp] theorem State.setCtx_measure (s : State) (c : Ctx) : (s.setCtx c).measure = s.measure := rfl
@[simp] theorem State.setCtx_staged (s : State) (c : Ctx) : (s.setCtx c).staged = s.staged := rfl
@[simp] theorem State.setCtx_replies (s : State) (c : Ctx) : (s.setCtx c).replies = s.replies := rfl
@[simp] theorem State.setCtx_receipts (s : State) (c : Ctx) : (s.setCtx c).receipts = s.receipts := rfl
@[simp] theorem State.setCtx_receiptsDue (s : State) (c : Ctx) : (s.setCtx c).receiptsDue = s.receiptsDue := rfl
@[simp] theorem State.setCtx_nextReceipt (s : State) (c : Ctx) : (s.setCtx c).nextReceipt = s.nextReceipt := rfl
@[simp] theorem State.setCtx_errs (s : State) (c : Ctx) : (s.setCtx c).errs = s.errs := rfl
@[simp] theorem State.setCtx_errW (s : State) (c : Ctx) : (s.setCtx c).errW = s.errW := rfl
@[simp] theorem State.setCtx_retiredPairs (s : State) (c : Ctx) : (s.setCtx c).retiredPairs = s.retiredPairs := rfl
@[simp] theorem State.setCtx_retiredPages (s : State) (c : Ctx) : (s.setCtx c).retiredPages = s.retiredPages := rfl
@[simp] theorem State.setCtx_disabled (s : State) (c : Ctx) : (s.setCtx c).disabled = s.disabled := rfl
@[simp] theorem State.setCtx_eccCounts (s : State) (c : Ctx) : (s.setCtx c).eccCounts = s.eccCounts := rfl
@[simp] theorem State.setCtx_ports (s : State) (c : Ctx) : (s.setCtx c).ports = s.ports := rfl
@[simp] theorem State.setCtx_patrol (s : State) (c : Ctx) : (s.setCtx c).patrol = s.patrol := rfl
@[simp] theorem State.setCtx_powerLimit (s : State) (c : Ctx) : (s.setCtx c).powerLimit = s.powerLimit := rfl

/-! ### `setFn` -/

@[simp] theorem State.setFn_part (s : State) (n : Nat) (f : Fn) : (s.setFn n f).part = s.part := rfl
@[simp] theorem State.setFn_clk (s : State) (n : Nat) (f : Fn) : (s.setFn n f).clk = s.clk := rfl
@[simp] theorem State.setFn_now (s : State) (n : Nat) (f : Fn) : (s.setFn n f).now = s.now := rfl
@[simp] theorem State.setFn_inputs (s : State) (n : Nat) (f : Fn) : (s.setFn n f).inputs = s.inputs := rfl
@[simp] theorem State.setFn_free (s : State) (n : Nat) (f : Fn) : (s.setFn n f).free = s.free := rfl
@[simp] theorem State.setFn_nextId (s : State) (n : Nat) (f : Fn) : (s.setFn n f).nextId = s.nextId := rfl
@[simp] theorem State.setFn_cur (s : State) (n : Nat) (f : Fn) : (s.setFn n f).cur = s.cur := rfl
@[simp] theorem State.setFn_mem (s : State) (n : Nat) (f : Fn) : (s.setFn n f).mem = s.mem := rfl
@[simp] theorem State.setFn_side (s : State) (n : Nat) (f : Fn) : (s.setFn n f).side = s.side := rfl
@[simp] theorem State.setFn_unc (s : State) (n : Nat) (f : Fn) : (s.setFn n f).unc = s.unc := rfl
@[simp] theorem State.setFn_hostMem (s : State) (n : Nat) (f : Fn) : (s.setFn n f).hostMem = s.hostMem := rfl
@[simp] theorem State.setFn_copies (s : State) (n : Nat) (f : Fn) : (s.setFn n f).copies = s.copies := rfl
@[simp] theorem State.setFn_sent (s : State) (n : Nat) (f : Fn) : (s.setFn n f).sent = s.sent := rfl
@[simp] theorem State.setFn_hostBad (s : State) (n : Nat) (f : Fn) : (s.setFn n f).hostBad = s.hostBad := rfl
@[simp] theorem State.setFn_turns (s : State) (n : Nat) (f : Fn) : (s.setFn n f).turns = s.turns := rfl
@[simp] theorem State.setFn_certs (s : State) (n : Nat) (f : Fn) : (s.setFn n f).certs = s.certs := rfl
@[simp] theorem State.setFn_dbgReads (s : State) (n : Nat) (f : Fn) : (s.setFn n f).dbgReads = s.dbgReads := rfl
@[simp] theorem State.setFn_spares (s : State) (n : Nat) (f : Fn) : (s.setFn n f).spares = s.spares := rfl
@[simp] theorem State.setFn_revoked (s : State) (n : Nat) (f : Fn) : (s.setFn n f).revoked = s.revoked := rfl
@[simp] theorem State.setFn_pins (s : State) (n : Nat) (f : Fn) : (s.setFn n f).pins = s.pins := rfl
@[simp] theorem State.setFn_granted (s : State) (n : Nat) (f : Fn) : (s.setFn n f).granted = s.granted := rfl
@[simp] theorem State.setFn_ungranted (s : State) (n : Nat) (f : Fn) : (s.setFn n f).ungranted = s.ungranted := rfl
@[simp] theorem State.setFn_gblock (s : State) (n : Nat) (f : Fn) : (s.setFn n f).gblock = s.gblock := rfl
@[simp] theorem State.setFn_snapb (s : State) (n : Nat) (f : Fn) : (s.setFn n f).snapb = s.snapb := rfl
@[simp] theorem State.setFn_ctxs (s : State) (n : Nat) (f : Fn) : (s.setFn n f).ctxs = s.ctxs := rfl
@[simp] theorem State.setFn_grids (s : State) (n : Nat) (f : Fn) : (s.setFn n f).grids = s.grids := rfl
@[simp] theorem State.setFn_teams (s : State) (n : Nat) (f : Fn) : (s.setFn n f).teams = s.teams := rfl
@[simp] theorem State.setFn_groups (s : State) (n : Nat) (f : Fn) : (s.setFn n f).groups = s.groups := rfl
@[simp] theorem State.setFn_rrobin (s : State) (n : Nat) (f : Fn) : (s.setFn n f).rrobin = s.rrobin := rfl
@[simp] theorem State.setFn_deficit (s : State) (n : Nat) (f : Fn) : (s.setFn n f).deficit = s.deficit := rfl
@[simp] theorem State.setFn_claims (s : State) (n : Nat) (f : Fn) : (s.setFn n f).claims = s.claims := rfl
@[simp] theorem State.setFn_lastFn (s : State) (n : Nat) (f : Fn) : (s.setFn n f).lastFn = s.lastFn := rfl
@[simp] theorem State.setFn_wins (s : State) (n : Nat) (f : Fn) : (s.setFn n f).wins = s.wins := rfl
@[simp] theorem State.setFn_atoms (s : State) (n : Nat) (f : Fn) : (s.setFn n f).atoms = s.atoms := rfl
@[simp] theorem State.setFn_contribs (s : State) (n : Nat) (f : Fn) : (s.setFn n f).contribs = s.contribs := rfl
@[simp] theorem State.setFn_syncs (s : State) (n : Nat) (f : Fn) : (s.setFn n f).syncs = s.syncs := rfl
@[simp] theorem State.setFn_arrops (s : State) (n : Nat) (f : Fn) : (s.setFn n f).arrops = s.arrops := rfl
@[simp] theorem State.setFn_cmds (s : State) (n : Nat) (f : Fn) : (s.setFn n f).cmds = s.cmds := rfl
@[simp] theorem State.setFn_tlb (s : State) (n : Nat) (f : Fn) : (s.setFn n f).tlb = s.tlb := rfl
@[simp] theorem State.setFn_ats (s : State) (n : Nat) (f : Fn) : (s.setFn n f).ats = s.ats := rfl
@[simp] theorem State.setFn_dredge (s : State) (n : Nat) (f : Fn) : (s.setFn n f).dredge = s.dredge := rfl
@[simp] theorem State.setFn_keys (s : State) (n : Nat) (f : Fn) : (s.setFn n f).keys = s.keys := rfl
@[simp] theorem State.setFn_comap (s : State) (n : Nat) (f : Fn) : (s.setFn n f).comap = s.comap := rfl
@[simp] theorem State.setFn_sessions (s : State) (n : Nat) (f : Fn) : (s.setFn n f).sessions = s.sessions := rfl
@[simp] theorem State.setFn_devgroup (s : State) (n : Nat) (f : Fn) : (s.setFn n f).devgroup = s.devgroup := rfl
@[simp] theorem State.setFn_measure (s : State) (n : Nat) (f : Fn) : (s.setFn n f).measure = s.measure := rfl
@[simp] theorem State.setFn_staged (s : State) (n : Nat) (f : Fn) : (s.setFn n f).staged = s.staged := rfl
@[simp] theorem State.setFn_replies (s : State) (n : Nat) (f : Fn) : (s.setFn n f).replies = s.replies := rfl
@[simp] theorem State.setFn_receipts (s : State) (n : Nat) (f : Fn) : (s.setFn n f).receipts = s.receipts := rfl
@[simp] theorem State.setFn_receiptsDue (s : State) (n : Nat) (f : Fn) : (s.setFn n f).receiptsDue = s.receiptsDue := rfl
@[simp] theorem State.setFn_nextReceipt (s : State) (n : Nat) (f : Fn) : (s.setFn n f).nextReceipt = s.nextReceipt := rfl
@[simp] theorem State.setFn_errs (s : State) (n : Nat) (f : Fn) : (s.setFn n f).errs = s.errs := rfl
@[simp] theorem State.setFn_errW (s : State) (n : Nat) (f : Fn) : (s.setFn n f).errW = s.errW := rfl
@[simp] theorem State.setFn_retiredPairs (s : State) (n : Nat) (f : Fn) : (s.setFn n f).retiredPairs = s.retiredPairs := rfl
@[simp] theorem State.setFn_retiredPages (s : State) (n : Nat) (f : Fn) : (s.setFn n f).retiredPages = s.retiredPages := rfl
@[simp] theorem State.setFn_disabled (s : State) (n : Nat) (f : Fn) : (s.setFn n f).disabled = s.disabled := rfl
@[simp] theorem State.setFn_eccCounts (s : State) (n : Nat) (f : Fn) : (s.setFn n f).eccCounts = s.eccCounts := rfl
@[simp] theorem State.setFn_ports (s : State) (n : Nat) (f : Fn) : (s.setFn n f).ports = s.ports := rfl
@[simp] theorem State.setFn_patrol (s : State) (n : Nat) (f : Fn) : (s.setFn n f).patrol = s.patrol := rfl
@[simp] theorem State.setFn_powerLimit (s : State) (n : Nat) (f : Fn) : (s.setFn n f).powerLimit = s.powerLimit := rfl

/-! ### `modGroups` -/

@[simp] theorem State.modGroups_part (s : State) (team : Nat) (h : Group → Group) : (s.modGroups team h).part = s.part := rfl
@[simp] theorem State.modGroups_clk (s : State) (team : Nat) (h : Group → Group) : (s.modGroups team h).clk = s.clk := rfl
@[simp] theorem State.modGroups_now (s : State) (team : Nat) (h : Group → Group) : (s.modGroups team h).now = s.now := rfl
@[simp] theorem State.modGroups_inputs (s : State) (team : Nat) (h : Group → Group) : (s.modGroups team h).inputs = s.inputs := rfl
@[simp] theorem State.modGroups_free (s : State) (team : Nat) (h : Group → Group) : (s.modGroups team h).free = s.free := rfl
@[simp] theorem State.modGroups_nextId (s : State) (team : Nat) (h : Group → Group) : (s.modGroups team h).nextId = s.nextId := rfl
@[simp] theorem State.modGroups_cur (s : State) (team : Nat) (h : Group → Group) : (s.modGroups team h).cur = s.cur := rfl
@[simp] theorem State.modGroups_mem (s : State) (team : Nat) (h : Group → Group) : (s.modGroups team h).mem = s.mem := rfl
@[simp] theorem State.modGroups_side (s : State) (team : Nat) (h : Group → Group) : (s.modGroups team h).side = s.side := rfl
@[simp] theorem State.modGroups_unc (s : State) (team : Nat) (h : Group → Group) : (s.modGroups team h).unc = s.unc := rfl
@[simp] theorem State.modGroups_hostMem (s : State) (team : Nat) (h : Group → Group) : (s.modGroups team h).hostMem = s.hostMem := rfl
@[simp] theorem State.modGroups_copies (s : State) (team : Nat) (h : Group → Group) : (s.modGroups team h).copies = s.copies := rfl
@[simp] theorem State.modGroups_sent (s : State) (team : Nat) (h : Group → Group) : (s.modGroups team h).sent = s.sent := rfl
@[simp] theorem State.modGroups_hostBad (s : State) (team : Nat) (h : Group → Group) : (s.modGroups team h).hostBad = s.hostBad := rfl
@[simp] theorem State.modGroups_turns (s : State) (team : Nat) (h : Group → Group) : (s.modGroups team h).turns = s.turns := rfl
@[simp] theorem State.modGroups_certs (s : State) (team : Nat) (h : Group → Group) : (s.modGroups team h).certs = s.certs := rfl
@[simp] theorem State.modGroups_dbgReads (s : State) (team : Nat) (h : Group → Group) : (s.modGroups team h).dbgReads = s.dbgReads := rfl
@[simp] theorem State.modGroups_spares (s : State) (team : Nat) (h : Group → Group) : (s.modGroups team h).spares = s.spares := rfl
@[simp] theorem State.modGroups_revoked (s : State) (team : Nat) (h : Group → Group) : (s.modGroups team h).revoked = s.revoked := rfl
@[simp] theorem State.modGroups_pins (s : State) (team : Nat) (h : Group → Group) : (s.modGroups team h).pins = s.pins := rfl
@[simp] theorem State.modGroups_granted (s : State) (team : Nat) (h : Group → Group) : (s.modGroups team h).granted = s.granted := rfl
@[simp] theorem State.modGroups_ungranted (s : State) (team : Nat) (h : Group → Group) : (s.modGroups team h).ungranted = s.ungranted := rfl
@[simp] theorem State.modGroups_gblock (s : State) (team : Nat) (h : Group → Group) : (s.modGroups team h).gblock = s.gblock := rfl
@[simp] theorem State.modGroups_snapb (s : State) (team : Nat) (h : Group → Group) : (s.modGroups team h).snapb = s.snapb := rfl
@[simp] theorem State.modGroups_fns (s : State) (team : Nat) (h : Group → Group) : (s.modGroups team h).fns = s.fns := rfl
@[simp] theorem State.modGroups_ctxs (s : State) (team : Nat) (h : Group → Group) : (s.modGroups team h).ctxs = s.ctxs := rfl
@[simp] theorem State.modGroups_grids (s : State) (team : Nat) (h : Group → Group) : (s.modGroups team h).grids = s.grids := rfl
@[simp] theorem State.modGroups_teams (s : State) (team : Nat) (h : Group → Group) : (s.modGroups team h).teams = s.teams := rfl
@[simp] theorem State.modGroups_rrobin (s : State) (team : Nat) (h : Group → Group) : (s.modGroups team h).rrobin = s.rrobin := rfl
@[simp] theorem State.modGroups_deficit (s : State) (team : Nat) (h : Group → Group) : (s.modGroups team h).deficit = s.deficit := rfl
@[simp] theorem State.modGroups_claims (s : State) (team : Nat) (h : Group → Group) : (s.modGroups team h).claims = s.claims := rfl
@[simp] theorem State.modGroups_lastFn (s : State) (team : Nat) (h : Group → Group) : (s.modGroups team h).lastFn = s.lastFn := rfl
@[simp] theorem State.modGroups_wins (s : State) (team : Nat) (h : Group → Group) : (s.modGroups team h).wins = s.wins := rfl
@[simp] theorem State.modGroups_atoms (s : State) (team : Nat) (h : Group → Group) : (s.modGroups team h).atoms = s.atoms := rfl
@[simp] theorem State.modGroups_contribs (s : State) (team : Nat) (h : Group → Group) : (s.modGroups team h).contribs = s.contribs := rfl
@[simp] theorem State.modGroups_syncs (s : State) (team : Nat) (h : Group → Group) : (s.modGroups team h).syncs = s.syncs := rfl
@[simp] theorem State.modGroups_arrops (s : State) (team : Nat) (h : Group → Group) : (s.modGroups team h).arrops = s.arrops := rfl
@[simp] theorem State.modGroups_cmds (s : State) (team : Nat) (h : Group → Group) : (s.modGroups team h).cmds = s.cmds := rfl
@[simp] theorem State.modGroups_tlb (s : State) (team : Nat) (h : Group → Group) : (s.modGroups team h).tlb = s.tlb := rfl
@[simp] theorem State.modGroups_ats (s : State) (team : Nat) (h : Group → Group) : (s.modGroups team h).ats = s.ats := rfl
@[simp] theorem State.modGroups_dredge (s : State) (team : Nat) (h : Group → Group) : (s.modGroups team h).dredge = s.dredge := rfl
@[simp] theorem State.modGroups_keys (s : State) (team : Nat) (h : Group → Group) : (s.modGroups team h).keys = s.keys := rfl
@[simp] theorem State.modGroups_comap (s : State) (team : Nat) (h : Group → Group) : (s.modGroups team h).comap = s.comap := rfl
@[simp] theorem State.modGroups_sessions (s : State) (team : Nat) (h : Group → Group) : (s.modGroups team h).sessions = s.sessions := rfl
@[simp] theorem State.modGroups_devgroup (s : State) (team : Nat) (h : Group → Group) : (s.modGroups team h).devgroup = s.devgroup := rfl
@[simp] theorem State.modGroups_measure (s : State) (team : Nat) (h : Group → Group) : (s.modGroups team h).measure = s.measure := rfl
@[simp] theorem State.modGroups_staged (s : State) (team : Nat) (h : Group → Group) : (s.modGroups team h).staged = s.staged := rfl
@[simp] theorem State.modGroups_replies (s : State) (team : Nat) (h : Group → Group) : (s.modGroups team h).replies = s.replies := rfl
@[simp] theorem State.modGroups_receipts (s : State) (team : Nat) (h : Group → Group) : (s.modGroups team h).receipts = s.receipts := rfl
@[simp] theorem State.modGroups_receiptsDue (s : State) (team : Nat) (h : Group → Group) : (s.modGroups team h).receiptsDue = s.receiptsDue := rfl
@[simp] theorem State.modGroups_nextReceipt (s : State) (team : Nat) (h : Group → Group) : (s.modGroups team h).nextReceipt = s.nextReceipt := rfl
@[simp] theorem State.modGroups_errs (s : State) (team : Nat) (h : Group → Group) : (s.modGroups team h).errs = s.errs := rfl
@[simp] theorem State.modGroups_errW (s : State) (team : Nat) (h : Group → Group) : (s.modGroups team h).errW = s.errW := rfl
@[simp] theorem State.modGroups_retiredPairs (s : State) (team : Nat) (h : Group → Group) : (s.modGroups team h).retiredPairs = s.retiredPairs := rfl
@[simp] theorem State.modGroups_retiredPages (s : State) (team : Nat) (h : Group → Group) : (s.modGroups team h).retiredPages = s.retiredPages := rfl
@[simp] theorem State.modGroups_disabled (s : State) (team : Nat) (h : Group → Group) : (s.modGroups team h).disabled = s.disabled := rfl
@[simp] theorem State.modGroups_eccCounts (s : State) (team : Nat) (h : Group → Group) : (s.modGroups team h).eccCounts = s.eccCounts := rfl
@[simp] theorem State.modGroups_ports (s : State) (team : Nat) (h : Group → Group) : (s.modGroups team h).ports = s.ports := rfl
@[simp] theorem State.modGroups_patrol (s : State) (team : Nat) (h : Group → Group) : (s.modGroups team h).patrol = s.patrol := rfl
@[simp] theorem State.modGroups_powerLimit (s : State) (team : Nat) (h : Group → Group) : (s.modGroups team h).powerLimit = s.powerLimit := rfl

/-! ### `tick` -/

@[simp] theorem State.tick_part (s : State) (n : Nat) : (s.tick n).part = s.part := rfl
@[simp] theorem State.tick_now (s : State) (n : Nat) : (s.tick n).now = s.now := rfl
@[simp] theorem State.tick_inputs (s : State) (n : Nat) : (s.tick n).inputs = s.inputs := rfl
@[simp] theorem State.tick_free (s : State) (n : Nat) : (s.tick n).free = s.free := rfl
@[simp] theorem State.tick_nextId (s : State) (n : Nat) : (s.tick n).nextId = s.nextId := rfl
@[simp] theorem State.tick_cur (s : State) (n : Nat) : (s.tick n).cur = s.cur := rfl
@[simp] theorem State.tick_mem (s : State) (n : Nat) : (s.tick n).mem = s.mem := rfl
@[simp] theorem State.tick_side (s : State) (n : Nat) : (s.tick n).side = s.side := rfl
@[simp] theorem State.tick_unc (s : State) (n : Nat) : (s.tick n).unc = s.unc := rfl
@[simp] theorem State.tick_hostMem (s : State) (n : Nat) : (s.tick n).hostMem = s.hostMem := rfl
@[simp] theorem State.tick_copies (s : State) (n : Nat) : (s.tick n).copies = s.copies := rfl
@[simp] theorem State.tick_sent (s : State) (n : Nat) : (s.tick n).sent = s.sent := rfl
@[simp] theorem State.tick_hostBad (s : State) (n : Nat) : (s.tick n).hostBad = s.hostBad := rfl
@[simp] theorem State.tick_turns (s : State) (n : Nat) : (s.tick n).turns = s.turns := rfl
@[simp] theorem State.tick_certs (s : State) (n : Nat) : (s.tick n).certs = s.certs := rfl
@[simp] theorem State.tick_dbgReads (s : State) (n : Nat) : (s.tick n).dbgReads = s.dbgReads := rfl
@[simp] theorem State.tick_spares (s : State) (n : Nat) : (s.tick n).spares = s.spares := rfl
@[simp] theorem State.tick_revoked (s : State) (n : Nat) : (s.tick n).revoked = s.revoked := rfl
@[simp] theorem State.tick_pins (s : State) (n : Nat) : (s.tick n).pins = s.pins := rfl
@[simp] theorem State.tick_granted (s : State) (n : Nat) : (s.tick n).granted = s.granted := rfl
@[simp] theorem State.tick_ungranted (s : State) (n : Nat) : (s.tick n).ungranted = s.ungranted := rfl
@[simp] theorem State.tick_gblock (s : State) (n : Nat) : (s.tick n).gblock = s.gblock := rfl
@[simp] theorem State.tick_snapb (s : State) (n : Nat) : (s.tick n).snapb = s.snapb := rfl
@[simp] theorem State.tick_fns (s : State) (n : Nat) : (s.tick n).fns = s.fns := rfl
@[simp] theorem State.tick_ctxs (s : State) (n : Nat) : (s.tick n).ctxs = s.ctxs := rfl
@[simp] theorem State.tick_grids (s : State) (n : Nat) : (s.tick n).grids = s.grids := rfl
@[simp] theorem State.tick_teams (s : State) (n : Nat) : (s.tick n).teams = s.teams := rfl
@[simp] theorem State.tick_rrobin (s : State) (n : Nat) : (s.tick n).rrobin = s.rrobin := rfl
@[simp] theorem State.tick_deficit (s : State) (n : Nat) : (s.tick n).deficit = s.deficit := rfl
@[simp] theorem State.tick_claims (s : State) (n : Nat) : (s.tick n).claims = s.claims := rfl
@[simp] theorem State.tick_lastFn (s : State) (n : Nat) : (s.tick n).lastFn = s.lastFn := rfl
@[simp] theorem State.tick_wins (s : State) (n : Nat) : (s.tick n).wins = s.wins := rfl
@[simp] theorem State.tick_atoms (s : State) (n : Nat) : (s.tick n).atoms = s.atoms := rfl
@[simp] theorem State.tick_contribs (s : State) (n : Nat) : (s.tick n).contribs = s.contribs := rfl
@[simp] theorem State.tick_syncs (s : State) (n : Nat) : (s.tick n).syncs = s.syncs := rfl
@[simp] theorem State.tick_arrops (s : State) (n : Nat) : (s.tick n).arrops = s.arrops := rfl
@[simp] theorem State.tick_cmds (s : State) (n : Nat) : (s.tick n).cmds = s.cmds := rfl
@[simp] theorem State.tick_tlb (s : State) (n : Nat) : (s.tick n).tlb = s.tlb := rfl
@[simp] theorem State.tick_ats (s : State) (n : Nat) : (s.tick n).ats = s.ats := rfl
@[simp] theorem State.tick_dredge (s : State) (n : Nat) : (s.tick n).dredge = s.dredge := rfl
@[simp] theorem State.tick_keys (s : State) (n : Nat) : (s.tick n).keys = s.keys := rfl
@[simp] theorem State.tick_comap (s : State) (n : Nat) : (s.tick n).comap = s.comap := rfl
@[simp] theorem State.tick_sessions (s : State) (n : Nat) : (s.tick n).sessions = s.sessions := rfl
@[simp] theorem State.tick_devgroup (s : State) (n : Nat) : (s.tick n).devgroup = s.devgroup := rfl
@[simp] theorem State.tick_measure (s : State) (n : Nat) : (s.tick n).measure = s.measure := rfl
@[simp] theorem State.tick_staged (s : State) (n : Nat) : (s.tick n).staged = s.staged := rfl
@[simp] theorem State.tick_replies (s : State) (n : Nat) : (s.tick n).replies = s.replies := rfl
@[simp] theorem State.tick_receipts (s : State) (n : Nat) : (s.tick n).receipts = s.receipts := rfl
@[simp] theorem State.tick_receiptsDue (s : State) (n : Nat) : (s.tick n).receiptsDue = s.receiptsDue := rfl
@[simp] theorem State.tick_nextReceipt (s : State) (n : Nat) : (s.tick n).nextReceipt = s.nextReceipt := rfl
@[simp] theorem State.tick_errs (s : State) (n : Nat) : (s.tick n).errs = s.errs := rfl
@[simp] theorem State.tick_errW (s : State) (n : Nat) : (s.tick n).errW = s.errW := rfl
@[simp] theorem State.tick_retiredPairs (s : State) (n : Nat) : (s.tick n).retiredPairs = s.retiredPairs := rfl
@[simp] theorem State.tick_retiredPages (s : State) (n : Nat) : (s.tick n).retiredPages = s.retiredPages := rfl
@[simp] theorem State.tick_disabled (s : State) (n : Nat) : (s.tick n).disabled = s.disabled := rfl
@[simp] theorem State.tick_eccCounts (s : State) (n : Nat) : (s.tick n).eccCounts = s.eccCounts := rfl
@[simp] theorem State.tick_ports (s : State) (n : Nat) : (s.tick n).ports = s.ports := rfl
@[simp] theorem State.tick_patrol (s : State) (n : Nat) : (s.tick n).patrol = s.patrol := rfl
@[simp] theorem State.tick_powerLimit (s : State) (n : Nat) : (s.tick n).powerLimit = s.powerLimit := rfl
@[simp] theorem State.tick_clk (s : State) (n : Nat) : (s.tick n).clk = s.clk + n := rfl

/-! ### `modGroup` -/

@[simp] theorem State.modGroup_part (s : State) (team gid : Nat) (h : Group → Group) : (s.modGroup team gid h).part = s.part := by
  unfold State.modGroup; split <;> rfl
@[simp] theorem State.modGroup_clk (s : State) (team gid : Nat) (h : Group → Group) : (s.modGroup team gid h).clk = s.clk := by
  unfold State.modGroup; split <;> rfl
@[simp] theorem State.modGroup_now (s : State) (team gid : Nat) (h : Group → Group) : (s.modGroup team gid h).now = s.now := by
  unfold State.modGroup; split <;> rfl
@[simp] theorem State.modGroup_inputs (s : State) (team gid : Nat) (h : Group → Group) : (s.modGroup team gid h).inputs = s.inputs := by
  unfold State.modGroup; split <;> rfl
@[simp] theorem State.modGroup_free (s : State) (team gid : Nat) (h : Group → Group) : (s.modGroup team gid h).free = s.free := by
  unfold State.modGroup; split <;> rfl
@[simp] theorem State.modGroup_nextId (s : State) (team gid : Nat) (h : Group → Group) : (s.modGroup team gid h).nextId = s.nextId := by
  unfold State.modGroup; split <;> rfl
@[simp] theorem State.modGroup_cur (s : State) (team gid : Nat) (h : Group → Group) : (s.modGroup team gid h).cur = s.cur := by
  unfold State.modGroup; split <;> rfl
@[simp] theorem State.modGroup_mem (s : State) (team gid : Nat) (h : Group → Group) : (s.modGroup team gid h).mem = s.mem := by
  unfold State.modGroup; split <;> rfl
@[simp] theorem State.modGroup_side (s : State) (team gid : Nat) (h : Group → Group) : (s.modGroup team gid h).side = s.side := by
  unfold State.modGroup; split <;> rfl
@[simp] theorem State.modGroup_unc (s : State) (team gid : Nat) (h : Group → Group) : (s.modGroup team gid h).unc = s.unc := by
  unfold State.modGroup; split <;> rfl
@[simp] theorem State.modGroup_hostMem (s : State) (team gid : Nat) (h : Group → Group) : (s.modGroup team gid h).hostMem = s.hostMem := by
  unfold State.modGroup; split <;> rfl
@[simp] theorem State.modGroup_copies (s : State) (team gid : Nat) (h : Group → Group) : (s.modGroup team gid h).copies = s.copies := by
  unfold State.modGroup; split <;> rfl
@[simp] theorem State.modGroup_sent (s : State) (team gid : Nat) (h : Group → Group) : (s.modGroup team gid h).sent = s.sent := by
  unfold State.modGroup; split <;> rfl
@[simp] theorem State.modGroup_hostBad (s : State) (team gid : Nat) (h : Group → Group) : (s.modGroup team gid h).hostBad = s.hostBad := by
  unfold State.modGroup; split <;> rfl
@[simp] theorem State.modGroup_turns (s : State) (team gid : Nat) (h : Group → Group) : (s.modGroup team gid h).turns = s.turns := by
  unfold State.modGroup; split <;> rfl
@[simp] theorem State.modGroup_certs (s : State) (team gid : Nat) (h : Group → Group) : (s.modGroup team gid h).certs = s.certs := by
  unfold State.modGroup; split <;> rfl
@[simp] theorem State.modGroup_dbgReads (s : State) (team gid : Nat) (h : Group → Group) : (s.modGroup team gid h).dbgReads = s.dbgReads := by
  unfold State.modGroup; split <;> rfl
@[simp] theorem State.modGroup_spares (s : State) (team gid : Nat) (h : Group → Group) : (s.modGroup team gid h).spares = s.spares := by
  unfold State.modGroup; split <;> rfl
@[simp] theorem State.modGroup_revoked (s : State) (team gid : Nat) (h : Group → Group) : (s.modGroup team gid h).revoked = s.revoked := by
  unfold State.modGroup; split <;> rfl
@[simp] theorem State.modGroup_pins (s : State) (team gid : Nat) (h : Group → Group) : (s.modGroup team gid h).pins = s.pins := by
  unfold State.modGroup; split <;> rfl
@[simp] theorem State.modGroup_granted (s : State) (team gid : Nat) (h : Group → Group) : (s.modGroup team gid h).granted = s.granted := by
  unfold State.modGroup; split <;> rfl
@[simp] theorem State.modGroup_ungranted (s : State) (team gid : Nat) (h : Group → Group) : (s.modGroup team gid h).ungranted = s.ungranted := by
  unfold State.modGroup; split <;> rfl
@[simp] theorem State.modGroup_gblock (s : State) (team gid : Nat) (h : Group → Group) : (s.modGroup team gid h).gblock = s.gblock := by
  unfold State.modGroup; split <;> rfl
@[simp] theorem State.modGroup_snapb (s : State) (team gid : Nat) (h : Group → Group) : (s.modGroup team gid h).snapb = s.snapb := by
  unfold State.modGroup; split <;> rfl
@[simp] theorem State.modGroup_fns (s : State) (team gid : Nat) (h : Group → Group) : (s.modGroup team gid h).fns = s.fns := by
  unfold State.modGroup; split <;> rfl
@[simp] theorem State.modGroup_ctxs (s : State) (team gid : Nat) (h : Group → Group) : (s.modGroup team gid h).ctxs = s.ctxs := by
  unfold State.modGroup; split <;> rfl
@[simp] theorem State.modGroup_grids (s : State) (team gid : Nat) (h : Group → Group) : (s.modGroup team gid h).grids = s.grids := by
  unfold State.modGroup; split <;> rfl
@[simp] theorem State.modGroup_teams (s : State) (team gid : Nat) (h : Group → Group) : (s.modGroup team gid h).teams = s.teams := by
  unfold State.modGroup; split <;> rfl
@[simp] theorem State.modGroup_rrobin (s : State) (team gid : Nat) (h : Group → Group) : (s.modGroup team gid h).rrobin = s.rrobin := by
  unfold State.modGroup; split <;> rfl
@[simp] theorem State.modGroup_deficit (s : State) (team gid : Nat) (h : Group → Group) : (s.modGroup team gid h).deficit = s.deficit := by
  unfold State.modGroup; split <;> rfl
@[simp] theorem State.modGroup_claims (s : State) (team gid : Nat) (h : Group → Group) : (s.modGroup team gid h).claims = s.claims := by
  unfold State.modGroup; split <;> rfl
@[simp] theorem State.modGroup_lastFn (s : State) (team gid : Nat) (h : Group → Group) : (s.modGroup team gid h).lastFn = s.lastFn := by
  unfold State.modGroup; split <;> rfl
@[simp] theorem State.modGroup_wins (s : State) (team gid : Nat) (h : Group → Group) : (s.modGroup team gid h).wins = s.wins := by
  unfold State.modGroup; split <;> rfl
@[simp] theorem State.modGroup_atoms (s : State) (team gid : Nat) (h : Group → Group) : (s.modGroup team gid h).atoms = s.atoms := by
  unfold State.modGroup; split <;> rfl
@[simp] theorem State.modGroup_contribs (s : State) (team gid : Nat) (h : Group → Group) : (s.modGroup team gid h).contribs = s.contribs := by
  unfold State.modGroup; split <;> rfl
@[simp] theorem State.modGroup_syncs (s : State) (team gid : Nat) (h : Group → Group) : (s.modGroup team gid h).syncs = s.syncs := by
  unfold State.modGroup; split <;> rfl
@[simp] theorem State.modGroup_arrops (s : State) (team gid : Nat) (h : Group → Group) : (s.modGroup team gid h).arrops = s.arrops := by
  unfold State.modGroup; split <;> rfl
@[simp] theorem State.modGroup_cmds (s : State) (team gid : Nat) (h : Group → Group) : (s.modGroup team gid h).cmds = s.cmds := by
  unfold State.modGroup; split <;> rfl
@[simp] theorem State.modGroup_tlb (s : State) (team gid : Nat) (h : Group → Group) : (s.modGroup team gid h).tlb = s.tlb := by
  unfold State.modGroup; split <;> rfl
@[simp] theorem State.modGroup_ats (s : State) (team gid : Nat) (h : Group → Group) : (s.modGroup team gid h).ats = s.ats := by
  unfold State.modGroup; split <;> rfl
@[simp] theorem State.modGroup_dredge (s : State) (team gid : Nat) (h : Group → Group) : (s.modGroup team gid h).dredge = s.dredge := by
  unfold State.modGroup; split <;> rfl
@[simp] theorem State.modGroup_keys (s : State) (team gid : Nat) (h : Group → Group) : (s.modGroup team gid h).keys = s.keys := by
  unfold State.modGroup; split <;> rfl
@[simp] theorem State.modGroup_comap (s : State) (team gid : Nat) (h : Group → Group) : (s.modGroup team gid h).comap = s.comap := by
  unfold State.modGroup; split <;> rfl
@[simp] theorem State.modGroup_sessions (s : State) (team gid : Nat) (h : Group → Group) : (s.modGroup team gid h).sessions = s.sessions := by
  unfold State.modGroup; split <;> rfl
@[simp] theorem State.modGroup_devgroup (s : State) (team gid : Nat) (h : Group → Group) : (s.modGroup team gid h).devgroup = s.devgroup := by
  unfold State.modGroup; split <;> rfl
@[simp] theorem State.modGroup_measure (s : State) (team gid : Nat) (h : Group → Group) : (s.modGroup team gid h).measure = s.measure := by
  unfold State.modGroup; split <;> rfl
@[simp] theorem State.modGroup_staged (s : State) (team gid : Nat) (h : Group → Group) : (s.modGroup team gid h).staged = s.staged := by
  unfold State.modGroup; split <;> rfl
@[simp] theorem State.modGroup_replies (s : State) (team gid : Nat) (h : Group → Group) : (s.modGroup team gid h).replies = s.replies := by
  unfold State.modGroup; split <;> rfl
@[simp] theorem State.modGroup_receipts (s : State) (team gid : Nat) (h : Group → Group) : (s.modGroup team gid h).receipts = s.receipts := by
  unfold State.modGroup; split <;> rfl
@[simp] theorem State.modGroup_receiptsDue (s : State) (team gid : Nat) (h : Group → Group) : (s.modGroup team gid h).receiptsDue = s.receiptsDue := by
  unfold State.modGroup; split <;> rfl
@[simp] theorem State.modGroup_nextReceipt (s : State) (team gid : Nat) (h : Group → Group) : (s.modGroup team gid h).nextReceipt = s.nextReceipt := by
  unfold State.modGroup; split <;> rfl
@[simp] theorem State.modGroup_errs (s : State) (team gid : Nat) (h : Group → Group) : (s.modGroup team gid h).errs = s.errs := by
  unfold State.modGroup; split <;> rfl
@[simp] theorem State.modGroup_errW (s : State) (team gid : Nat) (h : Group → Group) : (s.modGroup team gid h).errW = s.errW := by
  unfold State.modGroup; split <;> rfl
@[simp] theorem State.modGroup_retiredPairs (s : State) (team gid : Nat) (h : Group → Group) : (s.modGroup team gid h).retiredPairs = s.retiredPairs := by
  unfold State.modGroup; split <;> rfl
@[simp] theorem State.modGroup_retiredPages (s : State) (team gid : Nat) (h : Group → Group) : (s.modGroup team gid h).retiredPages = s.retiredPages := by
  unfold State.modGroup; split <;> rfl
@[simp] theorem State.modGroup_disabled (s : State) (team gid : Nat) (h : Group → Group) : (s.modGroup team gid h).disabled = s.disabled := by
  unfold State.modGroup; split <;> rfl
@[simp] theorem State.modGroup_eccCounts (s : State) (team gid : Nat) (h : Group → Group) : (s.modGroup team gid h).eccCounts = s.eccCounts := by
  unfold State.modGroup; split <;> rfl
@[simp] theorem State.modGroup_patrol (s : State) (team gid : Nat) (h : Group → Group) : (s.modGroup team gid h).patrol = s.patrol := by
  unfold State.modGroup; split <;> rfl
@[simp] theorem State.modGroup_powerLimit (s : State) (team gid : Nat) (h : Group → Group) : (s.modGroup team gid h).powerLimit = s.powerLimit := by
  unfold State.modGroup; split <;> rfl

/-! ### `modTeam` -/

@[simp] theorem State.modTeam_part (s : State) (id : Nat) (h : Team → Team) : (s.modTeam id h).part = s.part := by
  unfold State.modTeam; split <;> rfl
@[simp] theorem State.modTeam_clk (s : State) (id : Nat) (h : Team → Team) : (s.modTeam id h).clk = s.clk := by
  unfold State.modTeam; split <;> rfl
@[simp] theorem State.modTeam_now (s : State) (id : Nat) (h : Team → Team) : (s.modTeam id h).now = s.now := by
  unfold State.modTeam; split <;> rfl
@[simp] theorem State.modTeam_inputs (s : State) (id : Nat) (h : Team → Team) : (s.modTeam id h).inputs = s.inputs := by
  unfold State.modTeam; split <;> rfl
@[simp] theorem State.modTeam_free (s : State) (id : Nat) (h : Team → Team) : (s.modTeam id h).free = s.free := by
  unfold State.modTeam; split <;> rfl
@[simp] theorem State.modTeam_nextId (s : State) (id : Nat) (h : Team → Team) : (s.modTeam id h).nextId = s.nextId := by
  unfold State.modTeam; split <;> rfl
@[simp] theorem State.modTeam_cur (s : State) (id : Nat) (h : Team → Team) : (s.modTeam id h).cur = s.cur := by
  unfold State.modTeam; split <;> rfl
@[simp] theorem State.modTeam_mem (s : State) (id : Nat) (h : Team → Team) : (s.modTeam id h).mem = s.mem := by
  unfold State.modTeam; split <;> rfl
@[simp] theorem State.modTeam_side (s : State) (id : Nat) (h : Team → Team) : (s.modTeam id h).side = s.side := by
  unfold State.modTeam; split <;> rfl
@[simp] theorem State.modTeam_unc (s : State) (id : Nat) (h : Team → Team) : (s.modTeam id h).unc = s.unc := by
  unfold State.modTeam; split <;> rfl
@[simp] theorem State.modTeam_hostMem (s : State) (id : Nat) (h : Team → Team) : (s.modTeam id h).hostMem = s.hostMem := by
  unfold State.modTeam; split <;> rfl
@[simp] theorem State.modTeam_copies (s : State) (id : Nat) (h : Team → Team) : (s.modTeam id h).copies = s.copies := by
  unfold State.modTeam; split <;> rfl
@[simp] theorem State.modTeam_sent (s : State) (id : Nat) (h : Team → Team) : (s.modTeam id h).sent = s.sent := by
  unfold State.modTeam; split <;> rfl
@[simp] theorem State.modTeam_hostBad (s : State) (id : Nat) (h : Team → Team) : (s.modTeam id h).hostBad = s.hostBad := by
  unfold State.modTeam; split <;> rfl
@[simp] theorem State.modTeam_turns (s : State) (id : Nat) (h : Team → Team) : (s.modTeam id h).turns = s.turns := by
  unfold State.modTeam; split <;> rfl
@[simp] theorem State.modTeam_certs (s : State) (id : Nat) (h : Team → Team) : (s.modTeam id h).certs = s.certs := by
  unfold State.modTeam; split <;> rfl
@[simp] theorem State.modTeam_dbgReads (s : State) (id : Nat) (h : Team → Team) : (s.modTeam id h).dbgReads = s.dbgReads := by
  unfold State.modTeam; split <;> rfl
@[simp] theorem State.modTeam_spares (s : State) (id : Nat) (h : Team → Team) : (s.modTeam id h).spares = s.spares := by
  unfold State.modTeam; split <;> rfl
@[simp] theorem State.modTeam_revoked (s : State) (id : Nat) (h : Team → Team) : (s.modTeam id h).revoked = s.revoked := by
  unfold State.modTeam; split <;> rfl
@[simp] theorem State.modTeam_pins (s : State) (id : Nat) (h : Team → Team) : (s.modTeam id h).pins = s.pins := by
  unfold State.modTeam; split <;> rfl
@[simp] theorem State.modTeam_granted (s : State) (id : Nat) (h : Team → Team) : (s.modTeam id h).granted = s.granted := by
  unfold State.modTeam; split <;> rfl
@[simp] theorem State.modTeam_ungranted (s : State) (id : Nat) (h : Team → Team) : (s.modTeam id h).ungranted = s.ungranted := by
  unfold State.modTeam; split <;> rfl
@[simp] theorem State.modTeam_gblock (s : State) (id : Nat) (h : Team → Team) : (s.modTeam id h).gblock = s.gblock := by
  unfold State.modTeam; split <;> rfl
@[simp] theorem State.modTeam_snapb (s : State) (id : Nat) (h : Team → Team) : (s.modTeam id h).snapb = s.snapb := by
  unfold State.modTeam; split <;> rfl
@[simp] theorem State.modTeam_fns (s : State) (id : Nat) (h : Team → Team) : (s.modTeam id h).fns = s.fns := by
  unfold State.modTeam; split <;> rfl
@[simp] theorem State.modTeam_ctxs (s : State) (id : Nat) (h : Team → Team) : (s.modTeam id h).ctxs = s.ctxs := by
  unfold State.modTeam; split <;> rfl
@[simp] theorem State.modTeam_grids (s : State) (id : Nat) (h : Team → Team) : (s.modTeam id h).grids = s.grids := by
  unfold State.modTeam; split <;> rfl
@[simp] theorem State.modTeam_groups (s : State) (id : Nat) (h : Team → Team) : (s.modTeam id h).groups = s.groups := by
  unfold State.modTeam; split <;> rfl
@[simp] theorem State.modTeam_rrobin (s : State) (id : Nat) (h : Team → Team) : (s.modTeam id h).rrobin = s.rrobin := by
  unfold State.modTeam; split <;> rfl
@[simp] theorem State.modTeam_deficit (s : State) (id : Nat) (h : Team → Team) : (s.modTeam id h).deficit = s.deficit := by
  unfold State.modTeam; split <;> rfl
@[simp] theorem State.modTeam_claims (s : State) (id : Nat) (h : Team → Team) : (s.modTeam id h).claims = s.claims := by
  unfold State.modTeam; split <;> rfl
@[simp] theorem State.modTeam_lastFn (s : State) (id : Nat) (h : Team → Team) : (s.modTeam id h).lastFn = s.lastFn := by
  unfold State.modTeam; split <;> rfl
@[simp] theorem State.modTeam_wins (s : State) (id : Nat) (h : Team → Team) : (s.modTeam id h).wins = s.wins := by
  unfold State.modTeam; split <;> rfl
@[simp] theorem State.modTeam_atoms (s : State) (id : Nat) (h : Team → Team) : (s.modTeam id h).atoms = s.atoms := by
  unfold State.modTeam; split <;> rfl
@[simp] theorem State.modTeam_contribs (s : State) (id : Nat) (h : Team → Team) : (s.modTeam id h).contribs = s.contribs := by
  unfold State.modTeam; split <;> rfl
@[simp] theorem State.modTeam_syncs (s : State) (id : Nat) (h : Team → Team) : (s.modTeam id h).syncs = s.syncs := by
  unfold State.modTeam; split <;> rfl
@[simp] theorem State.modTeam_arrops (s : State) (id : Nat) (h : Team → Team) : (s.modTeam id h).arrops = s.arrops := by
  unfold State.modTeam; split <;> rfl
@[simp] theorem State.modTeam_cmds (s : State) (id : Nat) (h : Team → Team) : (s.modTeam id h).cmds = s.cmds := by
  unfold State.modTeam; split <;> rfl
@[simp] theorem State.modTeam_tlb (s : State) (id : Nat) (h : Team → Team) : (s.modTeam id h).tlb = s.tlb := by
  unfold State.modTeam; split <;> rfl
@[simp] theorem State.modTeam_ats (s : State) (id : Nat) (h : Team → Team) : (s.modTeam id h).ats = s.ats := by
  unfold State.modTeam; split <;> rfl
@[simp] theorem State.modTeam_dredge (s : State) (id : Nat) (h : Team → Team) : (s.modTeam id h).dredge = s.dredge := by
  unfold State.modTeam; split <;> rfl
@[simp] theorem State.modTeam_keys (s : State) (id : Nat) (h : Team → Team) : (s.modTeam id h).keys = s.keys := by
  unfold State.modTeam; split <;> rfl
@[simp] theorem State.modTeam_comap (s : State) (id : Nat) (h : Team → Team) : (s.modTeam id h).comap = s.comap := by
  unfold State.modTeam; split <;> rfl
@[simp] theorem State.modTeam_sessions (s : State) (id : Nat) (h : Team → Team) : (s.modTeam id h).sessions = s.sessions := by
  unfold State.modTeam; split <;> rfl
@[simp] theorem State.modTeam_devgroup (s : State) (id : Nat) (h : Team → Team) : (s.modTeam id h).devgroup = s.devgroup := by
  unfold State.modTeam; split <;> rfl
@[simp] theorem State.modTeam_measure (s : State) (id : Nat) (h : Team → Team) : (s.modTeam id h).measure = s.measure := by
  unfold State.modTeam; split <;> rfl
@[simp] theorem State.modTeam_staged (s : State) (id : Nat) (h : Team → Team) : (s.modTeam id h).staged = s.staged := by
  unfold State.modTeam; split <;> rfl
@[simp] theorem State.modTeam_replies (s : State) (id : Nat) (h : Team → Team) : (s.modTeam id h).replies = s.replies := by
  unfold State.modTeam; split <;> rfl
@[simp] theorem State.modTeam_receipts (s : State) (id : Nat) (h : Team → Team) : (s.modTeam id h).receipts = s.receipts := by
  unfold State.modTeam; split <;> rfl
@[simp] theorem State.modTeam_receiptsDue (s : State) (id : Nat) (h : Team → Team) : (s.modTeam id h).receiptsDue = s.receiptsDue := by
  unfold State.modTeam; split <;> rfl
@[simp] theorem State.modTeam_nextReceipt (s : State) (id : Nat) (h : Team → Team) : (s.modTeam id h).nextReceipt = s.nextReceipt := by
  unfold State.modTeam; split <;> rfl
@[simp] theorem State.modTeam_errs (s : State) (id : Nat) (h : Team → Team) : (s.modTeam id h).errs = s.errs := by
  unfold State.modTeam; split <;> rfl
@[simp] theorem State.modTeam_errW (s : State) (id : Nat) (h : Team → Team) : (s.modTeam id h).errW = s.errW := by
  unfold State.modTeam; split <;> rfl
@[simp] theorem State.modTeam_retiredPairs (s : State) (id : Nat) (h : Team → Team) : (s.modTeam id h).retiredPairs = s.retiredPairs := by
  unfold State.modTeam; split <;> rfl
@[simp] theorem State.modTeam_retiredPages (s : State) (id : Nat) (h : Team → Team) : (s.modTeam id h).retiredPages = s.retiredPages := by
  unfold State.modTeam; split <;> rfl
@[simp] theorem State.modTeam_disabled (s : State) (id : Nat) (h : Team → Team) : (s.modTeam id h).disabled = s.disabled := by
  unfold State.modTeam; split <;> rfl
@[simp] theorem State.modTeam_eccCounts (s : State) (id : Nat) (h : Team → Team) : (s.modTeam id h).eccCounts = s.eccCounts := by
  unfold State.modTeam; split <;> rfl
@[simp] theorem State.modTeam_patrol (s : State) (id : Nat) (h : Team → Team) : (s.modTeam id h).patrol = s.patrol := by
  unfold State.modTeam; split <;> rfl
@[simp] theorem State.modTeam_powerLimit (s : State) (id : Nat) (h : Team → Team) : (s.modTeam id h).powerLimit = s.powerLimit := by
  unfold State.modTeam; split <;> rfl

/-! ### Looking up what was written -/

theorem State.group?_setGroup (s : State) (g : Group) (team gid : Nat) :
    (s.setGroup g).group? team gid = if gkey team gid = gkey g.team g.gid then some g else s.group? team gid :=
  mfind_mput s.groups (gkey g.team g.gid) (gkey team gid) g

@[simp] theorem State.group?_setGroup_self (s : State) (g : Group) :
    (s.setGroup g).group? g.team g.gid = some g := by simp [State.group?_setGroup]

theorem State.team?_setTeam (s : State) (t : Team) (id : Nat) :
    (s.setTeam t).team? id = if id = t.id then some t else s.team? id := mfind_mput s.teams t.id id t

theorem State.ctx?_setCtx (s : State) (c : Ctx) (colour : Nat) :
    (s.setCtx c).ctx? colour = if colour = c.colour then some c else s.ctx? colour :=
  mfind_mput s.ctxs c.colour colour c

theorem State.fn_setFn (s : State) (n k : Nat) (f : Fn) :
    (s.setFn n f).fn k = if k = n then f else s.fn k := by simp [State.fn, State.setFn]

@[simp] theorem State.group?_setTeam (s : State) (t : Team) (team gid : Nat) :
    (s.setTeam t).group? team gid = s.group? team gid := rfl
@[simp] theorem State.group?_setGrid (s : State) (g : Grid) (team gid : Nat) :
    (s.setGrid g).group? team gid = s.group? team gid := rfl
@[simp] theorem State.group?_setCtx (s : State) (c : Ctx) (team gid : Nat) :
    (s.setCtx c).group? team gid = s.group? team gid := rfl
@[simp] theorem State.group?_setFn (s : State) (n : Nat) (f : Fn) (team gid : Nat) :
    (s.setFn n f).group? team gid = s.group? team gid := rfl
@[simp] theorem State.group?_modTeam (s : State) (id : Nat) (h : Team → Team) (team gid : Nat) :
    (s.modTeam id h).group? team gid = s.group? team gid := by simp [State.group?]

theorem State.group?_modGroups (s : State) (tm : Nat) (h : Group → Group) (team gid : Nat) :
    (s.modGroups tm h).group? team gid = (s.group? team gid).map (fun g => if g.team = tm then h g else g) :=
  mfind_mmap _ s.groups (gkey team gid)

end Sys2Proof.Machine
end

