-- ==== Sys2Proof/Laws/Ops.lean ====
section
/-! SUPPORT. Laws/Ops.lean: what the end of an instruction can do (04 R82): the run, the spin detector, the cycles that
pass and the exit of a group change control state alone. -/

namespace Sys2Proof.Machine

open Sys2Proof

/-- A group without its control state: what no end of an instruction touches. -/
def Group.base (g : Group) : Group :=
  { g with status := .ready, stopCode := 0, wait := .none, waitAt := none, readySince := 0, aged := false,
           stall := false, threads := [], lats := [], loads := [], spin := Spin.idle, run := Run.idle, cont := 0,
           debugStop := false, haltAtEnd := false }

theorem SameRegs.of_base {g g' : Group} (h : g'.base = g.base) : SameRegs g g' where
  v := by have := congrArg Group.v h; exact this
  vside := by have := congrArg Group.vside h; exact this
  vtag := by have := congrArg Group.vtag h; exact this
  s := by have := congrArg Group.s h; exact this
  sside := by have := congrArg Group.sside h; exact this
  stag := by have := congrArg Group.stag h; exact this
  p := by have := congrArg Group.p h; exact this
  plbl := by have := congrArg Group.plbl h; exact this
  c := by have := congrArg Group.c h; exact this
  clbl := by have := congrArg Group.clbl h; exact this
  mode := by have := congrArg Group.mode h; exact this
  sat := by have := congrArg Group.sat h; exact this
  psize := by have := congrArg Group.psize h; exact this
  srlbl := by have := congrArg Group.srlbl h; exact this
  kcode := by have := congrArg Group.kcode h; exact this
  frame := by have := congrArg Group.frame h; exact this

theorem base_team {g g' : Group} (h : g'.base = g.base) : g'.team = g.team :=
  by have := congrArg Group.team h; exact this

theorem base_gid {g g' : Group} (h : g'.base = g.base) : g'.gid = g.gid :=
  by have := congrArg Group.gid h; exact this

theorem base_debugHalt (g : Group) : g.debugHalt.base = g.base := rfl

theorem base_enter (g : Group) (clk : Nat) (st : GStatus) (w : Wait) : (g.enter clk st w).base = g.base := by
  unfold Group.enter; split <;> rfl

theorem base_setPcs (g : Group) (a : Nat) : (g.setPcs a).base = g.base := rfl

theorem base_spinStep (s : State) (native : Bool) (opc : Nat) (g g' : Group) (t : Option Nat) :
    (spinStep s native opc g g' t).base = g'.base := by
  unfold spinStep; dsimp only
  repeat' first | rfl | split

theorem base_endRun (g : Group) (clk : Nat) (k : Bool) (st : GStatus) (w : Wait) :
    (g.endRun clk k st w).base = g.base := by
  unfold Group.endRun
  extract_lets ts run g1
  have hb : g1.base = g.base := rfl
  split
  · change (g1.enter clk .exited .none).base = _; rw [base_enter, hb]
  · rw [base_enter]; exact hb

theorem base_stopRun (g : Group) (clk : Nat) (st : GStatus) (w : Wait) : (g.stopRun clk st w).base = g.base :=
  base_enter g clk st w

theorem base_commitGroup (e : Env) (s : State) (g' : Group) (t : Option Nat) (k : Bool) (st : GStatus) (w : Wait) :
    (e.commitGroup s g' t k st w).base = g'.base := by
  unfold Env.commitGroup; dsimp only
  split
  · rw [base_endRun]; exact base_spinStep _ _ _ _ _ _
  · exact base_spinStep _ _ _ _ _ _

/-! ### Changes of control state alone -/

/-- Groups differ in control state alone, and nothing else but CLK, teams and engine commands differs. -/
structure CtlOnly (s t : State) : Prop where
  rest : { t with clk := s.clk, groups := s.groups, teams := s.teams, cmds := s.cmds } = s
  groups : ∀ team gid, (t.group? team gid).map Group.base = (s.group? team gid).map Group.base

theorem CtlOnly.refl (s : State) : CtlOnly s s := ⟨rfl, fun _ _ => rfl⟩

theorem CtlOnly.trans {s t u : State} (h : CtlOnly s t) (h' : CtlOnly t u) : CtlOnly s u where
  rest := by
    have e1 := h.rest
    have e2 := h'.rest
    rw [← e1, ← e2]
  groups team gid := (h'.groups team gid).trans (h.groups team gid)

theorem ctl_modGroups (s : State) (team : Nat) (h : Group → Group) (hb : ∀ g, (h g).base = g.base) :
    CtlOnly s (s.modGroups team h) where
  rest := rfl
  groups tm gid := by
    rw [State.group?_modGroups, Option.map_map]
    cases s.group? tm gid with
    | none => rfl
    | some g => simp only [Option.map_some, Function.comp]; split <;> simp [hb]

theorem ctl_modTeam (s : State) (id : Nat) (h : Team → Team) : CtlOnly s (s.modTeam id h) where
  rest := by unfold State.modTeam; split <;> rfl
  groups tm gid := by simp

theorem ctl_tick (s : State) (n : Nat) : CtlOnly s (s.tick n) where
  rest := rfl
  groups tm gid := by
    show ((mfind (mmap _ s.groups) (gkey tm gid)).map _) = _
    rw [mfind_mmap, Option.map_map]
    show _ = (mfind s.groups (gkey tm gid)).map _
    cases mfind s.groups (gkey tm gid) with
    | none => rfl
    | some g => simp only [Option.map_some, Function.comp]; split <;> rfl

theorem ctl_barComplete (s : State) (team n : Nat) : CtlOnly s (s.barComplete team n) := by
  unfold State.barComplete
  refine (ctl_modTeam s team _).trans (ctl_modGroups _ team _ fun g => ?_)
  dsimp only
  split
  · split
    · rw [base_enter]; rfl
    · rfl
  · rfl

theorem ctl_foldl {α : Type} (f : State → α → State) (h : ∀ s a, CtlOnly s (f s a)) (xs : List α) (s : State) :
    CtlOnly s (xs.foldl f s) := by
  induction xs generalizing s with
  | nil => exact CtlOnly.refl s
  | cons x xs ih => exact (h s x).trans (ih _)

theorem ctl_barExit (s : State) (team : Nat) : CtlOnly s (s.barExit team) := by
  unfold State.barExit
  split
  · exact CtlOnly.refl s
  · refine ctl_foldl _ (fun s p => ?_) _ s
    split
    · exact ctl_barComplete s team _
    · exact CtlOnly.refl s

theorem ctl_cmds (s : State) (cs : List (Nat × Cmd)) : CtlOnly s { s with cmds := cs } := ⟨rfl, fun _ _ => rfl⟩

theorem ctl_groupExit (s : State) (team gid : Nat) : CtlOnly s (s.groupExit team gid) := by
  have h1 (cs : List (Nat × Cmd)) : CtlOnly s { s.barExit team with cmds := cs } :=
    (ctl_barExit s team).trans (ctl_cmds (s.barExit team) cs)
  unfold State.groupExit; dsimp only
  split
  · exact ((h1 _).trans (ctl_modTeam _ team _)).trans (ctl_cmds _ _)
  · exact h1 _

/-! ### A group that has exited stays so -/

/-- Every group that has exited still exists and has exited. -/
def KeepsExited (s t : State) : Prop :=
  ∀ team gid g, s.group? team gid = some g → g.status = .exited →
    ∃ g', t.group? team gid = some g' ∧ g'.status = .exited

theorem KeepsExited.refl (s : State) : KeepsExited s s := fun _ _ g h he => ⟨g, h, he⟩

theorem KeepsExited.trans {s t u : State} (h : KeepsExited s t) (h' : KeepsExited t u) : KeepsExited s u := by
  intro tm gid g hg he
  obtain ⟨g1, h1, e1⟩ := h tm gid g hg he
  exact h' tm gid g1 h1 e1

theorem exited_of_groups {s t : State} (h : t.groups = s.groups) : KeepsExited s t := by
  intro tm gid g hg he
  exact ⟨g, by unfold State.group? at *; rw [h]; exact hg, he⟩

theorem exited_modGroups (s : State) (team : Nat) (h : Group → Group)
    (hb : ∀ g, g.status = .exited → (h g).status = .exited) : KeepsExited s (s.modGroups team h) := by
  intro tm gid g hg he
  rw [State.group?_modGroups, hg]
  refine ⟨_, rfl, ?_⟩
  dsimp only
  split
  · exact hb g he
  · exact he

theorem exited_modTeam (s : State) (id : Nat) (h : Team → Team) : KeepsExited s (s.modTeam id h) :=
  exited_of_groups (State.modTeam_groups s id h)

theorem exited_tick (s : State) (n : Nat) : KeepsExited s (s.tick n) := by
  intro tm gid g hg he
  change ∃ g', mfind (mmap _ s.groups) (gkey tm gid) = some g' ∧ _
  change mfind s.groups (gkey tm gid) = some g at hg
  rw [mfind_mmap, hg]
  refine ⟨_, rfl, ?_⟩
  dsimp only
  split <;> exact he

theorem exited_barComplete (s : State) (team n : Nat) : KeepsExited s (s.barComplete team n) := by
  unfold State.barComplete
  refine (exited_modTeam s team _).trans (exited_modGroups _ team _ fun g hg => ?_)
  dsimp only
  rw [hg]

theorem exited_barExit (s : State) (team : Nat) : KeepsExited s (s.barExit team) := by
  unfold State.barExit
  split
  · exact KeepsExited.refl s
  · rename_i t ht
    clear ht
    generalize t.bars = bs
    induction bs generalizing s with
    | nil => exact KeepsExited.refl s
    | cons b bs ih =>
      simp only [List.foldl_cons]
      refine KeepsExited.trans ?_ (ih _)
      split
      · exact exited_barComplete s team _
      · exact KeepsExited.refl s

theorem exited_cmds (s : State) (cs : List (Nat × Cmd)) : KeepsExited s { s with cmds := cs } := exited_of_groups rfl

theorem exited_groupExit (s : State) (team gid : Nat) : KeepsExited s (s.groupExit team gid) := by
  have h1 (cs : List (Nat × Cmd)) : KeepsExited s { s.barExit team with cmds := cs } :=
    (exited_barExit s team).trans (exited_cmds (s.barExit team) cs)
  unfold State.groupExit; dsimp only
  split
  · exact ((h1 _).trans (exited_modTeam _ team _)).trans (exited_cmds _ _)
  · exact h1 _

/-! ### The end of an instruction -/

/-- What every end of an instruction that has committed can do, from the group `g'` that its effect leaves: the group's
control state, and control state elsewhere. -/
theorem commit_ctl (e : Env) (s : State) (g' : Group) (t : Option Nat) (k : Bool) (st : GStatus) (w : Wait) :
    CtlOnly (s.setGroup g') (e.commit s g' t k st w) := by
  have hb := base_commitGroup e s g' t k st w
  have h0 : CtlOnly (s.setGroup g') (s.setGroup (e.commitGroup s g' t k st w)) := by
    refine ⟨rfl, fun tm gid => ?_⟩
    rw [State.group?_setGroup, State.group?_setGroup, base_team hb, base_gid hb]
    split
    · simp [hb]
    · rfl
  unfold Env.commit; dsimp only
  split
  · exact (h0.trans (ctl_tick _ _)).trans (ctl_groupExit _ _ _)
  · exact h0.trans (ctl_tick _ _)

theorem groupIn_setGroup (e : Env) (s : State) (g : Group) (h : g.team = e.g.team) (h' : g.gid = e.g.gid) :
    e.groupIn (s.setGroup g) = g := by
  unfold Env.groupIn; rw [← h, ← h']; simp

/-- The end of an instruction whose effect leaves the group `g'`: its registers stay as the effect leaves them, and
nothing else changes. -/
theorem setGroup_done (e : Env) (s : State) (g' : Group) (ht : g'.team = e.g.team) (hg : g'.gid = e.g.gid) :
    (∃ g'', (e.done (s.setGroup g')).group? e.g.team e.g.gid = some g'' ∧ g''.base = g'.base) ∧
      CtlOnly (s.setGroup g') (e.done (s.setGroup g')) := by
  have hi := groupIn_setGroup e s g' ht hg
  have h := commit_ctl e (s.setGroup g') (g'.setPcs e.nextPc) none false .ready .none
  have h2 : CtlOnly (s.setGroup g') ((s.setGroup g').setGroup (g'.setPcs e.nextPc)) := by
    refine ⟨rfl, fun tm gid => ?_⟩
    rw [State.group?_setGroup, State.group?_setGroup]
    show Option.map _ (if gkey tm gid = gkey g'.team g'.gid then _ else _) = _
    split <;> rfl
  have h3 : CtlOnly (s.setGroup g') (e.done (s.setGroup g')) := by
    unfold Env.done; rw [hi]; exact h2.trans h
  refine ⟨?_, h3⟩
  have h4 := h3.groups e.g.team e.g.gid
  rw [State.group?_setGroup, ht, hg, if_pos rfl] at h4
  cases hq : (e.done (s.setGroup g')).group? e.g.team e.g.gid with
  | none => rw [hq] at h4; simp at h4
  | some g'' => rw [hq] at h4; exact ⟨g'', rfl, by simpa using h4⟩

end Sys2Proof.Machine
end

