-- ==== Sys2Proof/Laws/Regs.lean ====
section
/-! SUPPORT. Laws/Regs.lean: reading registers after the one write of a result (03 R51 to R57, 04 R83). -/

namespace Sys2Proof.Machine

open Sys2Proof

/-! ### Single registers -/

theorem vget_vset (g : Group) (n n' i i' : Nat) (w : Word) (h : i < 64) (h' : i' < 64) :
    (g.vset n i w).vget n' i' = if n' = n ∧ i' = i then w else g.vget n' i' := by
  unfold Group.vget Group.vset
  simp only [mget_mset]
  have : (64 * n' + i' = 64 * n + i) ↔ (n' = n ∧ i' = i) := by omega
  simp [this]

theorem vtag_setVtag (g : Group) (q q' i i' : Nat) (b : Bool) (h : i < 64) (h' : i' < 64) :
    mget false (g.setVtag q i b).vtag (64 * q' + i') =
      if q' = q ∧ i' = i then b else mget false g.vtag (64 * q' + i') := by
  unfold Group.setVtag
  simp only [mget_mset]
  have : (64 * q' + i' = 64 * q + i) ↔ (q' = q ∧ i' = i) := by omega
  simp [this]

@[simp] theorem sget_sset (g : Group) (n n' : Nat) (w : DWord) :
    (g.sset n w).sget n' = if n' = n then w else g.sget n' := by
  simp [Group.sget, Group.sset]

theorem pget_pset (g : Group) (width n n' : Nat) (m : Mask) :
    (g.pset n m).pget width n' = if n' = n ∧ n ≠ 0 then m else g.pget width n' := by
  by_cases h : n = 0
  · simp [Group.pset, h]
  · by_cases h2 : n' = 0
    · subst h2; simp [Group.pget, Ne.symm h]
    · simp [Group.pget, Group.pset, h, h2]

theorem cget_cset (g : Group) (n n' : Nat) (b : Bool) (h : n < 8) (h' : n' < 8) :
    (g.cset n b).cget n' = if n' = n then b else g.cget n' := by
  have e : ∀ k : Nat, k < 8 → (1#8 <<< n).getLsbD k = decide (k = n) := by
    intro k hk
    rw [BitVec.getLsbD_shiftLeft]
    simp only [hk, decide_true, Bool.true_and]
    by_cases hkn : k = n
    · subst hkn; simp
    · by_cases hl : k < n
      · simp [hl, hkn]
      · simp [hl, hkn]; omega
  unfold Group.cget Group.cset
  cases b <;> simp only [Bool.false_eq_true, if_true, if_false]
  · rw [BitVec.getLsbD_and, BitVec.getLsbD_not, e n' h']
    by_cases hn : n' = n <;> simp [hn, h', h]
  · rw [BitVec.getLsbD_or, e n' h']
    by_cases hn : n' = n <;> simp [hn]

/-! ### Results of several threads -/

/-- One entry per thread. -/
abbrev entries {α : Type} (ws : List Nat) (w : Nat → α) : List (Nat × α) := ws.map (fun i => (i, w i))

theorem foldl_vset (g : Group) (n q : Nat) (ws : List Nat) (w : Nat → Word) (hws : ∀ i ∈ ws, i < 64) (n' q' i' : Nat)
    (h' : i' < 64) :
    let g' := (entries ws w).foldl (fun g p => (g.vset n p.1 p.2).setVtag q p.1 false) g
    g'.vget n' i' = (if n' = n ∧ i' ∈ ws then w i' else g.vget n' i') ∧
      mget false g'.vtag (64 * q' + i') = (if q' = q ∧ i' ∈ ws then false else mget false g.vtag (64 * q' + i')) := by
  induction ws generalizing g with
  | nil => simp
  | cons j ws ih =>
    have hj : j < 64 := hws j (by simp)
    have ih' := ih ((g.vset n j (w j)).setVtag q j false) (fun i hi => hws i (by simp [hi]))
    simp only [entries, List.map_cons, List.foldl_cons] at ih' ⊢
    rw [ih'.1, ih'.2]
    refine ⟨?_, ?_⟩
    · change (if _ then _ else (g.vset n j (w j)).vget n' i') = _
      rw [vget_vset _ _ _ _ _ _ hj h']
      by_cases h1 : n' = n <;> by_cases h2 : i' = j <;> by_cases h3 : i' ∈ ws <;> simp [h1, h2, h3]
    · rw [vtag_setVtag _ _ _ _ _ _ hj h']
      change (if _ then _ else if _ then _ else mget false g.vtag _) = _
      by_cases h1 : q' = q <;> by_cases h2 : i' = j <;> by_cases h3 : i' ∈ ws <;> simp [h1, h2, h3]

theorem foldl_vset_rest (g : Group) (n q : Nat) (ps : List (Nat × Word)) :
    let g' := ps.foldl (fun g p => (g.vset n p.1 p.2).setVtag q p.1 false) g
    g' = { g with v := g'.v, vtag := g'.vtag, vbad := g'.vbad } := by
  induction ps generalizing g with
  | nil => rfl
  | cons p ps ih =>
    simp only [List.foldl_cons] at ih ⊢
    exact (ih ((g.vset n p.1 p.2).setVtag q p.1 false)).trans rfl

/-- A write of a v register (03 R51, R56). -/
theorem writeV_regs (g : Group) (n : Nat) (ws : List Nat) (w : Nat → Word) (tn : Taint) (l : Label)
    (hws : ∀ i ∈ ws, i < 64) :
    let g' := g.writeV n (entries ws w) tn l
    (∀ n' i', i' < 64 → g'.vget n' i' = if n' = n ∧ i' ∈ ws then w i' else g.vget n' i') ∧
      (∀ q' i', i' < 64 → mget false g'.vtag (64 * q' + i') =
        if q' = n / 4 ∧ i' ∈ ws then false else mget false g.vtag (64 * q' + i')) ∧
      (∀ n', n' ≠ n → g'.vsd n' = g.vsd n') ∧
      g' = { g with v := g'.v, vtag := g'.vtag, vside := g'.vside, vbad := g'.vbad } := by
  intro g'
  have hg : g' = g.writeV n (entries ws w) tn l := rfl
  clear_value g'
  unfold Group.writeV at hg
  split at hg
  · have : ws = [] := by simpa [entries] using ‹(entries ws w).isEmpty = true›
    subst this
    subst hg
    simp
  · dsimp only at hg
    generalize hg1 : List.foldl (fun g p => (g.vset n p.1 p.2).setVtag (n / 4) p.1 false) g (entries ws w) = g1 at hg
    have hr := foldl_vset_rest g n (n / 4) (entries ws w)
    dsimp only at hr
    rw [hg1] at hr
    refine ⟨fun n' i' h' => ?_, fun q' i' h' => ?_, fun n' h' => ?_, ?_⟩
    · rw [hg]
      have := (foldl_vset g n (n / 4) ws w hws n' 0 i' h').1
      rw [hg1] at this; exact this
    · rw [hg]
      have := (foldl_vset g n (n / 4) ws w hws n q' i' h').2
      rw [hg1] at this; exact this
    · rw [hg]
      have : g1.vside = g.vside := by rw [hr]
      simp [Group.vsd, Group.setVsd, h', this]
    · rw [hg, hr]; rfl

theorem writeS_regs (g : Group) (n : Nat) (w : DWord) (tn : Taint) (l : Label) :
    let g' := g.writeS n w tn l
    (∀ n', g'.sget n' = if n' = n then w else g.sget n') ∧
      (∀ m, mget false g'.stag m = if m = n / 2 then false else mget false g.stag m) ∧
      (∀ n', n' ≠ n → g'.ssd n' = g.ssd n') ∧
      g' = { g with s := g'.s, stag := g'.stag, sside := g'.sside } := by
  refine ⟨fun n' => ?_, fun m => ?_, fun n' h => ?_, by
    simp only [Group.writeS, Group.setSsd, Group.setStag, Group.sset]⟩
  · show ((g.sset n w).sget n') = _; simp
  · simp [Group.writeS, Group.setStag, Group.setSsd, Group.sset]
  · simp [Group.writeS, Group.setStag, Group.setSsd, Group.sset, Group.ssd, h]

/-! ### Masks of threads -/

theorem getLsbD_one_shiftLeft (i k : Nat) (hk : k < 64) : (1#64 <<< i).getLsbD k = decide (k = i) := by
  rw [BitVec.getLsbD_shiftLeft]
  simp only [hk, decide_true, Bool.true_and]
  by_cases h : k = i
  · subst h; simp
  · by_cases hl : k < i
    · simp [hl, h]
    · simp [hl, h]; omega

theorem foldl_mask {α : Type} (f : Nat → Bool) (ws : List Nat) (w : Nat → α) (sel : α → Bool)
    (hsel : ∀ i, f i = sel (w i)) (a : Mask) (k : Nat) (hk : k < 64) :
    ((entries ws w).foldl (fun (a : Mask) (p : Nat × α) => if sel p.2 then a ||| (1#64 <<< p.1) else a) a).getLsbD k =
      (a.getLsbD k || (decide (k ∈ ws) && f k)) := by
  induction ws generalizing a with
  | nil => simp
  | cons j ws ih =>
    simp only [entries, List.map_cons, List.foldl_cons] at ih ⊢
    rw [ih]
    by_cases hs : sel (w j)
    · simp only [hs, if_true, BitVec.getLsbD_or]
      rw [getLsbD_one_shiftLeft j k hk]
      by_cases h1 : k = j
      · subst h1; simp [hsel, hs]
      · simp [h1]
    · simp only [hs, if_false, Bool.false_eq_true]
      by_cases h1 : k = j
      · subst h1; simp [hsel, hs]
      · simp [h1]

theorem writeP_regs (g : Group) (width n : Nat) (ws : List Nat) (w : Nat → Bool) (l : Label) :
    let g' := g.writeP width n (entries ws w) l
    (∀ n' i', i' < 64 → (g'.pget width n').getLsbD i' =
        if n' = n ∧ n ≠ 0 ∧ i' ∈ ws then w i' else (g.pget width n').getLsbD i') ∧
      (∀ n', n' ≠ n → mget 0 g'.plbl n' = mget 0 g.plbl n') ∧
      g' = { g with p := g'.p, plbl := g'.plbl } := by
  intro g'
  have hg : g' = g.writeP width n (entries ws w) l := rfl
  clear_value g'
  unfold Group.writeP at hg
  split at hg
  · subst hg
    refine ⟨fun n' i' h' => ?_, fun _ _ => rfl, rfl⟩
    rename_i hc
    have : ws = [] ∨ n = 0 := by simpa [entries] using hc
    rcases this with h | h <;> simp [h]
  · rename_i hc
    have hc' : ¬ (ws = [] ∨ n = 0) := by simpa [entries] using hc
    rw [not_or] at hc'
    extract_lets m on g1 at hg
    subst hg
    refine ⟨fun n' i' h' => ?_, fun n' h' => by simp [g1, Group.pset, hc'.2, h'], by simp [g1, Group.pset, hc'.2]⟩
    change ((g.pset n _).pget width n').getLsbD i' = _
    rw [pget_pset]
    by_cases h1 : n' = n
    · subst h1
      have hm := foldl_mask (fun _ => true) ws w (fun _ => true) (fun _ => rfl) 0 i' h'
      have ho := foldl_mask w ws w id (fun _ => rfl) 0 i' h'
      simp only [if_true, id] at hm ho
      simp only [hc'.2, ne_eq, not_false_eq_true, and_true, if_true, true_and]
      rw [BitVec.getLsbD_or, BitVec.getLsbD_and, BitVec.getLsbD_not, hm, ho]
      by_cases h2 : i' ∈ ws <;> simp [h2, h']
    · simp [h1]

theorem writeC_regs (g : Group) (n : Nat) (b : Bool) (l : Label) (h : n < 8) :
    let g' := g.writeC n b l
    (∀ n', n' < 8 → g'.cget n' = if n' = n then b else g.cget n') ∧
      (∀ n', n' ≠ n → mget 0 g'.clbl n' = mget 0 g.clbl n') ∧
      g' = { g with c := g'.c, clbl := g'.clbl } :=
  ⟨fun n' h' => cget_cset g n n' b h h', fun n' h' => by simp [Group.writeC, Group.cset, h'], rfl⟩

theorem capture_rest (g : Group) (n : Nat) (vals : List (Nat × Word)) (tn : Taint) (l : Label) (u : Bool) :
    g.capture n vals tn l u =
      { g with lats := (g.capture n vals tn l u).lats, vbad := (g.capture n vals tn l u).vbad } := by
  unfold Group.capture; rfl

/-! ### The write of a result -/

theorem Keeps.refl (e : Env) (ws : List Nat) : Keeps e ws e.g where
  v _ _ _ _ := rfl
  s _ _ := rfl
  p _ _ _ _ := rfl
  c _ _ _ := rfl
  vtag _ _ _ _ := rfl
  stag _ _ := rfl
  vside _ _ := rfl
  sside _ _ := rfl
  plbl _ _ := rfl
  clbl _ _ := rfl
  mode := rfl
  psize := rfl
  kcode := rfl
  frame := rfl

/-- The destination part of the write of a result (03 R51 to R57). -/
def Env.writeDst (e : Env) (vals : List (Nat × DWord)) (tn : Taint) (l : Label) (wide : Bool) : Group :=
  let lows : List (Nat × Word) := vals.map (fun p => (p.1, p.2.setWidth 32))
  match e.f.dst with
  | .v n => e.g.writeV n.val lows tn l
  | .s n =>
    match vals with
    | [] => e.g
    | (_, w) :: _ => e.g.writeS n.val (if wide then w else (w.setWidth 32).setWidth 64) tn l
  | .p n => e.g.writeP e.gr.width n.val (lows.map (fun p => (p.1, p.2 != 0))) l
  | .c n =>
    match vals with
    | [] => e.g
    | (_, w) :: _ => e.g.writeC n.val (w.setWidth 32 != (0 : Word)) l
  | _ => e.g

theorem writeResult_eq (e : Env) (vals : List (Nat × DWord)) (tn : Taint) (l : Label) (wide unif : Bool) :
    ∃ lats vbad, e.writeResult vals tn l wide unif = { e.writeDst vals tn l wide with lats := lats, vbad := vbad } := by
  unfold Env.writeResult
  extract_lets lows g1
  have h : g1 = e.writeDst vals tn l wide := rfl
  split
  · exact ⟨_, _, (capture_rest g1 _ _ _ _ _).trans (by rw [h])⟩
  · exact ⟨g1.lats, g1.vbad, by rw [h]⟩

theorem writeDst_regs (e : Env) (ws : List Nat) (w : Nat → DWord) (tn : Taint) (l : Label) (wide : Bool)
    (hws : ∀ i ∈ ws, i < 64) :
    let g' := e.writeDst (entries ws w) tn l wide
    Holds e g' ws w wide ∧ Keeps e ws g' ∧ g'.sat = e.g.sat ∧ g'.srlbl = e.g.srlbl ∧ g'.team = e.g.team ∧
      g'.gid = e.g.gid := by
  have hk := Keeps.refl e ws
  unfold Env.writeDst Holds
  have hl : (entries ws w).map (fun p => (p.1, p.2.setWidth 32)) = entries ws (fun i => (w i).setWidth 32) := by
    simp [entries]
  dsimp only
  rw [hl]
  cases hd : e.f.dst with
  | v n =>
    obtain ⟨h1, h2, h3, h4⟩ := writeV_regs e.g n.val ws (fun i => (w i).setWidth 32) tn l hws
    dsimp only
    generalize e.g.writeV n.val _ tn l = g' at h1 h2 h3 h4 ⊢
    refine ⟨fun i hi => ⟨by rw [h1 _ _ (hws i hi)]; simp [hi], by rw [h2 _ _ (hws i hi)]; simp [hi]⟩, ?_,
      by rw [h4], by rw [h4], by rw [h4], by rw [h4]⟩
    refine ⟨?_, fun _ _ => (by rw [h4] <;> rfl), fun _ _ _ _ => (by rw [h4] <;> rfl), fun _ _ _ => (by rw [h4] <;> rfl), ?_,
      fun _ _ => (by rw [h4] <;> rfl), ?_, fun _ _ => (by rw [h4] <;> rfl), fun _ _ => (by rw [h4] <;> rfl),
      fun _ _ => (by rw [h4] <;> rfl), (by rw [h4]), (by rw [h4]), (by rw [h4]), (by rw [h4])⟩
    · intro n' i hi hn
      rw [h1 _ _ hi, if_neg]
      rintro ⟨rfl, hw⟩; exact hn ⟨by simp [hd, dstV], hw⟩
    · intro q i hi hn
      rw [h2 _ _ hi, if_neg]
      rintro ⟨rfl, hw⟩; exact hn ⟨by simp [hd, dstV], hw⟩
    · intro n' hn
      exact h3 n' (fun h => hn (by simp [hd, dstV, h]))
  | s n =>
    cases ws with
    | nil => exact ⟨by simp, hk, rfl, rfl, rfl, rfl⟩
    | cons j ws =>
      obtain ⟨h1, h2, h3, h4⟩ :=
        writeS_regs e.g n.val (if wide then w j else ((w j).setWidth 32).setWidth 64) tn l
      simp only [entries, List.map_cons]
      generalize e.g.writeS n.val _ tn l = g' at h1 h2 h3 h4 ⊢
      refine ⟨fun i hi => ?_, ?_, by rw [h4], by rw [h4], by rw [h4], by rw [h4]⟩
      · simp only [List.head?_cons, Option.some.injEq] at hi
        subst hi
        exact ⟨by rw [h1]; simp, by rw [h2]; simp⟩
      · refine ⟨fun _ _ _ _ => (by rw [h4] <;> rfl), ?_, fun _ _ _ _ => (by rw [h4] <;> rfl),
          fun _ _ _ => (by rw [h4] <;> rfl), fun _ _ _ _ => (by rw [h4] <;> rfl), ?_,
          fun _ _ => (by rw [h4] <;> rfl), ?_, fun _ _ => (by rw [h4] <;> rfl),
          fun _ _ => (by rw [h4] <;> rfl), (by rw [h4]), (by rw [h4]), (by rw [h4]), (by rw [h4])⟩
        · intro n' hn
          rw [h1, if_neg]
          rintro rfl; exact hn ⟨by simp [hd, dstS], by simp⟩
        · intro m hn
          rw [h2, if_neg]
          rintro rfl; exact hn ⟨by simp [hd, dstS], by simp⟩
        · intro n' hn
          exact h3 n' (fun h => hn (by simp [hd, dstS, h]))
  | p n =>
    have hm : (entries ws (fun i => (w i).setWidth 32)).map (fun p => (p.1, p.2 != (0 : Word))) =
        entries ws (fun i => (w i).setWidth 32 != (0 : Word)) := by simp [entries]
    dsimp only
    rw [hm]
    obtain ⟨h1, h2, h4⟩ := writeP_regs e.g e.gr.width n.val ws (fun i => (w i).setWidth 32 != (0 : Word)) l
    generalize e.g.writeP e.gr.width n.val _ l = g' at h1 h2 h4 ⊢
    refine ⟨fun i hi => ?_, ?_, by rw [h4], by rw [h4], by rw [h4], by rw [h4]⟩
    · rw [h1 _ _ (hws i hi)]
      by_cases h0 : n.val = 0 <;> simp [h0, hi]
    · refine ⟨fun _ _ _ _ => (by rw [h4] <;> rfl), fun _ _ => (by rw [h4] <;> rfl), ?_, fun _ _ _ => (by rw [h4] <;> rfl),
        fun _ _ _ _ => (by rw [h4] <;> rfl), fun _ _ => (by rw [h4] <;> rfl), fun _ _ => (by rw [h4] <;> rfl),
        fun _ _ => (by rw [h4] <;> rfl), ?_, fun _ _ => (by rw [h4] <;> rfl), (by rw [h4]), (by rw [h4]),
        (by rw [h4]), (by rw [h4])⟩
      · intro n' i hi hn
        rw [h1 _ _ hi, if_neg]
        rintro ⟨rfl, _, hw⟩; exact hn ⟨by simp [hd, dstP], hw⟩
      · intro n' hn
        exact h2 n' (fun h => hn (by simp [hd, dstP, h]))
  | c n =>
    cases ws with
    | nil => exact ⟨by simp, hk, rfl, rfl, rfl, rfl⟩
    | cons j ws =>
      obtain ⟨h1, h2, h4⟩ := writeC_regs e.g n.val ((w j).setWidth 32 != (0 : Word)) l n.isLt
      simp only [entries, List.map_cons]
      generalize e.g.writeC n.val _ l = g' at h1 h2 h4 ⊢
      refine ⟨fun i hi => ?_, ?_, by rw [h4], by rw [h4], by rw [h4], by rw [h4]⟩
      · simp only [List.head?_cons, Option.some.injEq] at hi
        subst hi
        rw [h1 _ n.isLt]; simp
      · refine ⟨fun _ _ _ _ => (by rw [h4] <;> rfl), fun _ _ => (by rw [h4] <;> rfl),
          fun _ _ _ _ => (by rw [h4] <;> rfl), ?_, fun _ _ _ _ => (by rw [h4] <;> rfl),
          fun _ _ => (by rw [h4] <;> rfl), fun _ _ => (by rw [h4] <;> rfl), fun _ _ => (by rw [h4] <;> rfl),
          fun _ _ => (by rw [h4] <;> rfl), ?_, (by rw [h4]), (by rw [h4]), (by rw [h4]), (by rw [h4])⟩
        · intro n' hi hn
          rw [h1 _ hi, if_neg]
          rintro rfl; exact hn ⟨by simp [hd, dstC], by simp⟩
        · intro n' hn
          exact h2 n' (fun h => hn (by simp [hd, dstC, h]))
  | lat n => exact ⟨trivial, hk, rfl, rfl, rfl, rfl⟩
  | none => exact ⟨trivial, hk, rfl, rfl, rfl, rfl⟩
  | reserved n => exact ⟨trivial, hk, rfl, rfl, rfl, rfl⟩

/-- What the one write of a result does (03 R51 to R57): DST holds it, every other register is as it was. -/
theorem writeResult_regs (e : Env) (ws : List Nat) (w : Nat → DWord) (tn : Taint) (l : Label) (wide unif : Bool)
    (hws : ∀ i ∈ ws, i < 64) :
    let g' := e.writeResult (entries ws w) tn l wide unif
    Holds e g' ws w wide ∧ Keeps e ws g' ∧ g'.sat = e.g.sat ∧ g'.srlbl = e.g.srlbl ∧ g'.team = e.g.team ∧
      g'.gid = e.g.gid := by
  obtain ⟨lats, vbad, h⟩ := writeResult_eq e (entries ws w) tn l wide unif
  obtain ⟨h1, h2, h3, h4, h5, h6⟩ := writeDst_regs e ws w tn l wide hws
  dsimp only
  rw [h]
  exact ⟨h1, ⟨h2.v, h2.s, h2.p, h2.c, h2.vtag, h2.stag, h2.vside, h2.sside, h2.plbl, h2.clbl, h2.mode, h2.psize,
    h2.kcode, h2.frame⟩, h3, h4, h5, h6⟩

end Sys2Proof.Machine
end

