-- ==== Sys2Proof/Laws/Alu.lean ====
section
/-! SUPPORT. Laws/Alu.lean: the issue of an instruction, and how a result instruction ends. -/

namespace Sys2Proof.Machine

open Sys2Proof

/-- What an environment is: the current group in its run, with its team, grid and context, each under its identity. -/
theorem env?_some {s : State} {row : OpRow} {f : Fields} {e : Env} (h : s.env? row f = some e) :
    e.row = row ∧ e.f = f ∧ s.group? e.g.team e.g.gid = some e.g ∧ e.g.status = .running ∧
      s.cur = some (e.g.team, e.g.gid) ∧ e.t.id = e.g.team ∧ s.team? e.t.id = some e.t ∧
      s.grid? e.gr.id = some e.gr ∧ e.t.grid = e.gr.id ∧ s.ctx? e.ctx.colour = some e.ctx ∧ e.gr.colour = e.ctx.colour := by
  unfold State.env? at h
  split at h
  · simp at h
  · split at h
    · split at h
      · split at h
        · split at h
          · rename_i hc
            simp only [named, Bool.and_eq_true, beq_iff_eq] at hc
            obtain ⟨h1, ⟨⟨⟨h2, h3⟩, h4⟩, h5⟩, h6⟩ := hc
            simp only [Option.some.injEq] at h
            subst h
            subst h2 h3
            dsimp only
            refine ⟨rfl, rfl, by assumption, h1, by assumption, h4, by rw [h4]; assumption, by rw [h5]; assumption, h5.symm,
              by rw [h6]; assumption, h6.symm⟩
          · simp at h
        · simp at h
      · simp at h
    · simp at h

/-- With no error in what it reads an instruction ends as its own effect says. -/
theorem consume_ok {e : Env} {s : State} (h : e.badSource s = none) (o : Out) : e.consume s o = o := by
  unfold Env.consume; rw [h]; cases o <;> rfl

/-- An instruction to which no fault is owed and that passes the decode checks ends as its own effect says, when nothing it reads
holds an error. -/
theorem issue_some {row : OpRow} {f : Fields} {cap : Bool} {body : Env → State → Out} {s : State} {e : Env}
    (h : s.env? row f = some e) (ho : e.g.owed = none) (hd : e.decodeCheck cap = none) (hb : e.badSource s = none) :
    issue row f cap body s = e.finish s (body e s) := by
  have h1 : e.owedFault s = none := by unfold Env.owedFault; rw [ho]; rfl
  unfold issue; rw [h]; dsimp only; rw [h1]; dsimp only; rw [hd]; dsimp only; rw [consume_ok hb]

theorem parts_lt {e : Env} {i : Nat} (h : i ∈ e.parts) : i < 64 := by
  unfold Env.parts maskList at h
  simp only [List.mem_filter] at h
  exact BitVec.lt_of_getLsbD h.2

/-- The threads that write a result, and what they write. -/
def Env.writers (e : Env) (h : Lane) : List Nat := e.parts.filter (fun i => (h i).1.isSome)

theorem results_eq (e : Env) (h : Lane) : e.results h = entries (e.writers h) (fun i => (h i).1.getD 0) := by
  unfold Env.results Env.writers
  generalize e.parts = ps
  induction ps with
  | nil => rfl
  | cons p ps ih =>
    simp only [List.filterMap_cons, List.filter_cons, ih]
    cases hp : (h p).1 <;> simp [hp]

/-- SameWorld from a write of the executing group and the end of the instruction. -/
theorem sameWorld_done {e : Env} {s : State} (g' : Group) (ht : g'.team = e.g.team) (hg : g'.gid = e.g.gid) :
    SameWorld e s (e.done (s.setGroup g')) := by
  obtain ⟨-, hc⟩ := setGroup_done e s g' ht hg
  have hi := groupIn_setGroup e s g' ht hg
  refine ⟨?_, fun tm gid g hk hs => ?_, ?_⟩
  · have := hc.rest
    have h2 : s.setGroup g' = { s with groups := (s.setGroup g').groups } := rfl
    rw [h2] at this
    have h3 := congrArg (fun u : State => { u with groups := s.groups }) this
    exact h3
  · have h4 := hc.groups tm gid
    rw [State.group?_setGroup, ht, hg, if_neg hk, hs] at h4
    cases hq : (e.done (s.setGroup g')).group? tm gid with
    | none => rw [hq] at h4; simp at h4
    | some g2 => rw [hq] at h4; exact ⟨g2, rfl, SameRegs.of_base (by simpa using h4)⟩
  · by_cases hx : (e.commitGroup (s.setGroup g') (g'.setPcs e.nextPc) none false .ready .none).status = .exited
    · left
      have hb := base_commitGroup e (s.setGroup g') (g'.setPcs e.nextPc) none false .ready .none
      rw [base_setPcs] at hb
      unfold Env.done Env.commit
      rw [hi]
      dsimp only
      rw [if_pos hx]
      generalize e.commitGroup (s.setGroup g') (g'.setPcs e.nextPc) none false .ready .none = c at hx hb
      have h1 : ((s.setGroup g').setGroup c).group? e.g.team e.g.gid = some c := by
        rw [State.group?_setGroup, base_team hb, base_gid hb, ht, hg, if_pos rfl]
      obtain ⟨g2, h2, h3⟩ := exited_tick ((s.setGroup g').setGroup c) e.cost _ _ _ h1 hx
      exact exited_groupExit _ c.team c.gid _ _ _ h2 h3
    · right
      unfold Env.done Env.commit
      rw [hi]
      dsimp only
      rw [if_neg hx]
      exact ⟨rfl, rfl⟩

/-- A result instruction whose operands fit writes its results, ORs its flags and changes nothing else. -/
theorem alu_wrote {e : Env} {s : State} {xs : List Src} {ok bad trap wide : Bool} {h : Lane}
    (hf : Fits e xs) (hok : ok = true) (hb : bad = false) (ht : trap = true → e.flagsOf h &&& e.g.fpten = 0) :
    ∃ s1, e.alu ok xs bad trap wide h s = .next s1 ∧
      Wrote e s (e.done s1) (e.writers h) (fun i => (h i).1.getD 0) wide (e.flagsOf h) := by
  have h1 : (trap && (e.flagsOf h &&& e.g.fpten) != 0) = false := by
    cases trap with
    | false => rfl
    | true => simp [ht rfl]
  unfold Env.alu
  simp only [hok, hf.b, hf.dst, hf.ready, hb, h1, Bool.not_true, Bool.or_false, Bool.false_eq_true, if_false]
  refine ⟨_, rfl, ?_⟩
  obtain ⟨r1, r2, r3, r4, r5, r6⟩ := writeResult_regs e (e.writers h) (fun i => (h i).1.getD 0) (e.taints xs)
    (e.lbls xs) wide e.isUniform (fun i hi => parts_lt ((List.mem_filter.mp hi).1))
  rw [results_eq]
  generalize hg1 : e.writeResult (entries (e.writers h) fun i => (h i).1.getD 0) (e.taints xs) (e.lbls xs) wide
    e.isUniform = g1 at r1 r2 r3 r4 r5 r6
  have ho : (g1.orFlags (e.flagsOf h) (e.lbls xs)) =
      { g1 with sat := g1.sat ||| (e.flagsOf h).setWidth 32,
                srlbl := (g1.orFlags (e.flagsOf h) (e.lbls xs)).srlbl } := by
    unfold Group.orFlags
    split
    · rename_i h0; simp [h0]
    · rfl
  generalize (g1.orFlags (e.flagsOf h) (e.lbls xs)) = g2 at ho
  have t5 : g2.team = e.g.team := by rw [ho]; exact r5
  have t6 : g2.gid = e.g.gid := by rw [ho]; exact r6
  refine ⟨sameWorld_done g2 t5 t6, ?_⟩
  obtain ⟨⟨g3, q1, q2⟩, -⟩ := setGroup_done e s g2 t5 t6
  have sr := SameRegs.of_base q2
  refine ⟨g3, q1, ?_, ?_, ?_⟩
  · have hv : g3.v = g1.v := by rw [sr.v, ho]
    have hs : g3.s = g1.s := by rw [sr.s, ho]
    have hp : g3.p = g1.p := by rw [sr.p, ho]
    have hc : g3.c = g1.c := by rw [sr.c, ho]
    have hvt : g3.vtag = g1.vtag := by rw [sr.vtag, ho]
    have hst : g3.stag = g1.stag := by rw [sr.stag, ho]
    unfold Holds Group.vget Group.sget Group.pget Group.cget at *
    rw [hv, hs, hp, hc, hvt, hst]; exact r1
  · constructor
    · intro n i hi hn; unfold Group.vget; rw [sr.v, ho]; exact r2.v n i hi hn
    · intro n hn; unfold Group.sget; rw [sr.s, ho]; exact r2.s n hn
    · intro n i hi hn; unfold Group.pget; rw [sr.p, ho]; exact r2.p n i hi hn
    · intro n hi hn; unfold Group.cget; rw [sr.c, ho]; exact r2.c n hi hn
    · intro n i hi hn; rw [sr.vtag, ho]; exact r2.vtag n i hi hn
    · intro n hn; rw [sr.stag, ho]; exact r2.stag n hn
    · intro n hn; unfold Group.vsd; rw [sr.vside, ho]; exact r2.vside n hn
    · intro n hn; unfold Group.ssd; rw [sr.sside, ho]; exact r2.sside n hn
    · intro n hn; rw [sr.plbl, ho]; exact r2.plbl n hn
    · intro n hn; rw [sr.clbl, ho]; exact r2.clbl n hn
    · rw [sr.mode, ho]; exact r2.mode
    · rw [sr.psize, ho]; exact r2.psize
    · rw [sr.kcode, ho]; exact r2.kcode
    · rw [sr.frame, ho]; exact r2.frame
  · rw [sr.sat, ho]; show g1.sat ||| _ = _; rw [r3]

end Sys2Proof.Machine
end

