-- ==== Sys2Proof/Laws/Memory.lean ====
section
/-! SUPPORT. Laws/Memory.lean: the canonical form of memory is kept by every operation over it: bytes, side band, cached
copies, windows, images and management passes. -/

namespace Sys2Proof.Machine

open Sys2Proof

/-- The three parts of a state that `memOk` speaks of. -/
theorem memOk_iff (s : State) : s.memOk = true ↔
    Memory.wf s.mem = true ∧ Memory.wf s.hostMem = true ∧ rising s.side = true ∧ lean0 (0 : Byte) s.side = true := by
  simp [State.memOk, and_assoc]

/-- Only device memory, host memory and the side band matter. -/
theorem memOk_congr {s t : State} (hm : t.mem = s.mem) (hh : t.hostMem = s.hostMem) (hs : t.side = s.side)
    (h : s.memOk = true) : t.memOk = true := by
  rw [memOk_iff] at *
  rw [hm, hh, hs]
  exact h

/-- A fold of updates that each keep the form keeps it. -/
theorem memOk_foldl {α : Type} (f : State → α → State) (hf : ∀ s a, s.memOk = true → (f s a).memOk = true)
    (xs : List α) {s : State} (h : s.memOk = true) : (xs.foldl f s).memOk = true := by
  induction xs generalizing s with
  | nil => exact h
  | cons x xs ih => exact ih (hf s x h)

/-! ### Maps under folds and filters -/

theorem wf_foldl {α : Type} (f : List Host.Cell → α → List Host.Cell)
    (hf : ∀ m a, Memory.wf m = true → Memory.wf (f m a) = true) (xs : List α) {m : List Host.Cell}
    (h : Memory.wf m = true) : Memory.wf (xs.foldl f m) = true := by
  induction xs generalizing m with
  | nil => exact h
  | cons x xs ih => exact ih (hf m x h)

theorem wf_mmod {m : List Host.Cell} (k : Nat) (f : Byte → Byte) (h : Memory.wf m = true) :
    Memory.wf (mmod 0 m k f) = true := wf_setByte k _ h

theorem risingFrom_filter {α : Type} {lo : Nat} (p : Nat × α → Bool) {m : List (Nat × α)}
    (h : risingFrom lo m = true) : risingFrom lo (m.filter p) = true := by
  induction m generalizing lo with
  | nil => rfl
  | cons q m ih =>
    obtain ⟨k, a⟩ := q
    simp only [risingFrom, Bool.and_eq_true, decide_eq_true_eq] at h
    rw [List.filter_cons]
    split
    · simp only [risingFrom, Bool.and_eq_true, decide_eq_true_eq]; exact ⟨h.1, ih h.2⟩
    · exact ih (risingFrom_mono (by omega) h.2)

theorem lean0_filter {α : Type} [DecidableEq α] {d : α} (p : Nat × α → Bool) {m : List (Nat × α)}
    (h : lean0 d m = true) : lean0 d (m.filter p) = true := by
  induction m with
  | nil => rfl
  | cons q m ih =>
    obtain ⟨k, a⟩ := q
    simp only [lean0, Bool.and_eq_true, decide_eq_true_eq] at h
    rw [List.filter_cons]
    split
    · simp [lean0, h.1, ih h.2]
    · exact ih h.2

theorem wf_filter (p : Host.Cell → Bool) {m : List Host.Cell} (h : Memory.wf m = true) :
    Memory.wf (m.filter p) = true := by
  simp only [Memory.wf, Bool.and_eq_true] at *
  exact ⟨risingFrom_filter p h.1, lean0_filter p h.2⟩

theorem wf_blendBytes (a : Nat) (bs : List (Byte × Byte)) {m : List Host.Cell} (h : Memory.wf m = true) :
    Memory.wf (blendBytes m a bs) = true := by
  induction bs generalizing m a with
  | nil => exact h
  | cons p bs ih => exact ih _ (wf_setByte _ _ h)

/-- A byte after enabled bits are written: the blend of the old one with the byte written there. -/
theorem byteAt_blendBytes (m : List Host.Cell) (a a' : Nat) (bs : List (Byte × Byte)) :
    byteAt (blendBytes m a bs) a' =
      if a ≤ a' then ((bs[a' - a]?).map (fun p => blend (byteAt m a') p.1 p.2)).getD (byteAt m a') else byteAt m a' := by
  induction bs generalizing m a with
  | nil => simp [blendBytes]
  | cons b bs ih =>
    simp only [blendBytes, ih, byteAt_setByte]
    by_cases h : a' = a
    · subst h; simp <;> omega
    · by_cases h2 : a ≤ a'
      · have h3 : a + 1 ≤ a' := by omega
        have h4 : a' - a = (a' - (a + 1)) + 1 := by omega
        simp [h, h2, h3, h4]
      · have h3 : ¬ a + 1 ≤ a' := by omega
        simp [h, h2, h3]

/-! ### Parts of memory replaced -/

theorem memOk_mem {s : State} {m : List Host.Cell} (h : s.memOk = true) (hm : Memory.wf m = true) :
    State.memOk { s with mem := m } = true := by
  rw [memOk_iff] at *; exact ⟨hm, h.2⟩

theorem memOk_hostMem {s : State} {m : List Host.Cell} (h : s.memOk = true) (hm : Memory.wf m = true) :
    State.memOk { s with hostMem := m } = true := by
  rw [memOk_iff] at *; exact ⟨h.1, hm, h.2.2⟩

theorem memOk_side {s : State} {m : List (Nat × Byte)} (h : s.memOk = true) (hm : Memory.wf m = true) :
    State.memOk { s with side := m } = true := by
  rw [memOk_iff] at *
  simp only [Memory.wf, Bool.and_eq_true] at hm
  exact ⟨h.1, h.2.1, hm⟩

theorem memOk_sideWf {s : State} (h : s.memOk = true) : Memory.wf s.side = true := by
  rw [memOk_iff] at h
  simp only [Memory.wf, Bool.and_eq_true]
  exact h.2.2

theorem memOk_setSide (s : State) (sec : Nat) (b : Byte) (h : s.memOk = true) : (s.setSide sec b).memOk = true :=
  memOk_side h (wf_setByte sec b (memOk_sideWf h))

theorem memOk_sideWrite (s : State) (a : Nat) (l : Label) (tag : Bool) (h : s.memOk = true) :
    (s.sideWrite a l tag).memOk = true := memOk_setSide s _ _ h

theorem memOk_pointWrite (s : State) (a : Nat) (bs : List (Byte × Byte)) (l : Label) (tag : Bool)
    (h : s.memOk = true) : (s.pointWrite a bs l tag).memOk = true := by
  refine memOk_foldl _ (fun t p ht => ?_) _ (memOk_mem h (wf_blendBytes a bs ((memOk_iff s).1 h).1))
  show State.memOk (if _ then _ else _) = true
  split
  · exact ht
  · exact memOk_sideWrite t _ l tag ht

theorem memOk_softTouch (s : State) (a n : Nat) (h : s.memOk = true) : (s.softTouch a n).memOk = true := by
  unfold State.softTouch
  have h1 : (s.boundV.foldl (fun s v =>
      if overlaps a n v 8 then
        let (w, s') := s.drawD
        s'.pointWrite v (fullMask (bytesOfNat 8 w.toNat)) 0 false
      else s) s).memOk = true := by
    refine memOk_foldl _ (fun t v ht => ?_) _ h
    show State.memOk (if _ then _ else _) = true
    split
    · exact memOk_pointWrite t.drawD.2 _ _ _ _ ht
    · exact ht
  simp only
  split
  · exact memOk_congr rfl rfl rfl h1
  · exact h1

/-! ### Cached copies -/

theorem memOk_putCopy (s : State) (k : Copy) (h : s.memOk = true) : (s.putCopy k).memOk = true :=
  memOk_congr rfl rfl rfl h

theorem memOk_dropCopy (s : State) (c : CacheId) (line colour : Nat) (h : s.memOk = true) :
    (s.dropCopy c line colour).memOk = true := memOk_congr rfl rfl rfl h

theorem memOk_applyDirty (s : State) (k : Copy) (h : s.memOk = true) : (s.applyDirty k).memOk = true := by
  unfold State.applyDirty
  split
  · exact memOk_congr (s := { s with hostMem := _ }) rfl rfl rfl
      (memOk_hostMem h (wf_foldl _ (fun m p hm => wf_setByte _ _ hm) _ ((memOk_iff s).1 h).2.1))
  · exact memOk_foldl _ (fun t p ht => memOk_softTouch t _ _ ht) _
      (memOk_foldl _ (fun t p ht => memOk_pointWrite t _ _ _ _ ht) _ h)

theorem memOk_putHost (s : State) (a : Nat) (bs : List Byte) (h : s.memOk = true) : (s.putHost a bs).memOk = true :=
  memOk_congr (s := { s with hostMem := setBytes s.hostMem a bs }) rfl rfl rfl
    (memOk_hostMem h (wf_setBytes _ _ ((memOk_iff s).1 h).2.1))

theorem memOk_noteSent (s : State) (x : Source) (die : Nat) (h : s.memOk = true) : (s.noteSent x die).memOk = true := by
  unfold State.noteSent
  split
  · exact h
  · exact memOk_congr rfl rfl rfl h

theorem memOk_rdcWriteBack (s : State) (die line colour : Nat) (h : s.memOk = true) :
    (s.rdcWriteBack die line colour).memOk = true := by
  unfold State.rdcWriteBack
  split
  · exact h
  · split
    · exact h
    · simp only
      split
      · exact memOk_putCopy _ _ (memOk_applyDirty s _ h)
      · exact memOk_noteSent _ _ _ (memOk_putCopy _ _ (memOk_applyDirty s _ h))

theorem memOk_roomRdc (s : State) (die : Nat) (h : s.memOk = true) : (s.roomRdc die).memOk = true := by
  unfold State.roomRdc
  split
  · exact memOk_dropCopy _ _ _ _ (memOk_rdcWriteBack s _ _ _ h)
  · exact h

theorem memOk_rdcLine (s : State) (die line colour : Nat) (hpa : Option Nat) (min : Nat) (h : s.memOk = true) :
    (s.rdcLine die line colour hpa min).1.memOk = true := by
  unfold State.rdcLine
  split
  · split
    · exact h
    · exact memOk_putCopy s _ h
  · exact memOk_putCopy _ _ (memOk_roomRdc s die h)

theorem memOk_writeBack (s : State) (c : CacheId) (line colour : Nat) (h : s.memOk = true) :
    (s.writeBack c line colour).memOk = true := by
  unfold State.writeBack
  split
  · exact memOk_rdcWriteBack s _ _ _ h
  · split
    · exact h
    · split
      · exact h
      · split
        · exact memOk_putCopy _ _ (memOk_putCopy _ _ (memOk_rdcLine s _ _ _ _ _ h))
        · exact memOk_putCopy _ _ (memOk_applyDirty s _ h)

theorem memOk_roomL1 (s : State) (core : Nat) (h : s.memOk = true) : (s.roomL1 core).memOk = true := by
  unfold State.roomL1
  split
  · exact memOk_dropCopy _ _ _ _ (memOk_writeBack s _ _ _ h)
  · exact h

theorem memOk_l1Refill (s : State) (core line colour : Nat) (hpa : Option Nat) (rdcMin : Nat) (old : Option Copy)
    (h : s.memOk = true) : (s.l1Refill core line colour hpa rdcMin old).1.memOk = true := by
  have below : State.memOk (if s.remote core line hpa then s.rdcLine (s.dieOfCore core) line colour hpa rdcMin
      else (s, s.pointLine (.l1 core) line colour s.now hpa)).1 = true := by
    split
    · exact memOk_rdcLine s _ _ _ _ _ h
    · exact h
  unfold State.l1Refill
  simp only
  split
  · exact memOk_putCopy _ _ below
  · exact memOk_putCopy _ _ (memOk_roomL1 _ _ below)

theorem memOk_l1Line (s : State) (core line colour : Nat) (hpa : Option Nat) (l1Min rdcMin : Nat)
    (h : s.memOk = true) : (s.l1Line core line colour hpa l1Min rdcMin).1.memOk = true := by
  unfold State.l1Line
  split
  · split
    · exact h
    · exact memOk_l1Refill s _ _ _ _ _ _ h
  · exact memOk_l1Refill s _ _ _ _ _ _ h

theorem memOk_l1Store (s : State) (core colour a : Nat) (hpa : Option Nat) (bs : List (Byte × Byte)) (l : Label)
    (tag : Bool) (h : s.memOk = true) : (s.l1Store core colour a hpa bs l tag).memOk = true := by
  unfold State.l1Store
  simp only
  split
  · exact memOk_putCopy _ _ h
  · exact memOk_putCopy _ _ (memOk_l1Line s _ _ _ _ _ _ h)

theorem memOk_writeBackAll (s : State) (core line colour : Nat) (h : s.memOk = true) :
    (s.writeBackAll core line colour).memOk = true := memOk_writeBack _ _ _ _ (memOk_writeBack _ _ _ _ h)

theorem memOk_purge (s : State) (a n : Nat) (host : Bool) (cols : Option (List Nat)) (h : s.memOk = true) :
    (s.purge a n host cols).memOk = true :=
  memOk_congr rfl rfl rfl (memOk_foldl _ (fun t _ ht => memOk_writeBack t _ _ _ ht) _
    (memOk_foldl _ (fun t _ ht => memOk_writeBack t _ _ _ ht) _ h))

/-! ### Windows -/

theorem memOk_modTeam (s : State) (id : Nat) (f : Team → Team) (h : s.memOk = true) : (s.modTeam id f).memOk = true := by
  unfold State.modTeam
  split
  · exact memOk_congr rfl rfl rfl h
  · exact h

theorem memOk_modCore (s : State) (team core : Nat) (f : CoreRes → CoreRes) (h : s.memOk = true) :
    (s.modCore team core f).memOk = true := memOk_modTeam s _ _ h

theorem memOk_modGroup (s : State) (team gid : Nat) (f : Group → Group) (h : s.memOk = true) :
    (s.modGroup team gid f).memOk = true := by
  unfold State.modGroup
  split
  · exact memOk_congr rfl rfl rfl h
  · exact h

theorem memOk_winWriteAt (s : State) (tgt : Option WinTgt) (bs : List (Byte × Byte)) (l : Label) (tag : Option Bool)
    (key : Option Nat) (h : s.memOk = true) : (s.winWriteAt tgt bs l tag key).memOk = true := by
  unfold State.winWriteAt
  split
  · exact h
  · split
    · exact memOk_modGroup _ _ _ _ h
    · exact h
  all_goals exact memOk_modCore _ _ _ _ h

theorem memOk_winWrite (s : State) (a : Nat) (bs : List (Byte × Byte)) (l : Label) (tag : Option Bool)
    (key : Option Nat) (h : s.memOk = true) : (s.winWrite a bs l tag key).memOk = true :=
  memOk_winWriteAt s _ _ _ _ _ h

/-! ### Control blocks, images, management passes -/

theorem memOk_putAt (s : State) (fn : Nat) (p : Option Nat) (a : Nat) (bs : List Byte) (h : s.memOk = true) :
    (s.putAt fn p a bs).memOk = true := by
  unfold State.putAt
  split
  · split
    · exact memOk_putHost s _ _ h
    · exact h
  · exact memOk_softTouch _ _ _ (memOk_pointWrite _ _ _ _ _ h)

theorem memOk_noteWin (s : State) (x : Source) (own a : Nat) (h : s.memOk = true) : (s.noteWin x own a).memOk = true := by
  unfold State.noteWin
  extract_lets die
  split
  · exact h
  · exact memOk_noteSent s x die h

theorem memOk_engWrite (s : State) (c : Cmd) (a : Nat) (bs : List Byte) (l : Label) (key : Option Nat)
    (h : s.memOk = true) : (s.engWrite c a bs l key).memOk = true := by
  unfold State.engWrite
  split
  · split
    · exact memOk_noteWin _ _ _ _ (memOk_winWriteAt s _ _ _ _ _ h)
    · exact h
  · split
    · split
      · exact memOk_putHost s _ _ h
      · exact h
    · simp only
      split
      · exact memOk_softTouch _ _ _ (memOk_pointWrite _ _ _ _ _ h)
      · exact memOk_noteSent _ _ _ (memOk_softTouch _ _ _ (memOk_pointWrite _ _ _ _ _ h))

theorem memOk_putItem (s : State) (base : Nat) (x : Item) (h : s.memOk = true) : (s.putItem base x).memOk = true := by
  unfold State.putItem
  extract_lets a wiped side0 side
  have h0 : Memory.wf side0 = true := by
    refine wf_foldl _ (fun _ q hm => ?_) _ (memOk_sideWf h)
    split
    · exact wf_mmod _ _ hm
    · exact hm
  have hw : Memory.wf side = true := wf_foldl _ (fun m sec hm => wf_mmod sec _ hm) _ h0
  have hm := memOk_mem h (wf_setBytes a x.bytes ((memOk_iff s).1 h).1)
  split
  · exact memOk_side hm (wf_mmod _ _ hw)
  · exact memOk_side hm hw

theorem memOk_markCo (s : State) (a n : Nat) (h : s.memOk = true) : (s.markCo a n).memOk = true :=
  memOk_side h (wf_foldl _ (fun m sec hm => wf_mmod sec _ hm) _ (memOk_sideWf h))

theorem memOk_clearRange (s : State) (a n : Nat) (h : s.memOk = true) : (s.clearRange a n).memOk = true :=
  memOk_side (s := { s with mem := _ }) (memOk_mem h (wf_filter _ ((memOk_iff s).1 h).1)) (wf_filter _ (memOk_sideWf h))

theorem rising_fillCells (f : Nat → Byte) (a n : Nat) {lo : Nat} (hl : lo ≤ a) (rest : List Host.Cell)
    (hr : risingFrom (a + n) rest = true) : risingFrom lo (fillCells f a n ++ rest) = true := by
  induction n generalizing a lo with
  | zero => exact risingFrom_mono hl hr
  | succ n ih =>
    have hr' : risingFrom (a + 1 + n) rest = true := by rw [show a + 1 + n = a + (n + 1) by omega]; exact hr
    unfold fillCells
    split
    · exact ih (a + 1) (by omega) hr'
    · simp only [List.cons_append, risingFrom, Bool.and_eq_true, decide_eq_true_eq]
      exact ⟨hl, ih (a + 1) (Nat.le_refl _) hr'⟩

theorem lean0_append {m m' : List Host.Cell} (h : lean0 (0 : Byte) m = true) (h' : lean0 (0 : Byte) m' = true) :
    lean0 (0 : Byte) (m ++ m') = true := by
  induction m with
  | nil => exact h'
  | cons p m ih =>
    obtain ⟨k, b⟩ := p
    simp only [List.cons_append, lean0, Bool.and_eq_true] at *
    exact ⟨h.1, ih h.2⟩

theorem lean0_fillCells (f : Nat → Byte) (a n : Nat) : lean0 (0 : Byte) (fillCells f a n) = true := by
  induction n generalizing a with
  | zero => rfl
  | succ n ih =>
    unfold fillCells
    split
    · exact ih _
    · rename_i hz
      simp only [lean0, Bool.and_eq_true, decide_eq_true_eq]
      exact ⟨hz, ih _⟩

/-- The cells below a bound, followed by cells from that bound on. -/
theorem rising_below (a : Nat) (rest : List Host.Cell) (hr : risingFrom a rest = true) {m : List Host.Cell} {lo : Nat}
    (hl : lo ≤ a) (h : risingFrom lo m = true) :
    risingFrom lo (m.filter (fun p => decide (p.1 < a)) ++ rest) = true := by
  induction m generalizing lo with
  | nil => exact risingFrom_mono hl hr
  | cons p m ih =>
    obtain ⟨k, b⟩ := p
    simp only [risingFrom, Bool.and_eq_true, decide_eq_true_eq] at h
    rw [List.filter_cons]
    split
    · rename_i hk
      simp only [decide_eq_true_eq] at hk
      simp only [List.cons_append, risingFrom, Bool.and_eq_true, decide_eq_true_eq]
      exact ⟨h.1, ih (by omega) h.2⟩
    · exact ih hl (risingFrom_mono (by omega) h.2)

/-- The cells from a bound on rise from that bound. -/
theorem rising_above (a : Nat) {m : List Host.Cell} {lo : Nat} (h : risingFrom lo m = true) :
    risingFrom a (m.filter (fun p => decide (a ≤ p.1))) = true := by
  induction m generalizing lo with
  | nil => rfl
  | cons p m ih =>
    obtain ⟨k, b⟩ := p
    simp only [risingFrom, Bool.and_eq_true, decide_eq_true_eq] at h
    rw [List.filter_cons]
    split
    · rename_i hk
      simp only [decide_eq_true_eq] at hk
      simp only [risingFrom, Bool.and_eq_true, decide_eq_true_eq]
      exact ⟨hk, risingFrom_filter _ h.2⟩
    · exact ih h.2

theorem wf_fillRange (a n : Nat) (f : Nat → Byte) {m : List Host.Cell} (h : Memory.wf m = true) :
    Memory.wf (fillRange m a n f) = true := by
  simp only [Memory.wf, Bool.and_eq_true, rising] at *
  unfold fillRange
  rw [List.append_assoc]
  exact ⟨rising_below a _ (rising_fillCells f a n (Nat.le_refl a) _ (rising_above (a + n) h.1)) (Nat.zero_le a) h.1,
    lean0_append (lean0_filter _ h.2) (lean0_append (lean0_fillCells f a n) (lean0_filter _ h.2))⟩

theorem memOk_rekey (s : State) (a n : Nat) (hit : Nat → Bool) (h : s.memOk = true) : (s.rekey a n hit).memOk = true :=
  memOk_congr (s := { s with mem := (s.rekey a n hit).mem }) rfl rfl rfl
    (memOk_mem h (wf_fillRange _ _ _ ((memOk_iff s).1 h).1))

theorem memOk_scramble (s : State) (colour a n : Nat) (h : s.memOk = true) : (s.scramble colour a n).memOk = true :=
  memOk_rekey s a n _ h

theorem memOk_tagClear (s : State) (a n : Nat) (h : s.memOk = true) : (s.tagClear a n).memOk = true := by
  unfold State.tagClear
  extract_lets hit s1
  have h1 : s1.memOk = true := by
    show State.memOk (if _ then _ else _) = true
    split
    · exact memOk_rekey s _ _ _ h
    · exact h
  refine memOk_congr (s := { s1 with side := _ }) rfl rfl rfl (memOk_side h1 ?_)
  refine wf_foldl _ (fun m p hm => ?_) _ (memOk_sideWf h)
  split
  · exact wf_mmod _ _ hm
  · exact hm

theorem memOk_tick (s : State) (n : Nat) (h : s.memOk = true) : (s.tick n).memOk = true := memOk_congr rfl rfl rfl h

theorem memOk_latchRecords (s : State) (h : s.memOk = true) : s.latchRecords.memOk = true := by
  unfold State.latchRecords
  extract_lets a bs
  split
  · exact memOk_softTouch _ _ _ (memOk_pointWrite _ _ _ _ _ h)
  · exact h

/-- A latch of the snapshot keeps the form. -/
theorem memOk_execSnapshotLatch (s d : State) (hd : d.memOk = true) (h : s.memOk = true) :
    (orElse d (execSnapshotLatch s)).memOk = true := by
  unfold execSnapshotLatch
  by_cases hc : s.snapb.sstat ≠ 2 ∨ s.clk < s.snapb.tclk
  · rw [if_pos hc]; exact h
  · rw [if_neg hc]
    exact memOk_congr (s := s.latchRecords) rfl rfl rfl (memOk_latchRecords s h)

/-- Cycles that pass keep the form. -/
theorem memOk_elapse (s : State) (n : Nat) (h : s.memOk = true) : (s.elapse n).memOk = true := by
  unfold State.elapse
  split
  · exact memOk_tick _ _ (memOk_execSnapshotLatch _ _ h (memOk_tick _ _ h))
  · exact memOk_tick _ _ h

/-- An input keeps the form. -/
theorem memOk_take (s : State) (x : Input) (h : s.memOk = true) : (s.take x).memOk = true := by
  cases x with
  | event i => exact h
  | elapse n => exact memOk_elapse s n h
  | select team gid => exact memOk_congr rfl rfl rfl h
  | hostWrite a b => exact memOk_putHost s a [b] h
  | priAlloc fn n => exact memOk_congr rfl rfl rfl h
  | peerCert m hash => exact memOk_congr rfl rfl rfl h
  | linkPause port lanes => exact memOk_congr rfl rfl rfl h

/-- The state that `withFetchWord` builds keeps the form. -/
theorem memOk_withFetchWord (s : State) (nbits w : Nat) (h : s.memOk = true) : (s.withFetchWord nbits w).memOk = true := by
  refine memOk_congr (s := { s with mem := (s.withFetchWord nbits w).mem }) rfl rfl rfl (memOk_mem h ?_)
  exact wf_setBytes _ _ ((memOk_iff s).1 h).1

end Sys2Proof.Machine
end

