-- ==== Sys2Proof/Laws/PerInstr.lean ====
section
/-! SUPPORT. Laws/PerInstr.lean: the family Rows: what the opcode map says of every instruction, one lemma per
constructor. -/

namespace Sys2Proof.Laws.Rows

open Sys2Proof

/-- The row of an instruction is the one that the opcode map holds under its value (06 R112), and that row, given the
instruction's fields, stands for it, when its modifier bits choose it among the mnemonics of one opcode. -/
def Statement (i : Instr) : Prop :=
  ∀ r f, i.parts = some (r, f) → opRow r.opc = some r ∧ (i.selected = true → r.instr f = i)

theorem nop (f : Fields) : Statement (.nop f) := by
  rintro r g ⟨⟩
  exact ⟨rfl, fun _ => rfl⟩

theorem br (f : Fields) : Statement (.br f) := by
  rintro r g ⟨⟩
  exact ⟨rfl, fun _ => rfl⟩

theorem bra (f : Fields) : Statement (.bra f) := by
  rintro r g ⟨⟩
  exact ⟨rfl, fun _ => rfl⟩

theorem call (f : Fields) : Statement (.call f) := by
  rintro r g ⟨⟩
  exact ⟨rfl, fun _ => rfl⟩

theorem ret (f : Fields) : Statement (.ret f) := by
  rintro r g ⟨⟩
  exact ⟨rfl, fun h => by simp_all [Instr.selected, Row.ret]⟩

theorem retK (f : Fields) : Statement (.retK f) := by
  rintro r g ⟨⟩
  exact ⟨rfl, fun h => by simp_all [Instr.selected, Row.ret]⟩

theorem callk (f : Fields) : Statement (.callk f) := by
  rintro r g ⟨⟩
  exact ⟨rfl, fun _ => rfl⟩

theorem fork (f : Fields) : Statement (.fork f) := by
  rintro r g ⟨⟩
  exact ⟨rfl, fun _ => rfl⟩

theorem meetSet (f : Fields) : Statement (.meetSet f) := by
  rintro r g ⟨⟩
  exact ⟨rfl, fun _ => rfl⟩

theorem meetGet (f : Fields) : Statement (.meetGet f) := by
  rintro r g ⟨⟩
  exact ⟨rfl, fun _ => rfl⟩

theorem exitt (f : Fields) : Statement (.exitt f) := by
  rintro r g ⟨⟩
  exact ⟨rfl, fun _ => rfl⟩

theorem endGroup (f : Fields) : Statement (.endGroup f) := by
  rintro r g ⟨⟩
  exact ⟨rfl, fun _ => rfl⟩

theorem bar (f : Fields) : Statement (.bar f) := by
  rintro r g ⟨⟩
  exact ⟨rfl, fun _ => rfl⟩

theorem barArrive (f : Fields) : Statement (.barArrive f) := by
  rintro r g ⟨⟩
  exact ⟨rfl, fun _ => rfl⟩

theorem barWait (f : Fields) : Statement (.barWait f) := by
  rintro r g ⟨⟩
  exact ⟨rfl, fun _ => rfl⟩

theorem gset (f : Fields) : Statement (.gset f) := by
  rintro r g ⟨⟩
  exact ⟨rfl, fun _ => rfl⟩

theorem gclr (f : Fields) : Statement (.gclr f) := by
  rintro r g ⟨⟩
  exact ⟨rfl, fun _ => rfl⟩

theorem cset (f : Fields) : Statement (.cset f) := by
  rintro r g ⟨⟩
  exact ⟨rfl, fun _ => rfl⟩

theorem cop (f : Fields) : Statement (.cop f) := by
  rintro r g ⟨⟩
  exact ⟨rfl, fun _ => rfl⟩

theorem elect (f : Fields) : Statement (.elect f) := by
  rintro r g ⟨⟩
  exact ⟨rfl, fun _ => rfl⟩

theorem yield (f : Fields) : Statement (.yield f) := by
  rintro r g ⟨⟩
  exact ⟨rfl, fun _ => rfl⟩

theorem sleep (f : Fields) : Statement (.sleep f) := by
  rintro r g ⟨⟩
  exact ⟨rfl, fun _ => rfl⟩

theorem qwait (f : Fields) : Statement (.qwait f) := by
  rintro r g ⟨⟩
  exact ⟨rfl, fun _ => rfl⟩

theorem mwait (f : Fields) : Statement (.mwait f) := by
  rintro r g ⟨⟩
  exact ⟨rfl, fun _ => rfl⟩

theorem ewait (f : Fields) : Statement (.ewait f) := by
  rintro r g ⟨⟩
  exact ⟨rfl, fun _ => rfl⟩

theorem rdclk (f : Fields) : Statement (.rdclk f) := by
  rintro r g ⟨⟩
  exact ⟨rfl, fun _ => rfl⟩

theorem snap (f : Fields) : Statement (.snap f) := by
  rintro r g ⟨⟩
  exact ⟨rfl, fun _ => rfl⟩

theorem srd (f : Fields) : Statement (.srd f) := by
  rintro r g ⟨⟩
  exact ⟨rfl, fun _ => rfl⟩

theorem swr (f : Fields) : Statement (.swr f) := by
  rintro r g ⟨⟩
  exact ⟨rfl, fun _ => rfl⟩

theorem brk (f : Fields) : Statement (.brk f) := by
  rintro r g ⟨⟩
  exact ⟨rfl, fun _ => rfl⟩

theorem trap (f : Fields) : Statement (.trap f) := by
  rintro r g ⟨⟩
  exact ⟨rfl, fun _ => rfl⟩

theorem rfe (f : Fields) : Statement (.rfe f) := by
  rintro r g ⟨⟩
  exact ⟨rfl, fun _ => rfl⟩

theorem add (f : Fields) : Statement (.add f) := by
  rintro r g ⟨⟩
  exact ⟨rfl, fun _ => rfl⟩

theorem subb (f : Fields) : Statement (.subb f) := by
  rintro r g ⟨⟩
  exact ⟨rfl, fun _ => rfl⟩

theorem addc (f : Fields) : Statement (.addc f) := by
  rintro r g ⟨⟩
  exact ⟨rfl, fun _ => rfl⟩

theorem subc (f : Fields) : Statement (.subc f) := by
  rintro r g ⟨⟩
  exact ⟨rfl, fun _ => rfl⟩

theorem mul (f : Fields) : Statement (.mul f) := by
  rintro r g ⟨⟩
  exact ⟨rfl, fun _ => rfl⟩

theorem mulh (f : Fields) : Statement (.mulh f) := by
  rintro r g ⟨⟩
  exact ⟨rfl, fun _ => rfl⟩

theorem mad (f : Fields) : Statement (.mad f) := by
  rintro r g ⟨⟩
  exact ⟨rfl, fun _ => rfl⟩

theorem madh (f : Fields) : Statement (.madh f) := by
  rintro r g ⟨⟩
  exact ⟨rfl, fun _ => rfl⟩

theorem idiv (f : Fields) : Statement (.idiv f) := by
  rintro r g ⟨⟩
  exact ⟨rfl, fun _ => rfl⟩

theorem irem (f : Fields) : Statement (.irem f) := by
  rintro r g ⟨⟩
  exact ⟨rfl, fun _ => rfl⟩

theorem minn (f : Fields) : Statement (.minn f) := by
  rintro r g ⟨⟩
  exact ⟨rfl, fun _ => rfl⟩

theorem maxx (f : Fields) : Statement (.maxx f) := by
  rintro r g ⟨⟩
  exact ⟨rfl, fun _ => rfl⟩

theorem abss (f : Fields) : Statement (.abss f) := by
  rintro r g ⟨⟩
  exact ⟨rfl, fun _ => rfl⟩

theorem negg (f : Fields) : Statement (.negg f) := by
  rintro r g ⟨⟩
  exact ⟨rfl, fun _ => rfl⟩

theorem andd (f : Fields) : Statement (.andd f) := by
  rintro r g ⟨⟩
  exact ⟨rfl, fun _ => rfl⟩

theorem orr (f : Fields) : Statement (.orr f) := by
  rintro r g ⟨⟩
  exact ⟨rfl, fun _ => rfl⟩

theorem xor (f : Fields) : Statement (.xor f) := by
  rintro r g ⟨⟩
  exact ⟨rfl, fun _ => rfl⟩

theorem andn (f : Fields) : Statement (.andn f) := by
  rintro r g ⟨⟩
  exact ⟨rfl, fun _ => rfl⟩

theorem orn (f : Fields) : Statement (.orn f) := by
  rintro r g ⟨⟩
  exact ⟨rfl, fun _ => rfl⟩

theorem nott (f : Fields) : Statement (.nott f) := by
  rintro r g ⟨⟩
  exact ⟨rfl, fun _ => rfl⟩

theorem shl (f : Fields) : Statement (.shl f) := by
  rintro r g ⟨⟩
  exact ⟨rfl, fun _ => rfl⟩

theorem shr (f : Fields) : Statement (.shr f) := by
  rintro r g ⟨⟩
  exact ⟨rfl, fun _ => rfl⟩

theorem sar (f : Fields) : Statement (.sar f) := by
  rintro r g ⟨⟩
  exact ⟨rfl, fun _ => rfl⟩

theorem rol (f : Fields) : Statement (.rol f) := by
  rintro r g ⟨⟩
  exact ⟨rfl, fun _ => rfl⟩

theorem ror (f : Fields) : Statement (.ror f) := by
  rintro r g ⟨⟩
  exact ⟨rfl, fun _ => rfl⟩

theorem popc (f : Fields) : Statement (.popc f) := by
  rintro r g ⟨⟩
  exact ⟨rfl, fun _ => rfl⟩

theorem clz (f : Fields) : Statement (.clz f) := by
  rintro r g ⟨⟩
  exact ⟨rfl, fun _ => rfl⟩

theorem ctz (f : Fields) : Statement (.ctz f) := by
  rintro r g ⟨⟩
  exact ⟨rfl, fun _ => rfl⟩

theorem brev (f : Fields) : Statement (.brev f) := by
  rintro r g ⟨⟩
  exact ⟨rfl, fun _ => rfl⟩

theorem bfe (f : Fields) : Statement (.bfe f) := by
  rintro r g ⟨⟩
  exact ⟨rfl, fun _ => rfl⟩

theorem bfi (f : Fields) : Statement (.bfi f) := by
  rintro r g ⟨⟩
  exact ⟨rfl, fun _ => rfl⟩

theorem bperm (f : Fields) : Statement (.bperm f) := by
  rintro r g ⟨⟩
  exact ⟨rfl, fun _ => rfl⟩

theorem sel (f : Fields) : Statement (.sel f) := by
  rintro r g ⟨⟩
  exact ⟨rfl, fun _ => rfl⟩

theorem cmp (f : Fields) : Statement (.cmp f) := by
  rintro r g ⟨⟩
  exact ⟨rfl, fun _ => rfl⟩

theorem mov (f : Fields) : Statement (.mov f) := by
  rintro r g ⟨⟩
  exact ⟨rfl, fun _ => rfl⟩

theorem li (f : Fields) : Statement (.li f) := by
  rintro r g ⟨⟩
  exact ⟨rfl, fun _ => rfl⟩

theorem sext (f : Fields) : Statement (.sext f) := by
  rintro r g ⟨⟩
  exact ⟨rfl, fun _ => rfl⟩

theorem zext (f : Fields) : Statement (.zext f) := by
  rintro r g ⟨⟩
  exact ⟨rfl, fun _ => rfl⟩

theorem mul24 (f : Fields) : Statement (.mul24 f) := by
  rintro r g ⟨⟩
  exact ⟨rfl, fun _ => rfl⟩

theorem mad24 (f : Fields) : Statement (.mad24 f) := by
  rintro r g ⟨⟩
  exact ⟨rfl, fun _ => rfl⟩

theorem med3 (f : Fields) : Statement (.med3 f) := by
  rintro r g ⟨⟩
  exact ⟨rfl, fun _ => rfl⟩

theorem fadd (f : Fields) : Statement (.fadd f) := by
  rintro r g ⟨⟩
  exact ⟨rfl, fun _ => rfl⟩

theorem fsub (f : Fields) : Statement (.fsub f) := by
  rintro r g ⟨⟩
  exact ⟨rfl, fun _ => rfl⟩

theorem fmul (f : Fields) : Statement (.fmul f) := by
  rintro r g ⟨⟩
  exact ⟨rfl, fun _ => rfl⟩

theorem ffma (f : Fields) : Statement (.ffma f) := by
  rintro r g ⟨⟩
  exact ⟨rfl, fun _ => rfl⟩

theorem fmin (f : Fields) : Statement (.fmin f) := by
  rintro r g ⟨⟩
  exact ⟨rfl, fun _ => rfl⟩

theorem fmax (f : Fields) : Statement (.fmax f) := by
  rintro r g ⟨⟩
  exact ⟨rfl, fun _ => rfl⟩

theorem fminn (f : Fields) : Statement (.fminn f) := by
  rintro r g ⟨⟩
  exact ⟨rfl, fun _ => rfl⟩

theorem fmaxn (f : Fields) : Statement (.fmaxn f) := by
  rintro r g ⟨⟩
  exact ⟨rfl, fun _ => rfl⟩

theorem fabs (f : Fields) : Statement (.fabs f) := by
  rintro r g ⟨⟩
  exact ⟨rfl, fun _ => rfl⟩

theorem fneg (f : Fields) : Statement (.fneg f) := by
  rintro r g ⟨⟩
  exact ⟨rfl, fun _ => rfl⟩

theorem fcpsgn (f : Fields) : Statement (.fcpsgn f) := by
  rintro r g ⟨⟩
  exact ⟨rfl, fun _ => rfl⟩

theorem fcmp (f : Fields) : Statement (.fcmp f) := by
  rintro r g ⟨⟩
  exact ⟨rfl, fun _ => rfl⟩

theorem fclass (f : Fields) : Statement (.fclass f) := by
  rintro r g ⟨⟩
  exact ⟨rfl, fun _ => rfl⟩

theorem frint (f : Fields) : Statement (.frint f) := by
  rintro r g ⟨⟩
  exact ⟨rfl, fun _ => rfl⟩

theorem fldexp (f : Fields) : Statement (.fldexp f) := by
  rintro r g ⟨⟩
  exact ⟨rfl, fun _ => rfl⟩

theorem fdiv (f : Fields) : Statement (.fdiv f) := by
  rintro r g ⟨⟩
  exact ⟨rfl, fun _ => rfl⟩

theorem cvt (f : Fields) : Statement (.cvt f) := by
  rintro r g ⟨⟩
  exact ⟨rfl, fun _ => rfl⟩

theorem cvtf (f : Fields) : Statement (.cvtf f) := by
  rintro r g ⟨⟩
  exact ⟨rfl, fun _ => rfl⟩

theorem pack (f : Fields) : Statement (.pack f) := by
  rintro r g ⟨⟩
  exact ⟨rfl, fun _ => rfl⟩

theorem unpack (f : Fields) : Statement (.unpack f) := by
  rintro r g ⟨⟩
  exact ⟨rfl, fun _ => rfl⟩

theorem qscale (f : Fields) : Statement (.qscale f) := by
  rintro r g ⟨⟩
  exact ⟨rfl, fun _ => rfl⟩

theorem bpsplit (f : Fields) : Statement (.bpsplit f) := by
  rintro r g ⟨⟩
  exact ⟨rfl, fun _ => rfl⟩

theorem bpjoin (f : Fields) : Statement (.bpjoin f) := by
  rintro r g ⟨⟩
  exact ⟨rfl, fun _ => rfl⟩

theorem satrd (f : Fields) : Statement (.satrd f) := by
  rintro r g ⟨⟩
  exact ⟨rfl, fun _ => rfl⟩

theorem satclr (f : Fields) : Statement (.satclr f) := by
  rintro r g ⟨⟩
  exact ⟨rfl, fun _ => rfl⟩

theorem rcp (f : Fields) : Statement (.rcp f) := by
  rintro r g ⟨⟩
  exact ⟨rfl, fun _ => rfl⟩

theorem rsqrt (f : Fields) : Statement (.rsqrt f) := by
  rintro r g ⟨⟩
  exact ⟨rfl, fun _ => rfl⟩

theorem sqrt (f : Fields) : Statement (.sqrt f) := by
  rintro r g ⟨⟩
  exact ⟨rfl, fun _ => rfl⟩

theorem exp2 (f : Fields) : Statement (.exp2 f) := by
  rintro r g ⟨⟩
  exact ⟨rfl, fun _ => rfl⟩

theorem log2 (f : Fields) : Statement (.log2 f) := by
  rintro r g ⟨⟩
  exact ⟨rfl, fun _ => rfl⟩

theorem sinpi (f : Fields) : Statement (.sinpi f) := by
  rintro r g ⟨⟩
  exact ⟨rfl, fun _ => rfl⟩

theorem cospi (f : Fields) : Statement (.cospi f) := by
  rintro r g ⟨⟩
  exact ⟨rfl, fun _ => rfl⟩

theorem tanh (f : Fields) : Statement (.tanh f) := by
  rintro r g ⟨⟩
  exact ⟨rfl, fun _ => rfl⟩

theorem rng (f : Fields) : Statement (.rng f) := by
  rintro r g ⟨⟩
  exact ⟨rfl, fun _ => rfl⟩

theorem csamp (f : Fields) : Statement (.csamp f) := by
  rintro r g ⟨⟩
  exact ⟨rfl, fun _ => rfl⟩

theorem vote (f : Fields) : Statement (.vote f) := by
  rintro r g ⟨⟩
  exact ⟨rfl, fun _ => rfl⟩

theorem shfl (f : Fields) : Statement (.shfl f) := by
  rintro r g ⟨⟩
  exact ⟨rfl, fun _ => rfl⟩

theorem red (f : Fields) : Statement (.red f) := by
  rintro r g ⟨⟩
  exact ⟨rfl, fun _ => rfl⟩

theorem scan (f : Fields) : Statement (.scan f) := by
  rintro r g ⟨⟩
  exact ⟨rfl, fun _ => rfl⟩

theorem part (f : Fields) : Statement (.part f) := by
  rintro r g ⟨⟩
  exact ⟨rfl, fun _ => rfl⟩

theorem matchv (f : Fields) : Statement (.matchv f) := by
  rintro r g ⟨⟩
  exact ⟨rfl, fun _ => rfl⟩

theorem ld (f : Fields) : Statement (.ld f) := by
  rintro r g ⟨⟩
  exact ⟨rfl, fun _ => rfl⟩

theorem st (f : Fields) : Statement (.st f) := by
  rintro r g ⟨⟩
  exact ⟨rfl, fun _ => rfl⟩

theorem ldt (f : Fields) : Statement (.ldt f) := by
  rintro r g ⟨⟩
  exact ⟨rfl, fun _ => rfl⟩

theorem stt (f : Fields) : Statement (.stt f) := by
  rintro r g ⟨⟩
  exact ⟨rfl, fun _ => rfl⟩

theorem ldk (f : Fields) : Statement (.ldk f) := by
  rintro r g ⟨⟩
  exact ⟨rfl, fun _ => rfl⟩

theorem stk (f : Fields) : Statement (.stk f) := by
  rintro r g ⟨⟩
  exact ⟨rfl, fun _ => rfl⟩

theorem atom (f : Fields) : Statement (.atom f) := by
  rintro r g ⟨⟩
  exact ⟨rfl, fun _ => rfl⟩

theorem atomf (f : Fields) : Statement (.atomf f) := by
  rintro r g ⟨⟩
  exact ⟨rfl, fun h => by simp_all [Instr.selected, Row.atomf]⟩

theorem atomfAddOrd (f : Fields) : Statement (.atomfAddOrd f) := by
  rintro r g ⟨⟩
  exact ⟨rfl, fun h => by simp_all [Instr.selected, Row.atomf]⟩

theorem cas (f : Fields) : Statement (.cas f) := by
  rintro r g ⟨⟩
  exact ⟨rfl, fun _ => rfl⟩

theorem bind (f : Fields) : Statement (.bind f) := by
  rintro r g ⟨⟩
  exact ⟨rfl, fun _ => rfl⟩

theorem unbind (f : Fields) : Statement (.unbind f) := by
  rintro r g ⟨⟩
  exact ⟨rfl, fun _ => rfl⟩

theorem acq (f : Fields) : Statement (.acq f) := by
  rintro r g ⟨⟩
  exact ⟨rfl, fun h => by simp_all [Instr.selected, Row.acq]⟩

theorem acqGe (f : Fields) : Statement (.acqGe f) := by
  rintro r g ⟨⟩
  exact ⟨rfl, fun h => by simp_all [Instr.selected, Row.acq]⟩

theorem rel (f : Fields) : Statement (.rel f) := by
  rintro r g ⟨⟩
  exact ⟨rfl, fun _ => rfl⟩

theorem fence (f : Fields) : Statement (.fence f) := by
  rintro r g ⟨⟩
  exact ⟨rfl, fun _ => rfl⟩

theorem ordflush (f : Fields) : Statement (.ordflush f) := by
  rintro r g ⟨⟩
  exact ⟨rfl, fun _ => rfl⟩

theorem l2pin (f : Fields) : Statement (.l2pin f) := by
  rintro r g ⟨⟩
  exact ⟨rfl, fun _ => rfl⟩

theorem l2unpin (f : Fields) : Statement (.l2unpin f) := by
  rintro r g ⟨⟩
  exact ⟨rfl, fun _ => rfl⟩

theorem prefetch (f : Fields) : Statement (.prefetch f) := by
  rintro r g ⟨⟩
  exact ⟨rfl, fun _ => rfl⟩

theorem tclr (f : Fields) : Statement (.tclr f) := by
  rintro r g ⟨⟩
  exact ⟨rfl, fun _ => rfl⟩

theorem kmov (f : Fields) : Statement (.kmov f) := by
  rintro r g ⟨⟩
  exact ⟨rfl, fun _ => rfl⟩

theorem kbound (f : Fields) : Statement (.kbound f) := by
  rintro r g ⟨⟩
  exact ⟨rfl, fun _ => rfl⟩

theorem kaddr (f : Fields) : Statement (.kaddr f) := by
  rintro r g ⟨⟩
  exact ⟨rfl, fun _ => rfl⟩

theorem kadd (f : Fields) : Statement (.kadd f) := by
  rintro r g ⟨⟩
  exact ⟨rfl, fun _ => rfl⟩

theorem kperm (f : Fields) : Statement (.kperm f) := by
  rintro r g ⟨⟩
  exact ⟨rfl, fun _ => rfl⟩

theorem kseal (f : Fields) : Statement (.kseal f) := by
  rintro r g ⟨⟩
  exact ⟨rfl, fun _ => rfl⟩

theorem kunseal (f : Fields) : Statement (.kunseal f) := by
  rintro r g ⟨⟩
  exact ⟨rfl, fun h => by simp_all [Instr.selected, Row.kunseal]⟩

theorem kunsealGrant (f : Fields) : Statement (.kunsealGrant f) := by
  rintro r g ⟨⟩
  exact ⟨rfl, fun h => by simp_all [Instr.selected, Row.kunseal]⟩

theorem kdeleg (f : Fields) : Statement (.kdeleg f) := by
  rintro r g ⟨⟩
  exact ⟨rfl, fun _ => rfl⟩

theorem kget (f : Fields) : Statement (.kget f) := by
  rintro r g ⟨⟩
  exact ⟨rfl, fun _ => rfl⟩

theorem ktest (f : Fields) : Statement (.ktest f) := by
  rintro r g ⟨⟩
  exact ⟨rfl, fun _ => rfl⟩

theorem krevoke (f : Fields) : Statement (.krevoke f) := by
  rintro r g ⟨⟩
  exact ⟨rfl, fun _ => rfl⟩

theorem lblup (f : Fields) : Statement (.lblup f) := by
  rintro r g ⟨⟩
  exact ⟨rfl, fun _ => rfl⟩

theorem lbldn (f : Fields) : Statement (.lbldn f) := by
  rintro r g ⟨⟩
  exact ⟨rfl, fun _ => rfl⟩

theorem lblget (f : Fields) : Statement (.lblget f) := by
  rintro r g ⟨⟩
  exact ⟨rfl, fun _ => rfl⟩

theorem mma (f : Fields) : Statement (.mma f) := by
  rintro r g ⟨⟩
  exact ⟨rfl, fun _ => rfl⟩

theorem mzero (f : Fields) : Statement (.mzero f) := by
  rintro r g ⟨⟩
  exact ⟨rfl, fun _ => rfl⟩

theorem mrd (f : Fields) : Statement (.mrd f) := by
  rintro r g ⟨⟩
  exact ⟨rfl, fun _ => rfl⟩

theorem mwr (f : Fields) : Statement (.mwr f) := by
  rintro r g ⟨⟩
  exact ⟨rfl, fun _ => rfl⟩

theorem mscale (f : Fields) : Statement (.mscale f) := by
  rintro r g ⟨⟩
  exact ⟨rfl, fun _ => rfl⟩

theorem mdrain (f : Fields) : Statement (.mdrain f) := by
  rintro r g ⟨⟩
  exact ⟨rfl, fun _ => rfl⟩

theorem mrecv (f : Fields) : Statement (.mrecv f) := by
  rintro r g ⟨⟩
  exact ⟨rfl, fun _ => rfl⟩

theorem vinit (f : Fields) : Statement (.vinit f) := by
  rintro r g ⟨⟩
  exact ⟨rfl, fun _ => rfl⟩

theorem vfold (f : Fields) : Statement (.vfold f) := by
  rintro r g ⟨⟩
  exact ⟨rfl, fun h => by simp_all [Instr.selected, Row.vfold]⟩

theorem vfoldBwd (f : Fields) : Statement (.vfoldBwd f) := by
  rintro r g ⟨⟩
  exact ⟨rfl, fun h => by simp_all [Instr.selected, Row.vfold]⟩

theorem vmerge (f : Fields) : Statement (.vmerge f) := by
  rintro r g ⟨⟩
  exact ⟨rfl, fun _ => rfl⟩

theorem vread (f : Fields) : Statement (.vread f) := by
  rintro r g ⟨⟩
  exact ⟨rfl, fun _ => rfl⟩

theorem tx (f : Fields) : Statement (.tx f) := by
  rintro r g ⟨⟩
  exact ⟨rfl, fun _ => rfl⟩

theorem gx (f : Fields) : Statement (.gx f) := by
  rintro r g ⟨⟩
  exact ⟨rfl, fun _ => rfl⟩

theorem shp (f : Fields) : Statement (.shp f) := by
  rintro r g ⟨⟩
  exact ⟨rfl, fun _ => rfl⟩

theorem shpfree (f : Fields) : Statement (.shpfree f) := by
  rintro r g ⟨⟩
  exact ⟨rfl, fun _ => rfl⟩

theorem eqry (f : Fields) : Statement (.eqry f) := by
  rintro r g ⟨⟩
  exact ⟨rfl, fun _ => rfl⟩

theorem swslot (f : Fields) : Statement (.swslot f) := by
  rintro r g ⟨⟩
  exact ⟨rfl, fun _ => rfl⟩

theorem dredgeStart (f : Fields) : Statement (.dredgeStart f) := by
  rintro r g ⟨⟩
  exact ⟨rfl, fun h => by simp_all [Instr.selected, Row.dredge]⟩

theorem dredgeWait (f : Fields) : Statement (.dredgeWait f) := by
  rintro r g ⟨⟩
  exact ⟨rfl, fun h => by simp_all [Instr.selected, Row.dredge]⟩

theorem dredgeQuery (f : Fields) : Statement (.dredgeQuery f) := by
  rintro r g ⟨⟩
  exact ⟨rfl, fun h => by simp_all [Instr.selected, Row.dredge]⟩

theorem demotionExpiry (team gid thread : Nat) : Statement (.demotionExpiry team gid thread) := fun _ _ h => nomatch h

theorem sleepWake (team gid : Nat) : Statement (.sleepWake team gid) := fun _ _ h => nomatch h

theorem aging (team gid : Nat) : Statement (.aging team gid) := fun _ _ h => nomatch h

theorem runGrant (core quad : Nat) : Statement (.runGrant core quad) := fun _ _ h => nomatch h

theorem groupWake (team gid : Nat) : Statement (.groupWake team gid) := fun _ _ h => nomatch h

theorem loadReturn (team gid iseq thread : Nat) : Statement (.loadReturn team gid iseq thread) := fun _ _ h => nomatch h

theorem atomicRequest (rid : Nat) : Statement (.atomicRequest rid) := fun _ _ h => nomatch h

theorem windowAccess (wid : Nat) : Statement (.windowAccess wid) := fun _ _ h => nomatch h

theorem dirtyWriteback (c : CacheId) (line : Nat) (colour : Nat) : Statement (.dirtyWriteback c line colour) := fun _ _ h => nomatch h

theorem copyDrop (c : CacheId) (line : Nat) (colour : Nat) : Statement (.copyDrop c line colour) := fun _ _ h => nomatch h

theorem flushMarkerArrival (op die path : Nat) : Statement (.flushMarkerArrival op die path) := fun _ _ h => nomatch h

theorem arrayOperationExecute (oid : Nat) : Statement (.arrayOperationExecute oid) := fun _ _ h => nomatch h

theorem drainTake (team acc sender : Nat) : Statement (.drainTake team acc sender) := fun _ _ h => nomatch h

theorem engineCommandBegin (cid : Nat) : Statement (.engineCommandBegin cid) := fun _ _ h => nomatch h

theorem engineChunk (cid : Nat) : Statement (.engineChunk cid) := fun _ _ h => nomatch h

theorem engineCommandComplete (cid : Nat) : Statement (.engineCommandComplete cid) := fun _ _ h => nomatch h

theorem collectiveRingForm (cid : Nat) (peers : List PeerPart) : Statement (.collectiveRingForm cid peers) := fun _ _ h => nomatch h

theorem switchResponse (cid : Nat) (granted : Bool) : Statement (.switchResponse cid granted) := fun _ _ h => nomatch h

theorem groupChunkReceive (msg : GroupChunk) : Statement (.groupChunkReceive msg) := fun _ _ h => nomatch h

theorem linkLost (member : Nat) : Statement (.linkLost member) := fun _ _ h => nomatch h

theorem lqEnable (fn q : Nat) : Statement (.lqEnable fn q) := fun _ _ h => nomatch h

theorem lqNotify (fn q : Nat) (wridx : BitVec 32) : Statement (.lqNotify fn q wridx) := fun _ _ h => nomatch h

theorem launch (fn q : Nat) : Statement (.launch fn q) := fun _ _ h => nomatch h

theorem nopPacket (fn q : Nat) : Statement (.nopPacket fn q) := fun _ _ h => nomatch h

theorem lqTerminate (fn q : Nat) (kcmd : BitVec 32) : Statement (.lqTerminate fn q kcmd) := fun _ _ h => nomatch h

theorem teamAdmit (fn : Nat) : Statement (.teamAdmit fn) := fun _ _ h => nomatch h

theorem preemption (fn : Nat) : Statement (.preemption fn) := fun _ _ h => nomatch h

theorem teamSave (team : Nat) : Statement (.teamSave team) := fun _ _ h => nomatch h

theorem teamRestore (team : Nat) : Statement (.teamRestore team) := fun _ _ h => nomatch h

theorem teamRetire (team : Nat) : Statement (.teamRetire team) := fun _ _ h => nomatch h

theorem gridComplete (grid : Nat) : Statement (.gridComplete grid) := fun _ _ h => nomatch h

theorem contextCreate (req : CtxReq) : Statement (.contextCreate req) := fun _ _ h => nomatch h

theorem contextDestroy (colour : Nat) : Statement (.contextDestroy colour) := fun _ _ h => nomatch h

theorem grant : Statement (.grant) := fun _ _ h => nomatch h

theorem withdraw : Statement (.withdraw) := fun _ _ h => nomatch h

theorem withdrawComplete : Statement (.withdrawComplete) := fun _ _ h => nomatch h

theorem mint (fn : Nat) : Statement (.mint fn) := fun _ _ h => nomatch h

theorem sealImport (fn : Nat) : Statement (.sealImport fn) := fun _ _ h => nomatch h

theorem sealImportComplete (fn : Nat) : Statement (.sealImportComplete fn) := fun _ _ h => nomatch h

theorem sealRelease (fn : Nat) : Statement (.sealRelease fn) := fun _ _ h => nomatch h

theorem faultRingEnable (fn : Nat) : Statement (.faultRingEnable fn) := fun _ _ h => nomatch h

theorem faultRecordWrite (fn : Nat) : Statement (.faultRecordWrite fn) := fun _ _ h => nomatch h

theorem faultResume (fn : Nat) : Statement (.faultResume fn) := fun _ _ h => nomatch h

theorem faultTerminate (fn : Nat) : Statement (.faultTerminate fn) := fun _ _ h => nomatch h

theorem snapshotArm : Statement (.snapshotArm) := fun _ _ h => nomatch h

theorem snapshotTrigger (src : SnapSource) : Statement (.snapshotTrigger src) := fun _ _ h => nomatch h

theorem snapshotLatch : Statement (.snapshotLatch) := fun _ _ h => nomatch h

theorem fabricTrigger (member : Nat) : Statement (.fabricTrigger member) := fun _ _ h => nomatch h

theorem dredgeSnap : Statement (.dredgeSnap) := fun _ _ h => nomatch h

theorem dredgeSweep : Statement (.dredgeSweep) := fun _ _ h => nomatch h

theorem dredgeClear : Statement (.dredgeClear) := fun _ _ h => nomatch h

theorem atsCompletion (c : AtsReply) : Statement (.atsCompletion c) := fun _ _ h => nomatch h

theorem pageResponse (r : PageReply) : Statement (.pageResponse r) := fun _ _ h => nomatch h

theorem atsInvalidate (fn pasid iova len : Nat) : Statement (.atsInvalidate fn pasid iova len) := fun _ _ h => nomatch h

theorem scrubReceipt : Statement (.scrubReceipt) := fun _ _ h => nomatch h

theorem nonInstructionEncoding (e : BadWord) : Statement (.nonInstructionEncoding e) := fun _ _ h => nomatch h

theorem fetchBound (addr : Nat) : Statement (.fetchBound addr) := fun _ _ h => nomatch h

theorem hostBarRequest (fn : Nat) (inStream tbit : Bool) (off size : Nat) (write : Option (BitVec 64)) : Statement (.hostBarRequest fn inStream tbit off size write) := fun _ _ h => nomatch h

theorem tdiConfigChange (fn : Nat) : Statement (.tdiConfigChange fn) := fun _ _ h => nomatch h

theorem getVersion (m : SpdmMsg) : Statement (.getVersion m) := fun _ _ h => nomatch h

theorem getCapabilities (m : SpdmMsg) : Statement (.getCapabilities m) := fun _ _ h => nomatch h

theorem negotiateAlgorithms (m : SpdmMsg) : Statement (.negotiateAlgorithms m) := fun _ _ h => nomatch h

theorem getDigests (m : SpdmMsg) : Statement (.getDigests m) := fun _ _ h => nomatch h

theorem getCertificate (m : SpdmMsg) : Statement (.getCertificate m) := fun _ _ h => nomatch h

theorem challenge (m : SpdmMsg) : Statement (.challenge m) := fun _ _ h => nomatch h

theorem getMeasurements (m : SpdmMsg) : Statement (.getMeasurements m) := fun _ _ h => nomatch h

theorem keyExchange (m : SpdmMsg) (fn : Option Nat) (heartbeat : Nat) : Statement (.keyExchange m fn heartbeat) := fun _ _ h => nomatch h

theorem finishh (m : SpdmMsg) : Statement (.finishh m) := fun _ _ h => nomatch h

theorem heartbeat (m : SpdmMsg) : Statement (.heartbeat m) := fun _ _ h => nomatch h

theorem keyUpdate (m : SpdmMsg) : Statement (.keyUpdate m) := fun _ _ h => nomatch h

theorem endSession (m : SpdmMsg) : Statement (.endSession m) := fun _ _ h => nomatch h

theorem setWeightKey (m : SpdmMsg) (colour : Nat) (key : List Byte) : Statement (.setWeightKey m colour key) := fun _ _ h => nomatch h

theorem setGroup (m : SpdmMsg) (g : GroupReq) : Statement (.setGroup m g) := fun _ _ h => nomatch h

theorem setGrace (m : SpdmMsg) (ms : Nat) : Statement (.setGrace m ms) := fun _ _ h => nomatch h

theorem destroyKey (m : SpdmMsg) (colour : Nat) : Statement (.destroyKey m colour) := fun _ _ h => nomatch h

theorem getReceipt (r : ReceiptReq) : Statement (.getReceipt r) := fun _ _ h => nomatch h

theorem sessionTimeout (sess : Nat) : Statement (.sessionTimeout sess) := fun _ _ h => nomatch h

theorem graceExpiry (sess : Nat) : Statement (.graceExpiry sess) := fun _ _ h => nomatch h

theorem debugSetBreakpoint (colour addr : Nat) : Statement (.debugSetBreakpoint colour addr) := fun _ _ h => nomatch h

theorem debugStep (team gid thread : Nat) : Statement (.debugStep team gid thread) := fun _ _ h => nomatch h

theorem debugHalt (team gid : Nat) : Statement (.debugHalt team gid) := fun _ _ h => nomatch h

theorem debugResume (team gid : Nat) : Statement (.debugResume team gid) := fun _ _ h => nomatch h

theorem debugRead (team : Nat) (cap : DbgCap) (addr size : Nat) : Statement (.debugRead team cap addr size) := fun _ _ h => nomatch h

theorem setFunctionWeight (fn w : Nat) : Statement (.setFunctionWeight fn w) := fun _ _ h => nomatch h

theorem setSharedColours (colour : Nat) (shared : List Nat) : Statement (.setSharedColours colour shared) := fun _ _ h => nomatch h

theorem setPowerLimit (watts : Nat) : Statement (.setPowerLimit watts) := fun _ _ h => nomatch h

theorem setErrorWindow (w : Nat) : Statement (.setErrorWindow w) := fun _ _ h => nomatch h

theorem correctableError (site : ErrSite) : Statement (.correctableError site) := fun _ _ h => nomatch h

theorem uncorrectableError (site : ErrSite) : Statement (.uncorrectableError site) := fun _ _ h => nomatch h

theorem patrolScrub (sector : Nat) : Statement (.patrolScrub sector) := fun _ _ h => nomatch h

theorem thermalShutdown : Statement (.thermalShutdown) := fun _ _ h => nomatch h

theorem coldReset (boot : BootReq) : Statement (.coldReset boot) := fun _ _ h => nomatch h

theorem functionLevelReset (fn : Nat) : Statement (.functionLevelReset fn) := fun _ _ h => nomatch h

theorem registerWrite (fn off size : Nat) (val : BitVec 64) : Statement (.registerWrite fn off size val) := fun _ _ h => nomatch h

theorem tdispLock (fn : Nat) (sess : Nat) : Statement (.tdispLock fn sess) := fun _ _ h => nomatch h

theorem tdiRun (fn : Nat) : Statement (.tdiRun fn) := fun _ _ h => nomatch h

theorem ideKm (m : SpdmMsg) : Statement (.ideKm m) := fun _ _ h => nomatch h

theorem firmwareStage (image : List Byte) : Statement (.firmwareStage image) := fun _ _ h => nomatch h

theorem debuggerAttach (colour : Nat) (attached teamstop : Bool) : Statement (.debuggerAttach colour attached teamstop) := fun _ _ h => nomatch h

theorem switchFailure (cid : Nat) : Statement (.switchFailure cid) := fun _ _ h => nomatch h

end Sys2Proof.Laws.Rows
end

