-- ==== Sys2Proof/Tests/Slice0.lean ====
section
/-! SUPPORT. Tests/Slice0.lean: the model's own tests. Words come from the encodings of 04 and 06, results from the spec's
worked examples and tables, or from hand calculation. The theorems `test_wit_…` show, for the statements of
Obligations.lean, concrete states and operands that meet the hypotheses of each of their clauses. -/

set_option Elab.async false

namespace Sys2Proof.Tests

open Sys2Proof Sys2Proof.Machine

/-- The fields of a Torub-D instruction of two units, everything at its default. -/
def F0 : Fields := ⟨.d64 false false, false, 0, .none, .zero, .zero, .zero, .zero, Guard.always, Guard.always, 0, 0, 0, 0⟩
/-- The same in Torub-N, 64 bits. -/
def N0 : Fields := { F0 with form := .n64 }

/-! ### Well-formed instructions: an ill-formed one for each check -/

theorem test_wf_good : Instr.wf (.add { F0 with form := .n64, dst := .v 8, a := .v 9, b := .v 10, mod := 1 }) = true := by decide
theorem test_wf_selected : Instr.wf (.retK { N0 with a := .s 2 }) = false := by decide
theorem test_wf_form : Instr.wf (.ffma { F0 with form := .n64 }) = false := by decide
theorem test_wf_fits : Instr.wf (.add { N0 with g2 := ⟨3, false⟩ }) = false ∧
    Instr.wf (.add { F0 with form := .n96, imm := 0x20000 }) = false ∧
    Instr.wf (.add { F0 with form := .d32, qual := 1 }) = false ∧
    Instr.wf (.add { F0 with d := .v 0 }) = false := by decide
theorem test_wf_operand : Instr.wf (.add { N0 with a := .reserved 0 }) = false ∧
    Instr.wf (.add { F0 with a := .lat 0 }) = false ∧ Instr.wf (.add { N0 with dst := .reserved 0 }) = false ∧
    Instr.wf (.nop { N0 with a := .v 0 }) = false ∧ Instr.wf (.nop { N0 with dst := .v 0 }) = false := by decide
theorem test_wf_imm : Instr.wf (.trap { F0 with form := .n128, re := true, imm := 0x20000 }) = false ∧
    Instr.wf (.trap { F0 with form := .n128, re := true, qual2 := 1 }) = false ∧
    Instr.wf (.trap { F0 with form := .n128, re := true, imm := 0x1FFFF }) = true := by decide
theorem test_wf_lat : Instr.wf (.add { N0 with lat := 4 }) = false ∧ Instr.wf (.add { N0 with lat := 5, dst := .v 0 }) = false := by
  decide
theorem test_wf_runEnd : Instr.wf (.exitt N0) = false ∧ Instr.wf (.exitt { N0 with re := true }) = true := by decide

/-! ### Decoding: words of the encodings, one or more for each family -/

/-- The units decode to the instruction. -/
def decodesTo (dense : Bool) (us : List Word) (i : Instr) : Bool :=
  match decode dense us with
  | .ok j => j == i
  | .error _ => false

theorem test_decode_control :
    decodesTo false [0x83DB101A, 0x00000EDB, 0x00076DDB, 0x00090009]
      (.fork { F0 with form := .n128, re := true, a := .p 1, imm := 0x00090009 }) = true ∧
    decodesTo false [0xB7DB1075, 0x00000EDB, 0x000281DB] (.trap { F0 with form := .n96, re := true, imm := 5 }) = true ∧
    decodesTo true [0x1DBED83C] (.rfe { F0 with form := .d32 }) = true ∧
    decodesTo true [0x1DBED826] (.yield { F0 with form := .d32 }) = true := by decide +kernel
theorem test_decode_system :
    decodesTo false [0xB6052068, 0x02026EDB] (.srd { N0 with lat := 1, dst := .v 5, g1 := ⟨3, true⟩, qual := 2 }) = true ∧
    decodesTo false [0xB78C0060, 0x00000EDB] (.rdclk { N0 with dst := .s 12 }) = true := by decide +kernel
theorem test_decode_integer : decodesTo true [0x00503961, 0x00000006]
    (.mul24 { F0 with dst := .v 7, a := .v 5, b := .v 6 }) = true := by decide +kernel
theorem test_decode_float :
    decodesTo false [0x2A140408, 0x002400B0] (.fmul { N0 with dst := .v 20, a := .v 21, b := .v 22, mod := 9 }) = true ∧
    decodesTo true [0x00101FC3, 0x00000002] (.fdiv { F0 with dst := .v 3, a := .v 1, b := .v 2 }) = true := by decide +kernel
theorem test_decode_cross :
    decodesTo false [0x160A0808, 0x00000ED8] (.red { N0 with dst := .v 10, a := .v 11 }) = true ∧
    decodesTo true [0x00B05404] (.red { F0 with form := .d32, dst := .v 10, a := .v 11 }) = true := by decide +kernel
theorem test_decode_memory :
    decodesTo false [0x10140900, 0x4008004B] (.ld { N0 with dst := .v 20, a := .s 8, b := .v 9, mod := 2, qual := 0x40 }) = true ∧
    decodesTo false [0x01DB0905, 0x4008003B, 0x0000000A]
      (.st { N0 with form := .n96, a := .s 0, b := .v 7, c := .v 10, mod := 2, qual := 0x40 }) = true ∧
    decodesTo false [0xB6090970, 0x00000EDB] (.tclr { N0 with dst := .v 9 }) = true := by decide +kernel
theorem test_decode_sync :
    decodesTo false [0x09DB1948, 0x02380EDB] (.acqGe { N0 with re := true, a := .s 4, mod := 0xE, qual := 2 }) = true := by
  decide +kernel
theorem test_decode_capability :
    decodesTo false [0x08080B04, 0x00000C50] (.kbound { N0 with dst := .v 8, a := .v 4, b := .s 10 }) = true ∧
    decodesTo false [0x2A140B45, 0x00000C40, 0x00000301]
      (.lbldn { N0 with form := .n96, dst := .v 20, a := .v 21, b := .s 8, c := .imm 257 }) = true ∧
    decodesTo false [0x0DDB1E14, 0x00040EDB] (.dredgeWait { N0 with re := true, a := .s 6, mod := 1 }) = true := by
  decide +kernel
theorem test_decode_matrix :
    decodesTo false [0x81DB0C00, 0x12CC1A00] (.mma { N0 with a := .v 64, b := .imm 320, mod := 0x33, qual := 0x12 }) = true ∧
    decodesTo true [0x040EDE01, 0x66004B40] (.mma { F0 with a := .v 64, b := .imm 320, mod := 0x33, qual := 0x12 }) = true ∧
    decodesTo false [0x11DB0C44, 0x05000EDB] (.vfold { N0 with a := .s 8, qual := 5 }) = true := by decide +kernel
theorem test_decode_engine :
    decodesTo false [0x29DB0E00, 0x15001803] (.tx { N0 with a := .s 20, b := .imm 256, qual := 0x15 }) = true ∧
    decodesTo false [0x03DB0038, 0x03000EDE] (.gset { N0 with a := .imm 257, qual := 3 }) = true := by decide +kernel

/-! ### A machine with one group of sixteen threads in a run -/

/-- Team 2 and its group 0, as `withFetchWord` leaves them. -/
def base : State := State.reset.withFetchWord 32 0x1DBED800

/-- The machine with its group, team, grid and context changed. -/
def mk (hg : Group → Group) (ht : Team → Team := id) (hr : Grid → Grid := id) (hc : Ctx → Ctx := id) (hs : State → State := id) :
    State :=
  let s := hs base
  { s with groups := s.groups.map (fun p => (p.1, hg p.2)), teams := s.teams.map (fun p => (p.1, ht p.2)),
           grids := s.grids.map (fun p => (p.1, hr p.2)), ctxs := s.ctxs.map (fun p => (p.1, hc p.2)) }

/-- The group after an instruction. -/
def after (i : Instr) (s : State) : Option Group :=
  match exec i s with
  | .next t => t.group? 2 0
  | _ => none

/-- What an instruction leaves in a v register of a thread. -/
def afterV (i : Instr) (s : State) (n k : Nat) : Option Word := (after i s).map (fun g => g.vget n k)
/-- What it leaves in an s register. -/
def afterS (i : Instr) (s : State) (n : Nat) : Option DWord := (after i s).map (fun g => g.sget n)
/-- The status and stop code it leaves: the fault that a group without a handler stops with. -/
def afterCode (i : Instr) (s : State) : Option (GStatus × Byte) := (after i s).map (fun g => (g.status, g.stopCode))

/-- v1, v2, v3 of thread 0. -/
def v123 (a b c : Word) : State := mk (fun g => ((g.vset 1 0 a).vset 2 0 b).vset 3 0 c)
/-- Fields v0 from v1, v2, v3. -/
def R3 : Fields := { F0 with dst := .v 0, a := .v 1, b := .v 2, c := .v 3 }
/-- Fields v0 from v1, v2. -/
def R2 : Fields := { R3 with c := .zero }
/-- Fields v0 from v1. -/
def R1 : Fields := { R2 with b := .zero }

/-- 01 R23: the address 0x00_0012_3456_7ABC lies at offset 0x2_468A_CABC of stack 7, or with NUMA at 0x2_3456_7ABC of stack 1. -/
theorem test_stack : State.reset.homeDie 0x1234567ABC = 7 ∧ State.reset.stackOffset 0x1234567ABC = 0x2468ACABC ∧
    (let s : State := { State.reset with part := { State.reset.part with numa := true } };
      s.homeDie 0x1234567ABC = 1 ∧ s.stackOffset 0x1234567ABC = 0x234567ABC) := by decide +kernel

theorem test_base_running : (base.group? 2 0).map (·.status) = some .running := by decide +kernel

/-! ### Results -/

theorem test_add_wraps : afterV (.add R2) (v123 0xFFFFFFFF 2 0) 0 0 = some 1 := by decide +kernel
theorem test_idiv_toward_zero : afterV (.idiv { R2 with mod := 1 }) (v123 (-7) 2 0) 0 0 = some (-3) ∧
    afterV (.irem { R2 with mod := 1 }) (v123 (-7) 2 0) 0 0 = some (-1) ∧
    afterV (.idiv { R2 with mod := 1 }) (v123 7 (-2) 0) 0 0 = some (-3) ∧
    afterV (.irem { R2 with mod := 1 }) (v123 7 (-2) 0) 0 0 = some 1 := by decide +kernel
theorem test_bfe : afterV (.bfe R3) (v123 0x800000B4 2 4) 0 0 = some 0xD ∧
    afterV (.bfe { R3 with mod := 1 }) (v123 0x800000B4 2 4) 0 0 = some 0xFFFFFFFD := by decide +kernel
theorem test_bfi : afterV (.bfi { R3 with c := .imm 268, d := .imm 264 }) (v123 5 0xFFFF0000 0) 0 0 = some 0xFFF05000 ∧
    afterV (.bfi { R3 with c := .imm 284, d := .imm 264 }) (v123 5 0xFFFF0000 0) 0 0 = some 0x5FFF0000 := by decide +kernel
theorem test_shl_past_width : afterV (.shl R2) (v123 1 32 0) 0 0 = some 0 ∧ afterV (.shl R2) (v123 1 31 0) 0 0 = some 0x80000000 := by
  decide +kernel
theorem test_sar_past_width : afterV (.sar R2) (v123 0x80000000 40 0) 0 0 = some 0xFFFFFFFF := by decide +kernel
theorem test_cmp_signed : afterV (.cmp { R2 with mod := 1, qual := 2 }) (v123 (-1) 0 0) 0 0 = some 1 ∧
    afterV (.cmp { R2 with qual := 2 }) (v123 (-1) 0 0) 0 0 = some 0 := by decide +kernel
theorem test_min_signed : afterV (.minn { R2 with mod := 1 }) (v123 (-1) 0 0) 0 0 = some (-1) ∧
    afterV (.minn R2) (v123 (-1) 0 0) 0 0 = some 0 := by decide +kernel
theorem test_add_saturates : afterV (.add { R2 with mod := 5 }) (v123 0x7FFFFFFF 1 0) 0 0 = some 0x7FFFFFFF ∧
    (after (.add { R2 with mod := 5 }) (v123 0x7FFFFFFF 1 0)).map (·.sat) = some 0x20 := by decide +kernel
theorem test_fadd : afterV (.fadd R2) (v123 0x3F800000 0x40000000 0) 0 0 = some 0x40400000 := by decide +kernel
theorem test_ffma_single_rounding : afterV (.ffma R3) (v123 0x3F800001 0x3F800001 0xBF800002) 0 0 = some 0x28800000 := by
  decide +kernel
theorem test_sqrt : afterV (.sqrt R1) (v123 0x40800000 0 0) 0 0 = some 0x40000000 := by decide +kernel
theorem test_fdiv_unimpl : (after (.fdiv R2) base).map (fun g => (g.frame.form, g.frame.opc)) = some (0x88, 0x3E1) := by
  decide +kernel
theorem test_s_destination_extends : afterS (.add { R2 with dst := .s 4, a := .imm 255, b := .zero }) base 4 = some 0xFFFFFFFF := by
  decide +kernel
theorem test_p0_write_discarded : (after (.mov { R1 with dst := .p 0, a := .zero }) base).map (fun g => g.pget 16 0) = some 0xFFFF := by
  decide +kernel
theorem test_false_guard_writes_nothing :
    afterV (.add { R2 with g1 := ⟨0, true⟩ }) (v123 1 2 0) 0 0 = some 0 := by decide +kernel
theorem test_elect_lowest : (after (.elect { F0 with dst := .s 3 }) (mk (fun g => g.pset 2 0x8)) ).map (fun g => g.sget 3) = some 0 ∧
    (after (.elect { F0 with dst := .s 3, g1 := ⟨2, false⟩ }) (mk (fun g => g.pset 2 0x8))).map (fun g => g.sget 3) = some 3 := by
  decide +kernel
theorem test_red_add : afterV (.red { R1 with mod := 1 }) (mk (fun g => (List.range 16).foldl (fun g i => g.vset 1 i 1) g)) 0 5 =
    some 16 := by decide +kernel
theorem test_trap_aux : (after (.trap { F0 with form := .d64 false true, imm := 5 }) base).map (fun g => (g.frame.code, g.frame.aux)) =
    some (cSOFTWARE, 5) := by decide +kernel
theorem test_uniform_s_needs_uniform : afterCode (.add { R2 with dst := .s 4 }) base = some (.stopped, cILOPER) := by decide +kernel
theorem test_wide_v_refused : afterCode (.add { R2 with mod := 2 }) base = some (.stopped, cILOPER) := by decide +kernel
theorem test_swr_priv : afterCode (.swr { F0 with a := .zero, qual := 3 }) base = some (.stopped, cPRIV) := by decide +kernel
theorem test_pending_source : afterCode (.add R2) (mk (fun g => g.setVsd 1 { Side.clear with pend := true })) =
    some (.stopped, cEARLY) := by decide +kernel
theorem test_sleep_zero_goes_on : afterCode (.sleep { F0 with a := .zero }) base = some (.ready, 0) := by decide +kernel



/-! ### Witnesses: instructions -/

/-- What an instruction sees at a state. -/
def envAt (i : Instr) (s : State) : Option Env :=
  match i.parts with
  | some (row, f) => s.env? row f
  | none => none

/-- The instructions issue at the state, each under conditions on what it sees. -/
def AllIssue (l : List Instr) (s : State) (cap : Bool) (P : Env → Prop) : Prop := ∀ i ∈ l, ∃ e, Issues i s e cap ∧ P e

theorem allIssue {l : List Instr} {s : State} {cap : Bool} {P : Env → Prop}
    (h : ∀ i ∈ l, ∃ h : (envAt i s).isSome = true, ((envAt i s).get h).g.owed = none ∧
      ((envAt i s).get h).decodeCheck cap = none ∧ ((envAt i s).get h).badSource s = none ∧ P ((envAt i s).get h)) :
    AllIssue l s cap P := by
  intro i hi
  obtain ⟨h1, h0, h2, h4, h3⟩ := h i hi
  refine ⟨_, ?_, h3⟩
  unfold Issues
  cases hp : i.parts with
  | none => simp [envAt, hp] at h1
  | some p =>
    refine ⟨p.1, p.2, rfl, ?_, h0, h2, h4⟩
    have : envAt i s = s.env? p.1 p.2 := by simp [envAt, hp]
    simp [← this]

theorem fits_iff {e : Env} {xs : List Src} : Fits e xs ↔ (e.bOk = true ∧ e.dstOk false xs = true ∧ e.early xs = false) :=
  ⟨fun h => ⟨h.b, h.dst, h.ready⟩, fun h => ⟨h.1, h.2.1, h.2.2⟩⟩

theorem test_wit_IntegerOperations : AllIssue [.add R2, .subb R2, .mul R2, .mad R3, .negg R1, .mulh R2, .madh R3, .minn R2,
    .maxx R2, .med3 R3, .andd R2, .orr R2, .xor R2, .andn R2, .orn R2, .nott R1, .shl R2, .shr R2, .sar R2, .rol R2, .ror R2,
    .popc R1, .clz R1, .ctz R1, .brev R1, .bfe R3, .sel R3, .mov R1, .sext R2, .zext R2,
    .li { F0 with dst := .v 0, form := .d64 false true, imm := 0xFFFFFFFF }, .idiv R2, .irem R2, .bfi R3]
    base true (fun e => TyOnly e ∧ Fits e e.srcs) := by
  apply allIssue; simp only [TyOnly, WideOk, fits_iff]; decide +kernel
theorem test_wit_IntegerOperations_wide : AllIssue [.add { F0 with dst := .s 63, a := .s 0, b := .imm 511, mod := 3 },
    .abss { F0 with dst := .s 0, a := .s 1, mod := 3 }] base true (fun e => TySigned e ∧ Fits e e.srcs) := by
  apply allIssue; simp only [TySigned, TyOnly, WideOk, fits_iff]; decide +kernel
theorem test_wit_IntegerOperations_32 : AllIssue [.mul24 R2, .mad24 R3, .bperm R3] base true (fun e => Ty32 e ∧ Fits e e.srcs) := by
  apply allIssue; simp only [Ty32, fits_iff]; decide +kernel
theorem test_wit_IntegerOperations_cmp : AllIssue [.cmp { R2 with qual := 5, mod := 1 }] base true
    (fun e => (e.f.qual.toNat < 6 ∧ e.f.mod.toNat < 4 ∧ WideOk e) ∧ Fits e e.srcs) := by
  apply allIssue; simp only [WideOk, fits_iff]; decide +kernel
theorem test_wit_IntegerFlags : AllIssue [.addc { R3 with mod := 8 }, .subc { R3 with mod := 8 }] base true
    (fun e => TyCarry e ∧ Fits e e.srcs) ∧
    AllIssue [.add { R2 with mod := 4 }, .subb { R2 with mod := 4 }, .mul { R2 with mod := 4 }, .mad { R3 with mod := 4 },
      .negg { R1 with mod := 5 }, .abss { R1 with mod := 5 }] base true (fun e => TySat e ∧ Fits e e.srcs) := by
  constructor <;> (apply allIssue; simp only [TyCarry, TySat, WideOk, fits_iff]; decide +kernel)

/-- With no trapping flag set, no flag of any result traps. -/
theorem test_wit_noTrap (e : Env) (h : e.g.fpten = 0) (k : Env → Lane) : e.flagsOf (k e) &&& e.g.fpten = 0 := by simp [h]
theorem test_wit_FloatingPoint_rounded : AllIssue [.fadd { R2 with mod := 16 }, .fsub R2, .fmul R2, .ffma R3, .frint R1, .fldexp R2,
    .rcp R1, .rsqrt R1, .sqrt R1] base true (fun e => FloatForm true false 1 e ∧ Fits e e.srcs ∧ e.g.fpten = 0) := by
  apply allIssue; simp only [FloatForm, fits_iff]; decide +kernel
theorem test_wit_FloatingPoint_plain : AllIssue [.fmin { R2 with mod := 2 }, .fmax R2, .fminn R2, .fmaxn R2, .fabs R1, .fneg R1,
    .fcmp { R2 with qual := 7 }, .fclass R1, .exp2 R1, .log2 R1, .sinpi R1, .cospi R1, .tanh R1] base true
    (fun e => FloatForm false false 8 e ∧ Fits e e.srcs ∧ e.g.fpten = 0) := by
  apply allIssue; simp only [FloatForm, fits_iff]; decide +kernel
theorem test_wit_FloatingPoint_m5 : AllIssue [.fcpsgn { R2 with mod := 32 }] base true
    (fun e => FloatForm false true 1 e ∧ Fits e e.srcs ∧ e.g.fpten = 0) ∧
    AllIssue [.frint { R1 with mod := 48 }] base true (fun e => FloatForm true true 1 e ∧ Fits e e.srcs ∧ e.g.fpten = 0) := by
  constructor <;> (apply allIssue; simp only [FloatForm, fits_iff]; decide +kernel)
theorem test_wit_rng : AllIssue [.rng { R2 with a := .s 4, mod := 28 }] base true (fun e => (e.f.mod.toNat % 4 = 0 ∧
    e.f.mod.toNat < 32 ∧ e.f.qual = 0 ∧ rngKeyOk e.f.a = true ∧ dstVorNone e.f.dst = true) ∧ Fits e e.srcs) := by
  apply allIssue; simp only [fits_iff]; decide +kernel

/-- Slot 0 holds a bit-plane integer of eight planes. -/
def bpi : State := mk id id (fun r => { r with fmt := 0xE :: List.replicate 7 0 })

theorem test_wit_Conversions : AllIssue [.cvt { R1 with mod := 6 * 8 }] base true (fun e => (e.f.mod.toNat % 8 < 7 ∧
    e.f.mod.toNat / 8 < 7 ∧ e.f.mod.toNat % 8 ≠ e.f.mod.toNat / 8 ∧ e.f.qual = 0) ∧ Fits e e.srcs ∧ e.g.fpten = 0) ∧
    AllIssue [.cvtf { R2 with mod := 1, qual := 7 }] base true (fun e => (e.f.mod.toNat < 2 ∧ e.f.qual.toNat < 8) ∧
      Fits e e.srcs ∧ e.g.fpten = 0) ∧
    AllIssue [.pack { R3 with mod := 24 }, .pack { R3 with mod := 3 }] base true (fun e => (e.f.mod.toNat < 32 ∧
      sizeBits e * (e.f.mod.toNat / 4 % 8 + 2) ≤ 32 ∧ (e.f.mod.toNat % 4 = 1 → e.f.mod.toNat / 4 % 8 + 2 ≤ 4) ∧ e.f.qual = 0) ∧
      Fits e e.srcs ∧ e.g.fpten = 0) ∧
    AllIssue [.unpack { R2 with mod := 7 }] base true (fun e => (e.f.mod.toNat < 8 ∧ e.f.qual = 0) ∧ Fits e e.srcs ∧ e.g.fpten = 0) ∧
    AllIssue [.bpsplit { R2 with mod := 7 }] bpi true (fun e => (e.f.mod.toNat < 8 ∧ e.f.qual.toNat < 8 ∧ slotFmt e.slot ≥ 14) ∧
      Fits e e.srcs ∧ e.g.fpten = 0) ∧
    AllIssue [.bpjoin R3] bpi true (fun e => (e.f.mod = 0 ∧ e.f.qual.toNat < 8 ∧ slotFmt e.slot ≥ 14) ∧
      Fits e e.srcs ∧ e.g.fpten = 0) ∧
    AllIssue [.qscale { R2 with mod := 1 }] bpi true (fun e => (e.f.mod.toNat < 2 ∧ e.f.qual.toNat < 8 ∧
      (emaxOf (slotFmt e.slot)).isSome = true) ∧ Fits e e.srcs ∧ e.g.fpten = 0) := by
  refine ⟨?_, ?_, ?_, ?_, ?_, ?_, ?_⟩ <;> (apply allIssue; simp only [fits_iff]; decide +kernel)


theorem test_wit_CrossThread : AllIssue [.vote { R1 with mod := 10 }, .shfl { R3 with mod := 3 }, .red { R1 with mod := 14 },
    .scan { R1 with mod := 30 }, .matchv { R1 with mod := 8 }] base true
    (fun e => e.f.qual = 0 ∧ e.dstOk false e.srcs = true ∧ e.early e.srcs = false ∧ ¬ dstIsC e) ∧
    AllIssue [.vote { R1 with dst := .c 7, mod := 3 }] base true (fun e => e.f.qual = 0 ∧ e.dstOk true e.srcs = true ∧
      e.early e.srcs = false ∧ dstIsC e ∧ e.f.mod.toNat % 8 ∈ [0, 1, 3]) ∧
    AllIssue [.red { R1 with mod := 14 }] base true (fun e => combForm e 16) ∧
    AllIssue [.scan { R1 with mod := 30 }] base true (fun e => combForm e 32) := by
  refine ⟨?_, ?_, ?_, ?_⟩ <;> (apply allIssue; simp only [dstIsC, combForm]; decide +kernel)

/-- IMM32 of Torub-D. -/
def FI : Fields := { F0 with form := .d64 false true }

theorem test_wit_NothingDone : AllIssue [.nop F0] base false Bare ∧ AllIssue [.nop { F0 with mod := 1 }] base false (fun e => ¬ Bare e) := by
  constructor <;> (apply allIssue; simp only [Bare]; decide +kernel)
theorem test_wit_Branches : AllIssue [.bra { FI with imm := 0xFFFF0000 }] base false (fun e => Bare e ∧ TargetOk e e.relTarget ∧ e.any = true) ∧
    AllIssue [.br { FI with mod := 1, qual := 7, imm := 0xFFFC }] base false (fun e => e.f.mod.toNat < 2 ∧ e.f.qual.toNat < 8 ∧
      TargetOk e e.relTarget ∧ e.any = true ∧ e.g.cget e.f.qual.toNat ≠ e.f.mod.getLsbD 0) ∧
    AllIssue [.br { FI with g1 := ⟨0, true⟩ }] base false (fun e => TargetOk e e.relTarget ∧ e.any = false) := by
  refine ⟨?_, ?_, ?_⟩ <;> (apply allIssue; simp only [Bare, TargetOk]; decide +kernel)

/-- A code capability for the words of `base`. -/
def codeCap : TCap := rootCap 1 0 1 [pLD, pEXEC] 0x10000 0x1000
/-- s4 and s5 hold it, s8 an address in it, v2 and v3 too. -/
def caps (k : TCap) : State :=
  mk (fun g => { (((g.sset 4 (k.bits.extractLsb' 0 64)).sset 5 (k.bits.extractLsb' 64 64)).sset 8 0x10010) with
    stag := if k.tag then [(2, true)] else [] })

/-- The links that `LinkOk` allows. -/
def linkB (vregs : Nat) : Dst → Bool
  | .v n => vShape vregs 2 n.val
  | .s _ => true
  | .none => true
  | _ => false
theorem linkOk_iff {e : Env} : LinkOk e ↔ linkB e.gr.vregs e.f.dst = true := by
  rcases e with ⟨g, t, gr, c, row, f⟩
  rcases f with ⟨_, _, _, dst, _⟩
  cases dst
  case v => exact Iff.rfl
  case s => exact ⟨fun _ => rfl, fun _ => trivial⟩
  case none => exact ⟨fun _ => rfl, fun _ => trivial⟩
  all_goals exact ⟨fun h => h.elim, fun h => Bool.noConfusion h⟩

theorem test_wit_CallsAndReturns : AllIssue [.call { FI with dst := .s 63, imm := 0x10 }, .call { FI with dst := .v 382 },
      .call FI] base false (fun e => Bare e ∧ LinkOk e ∧ e.shapePendDst e.f.dst 2 1 = false ∧ TargetOk e e.relTarget ∧
      (e.gr.native = true → e.nextPc % 8 = 0) ∧ e.any = true) ∧
    AllIssue [.ret { F0 with a := .s 8 }] (caps codeCap) false (fun e => Bare e ∧ PairArg e e.f.a ∧
      (∀ i ∈ e.subsetThreads, TargetOk e ((e.read64 e.f.a i).toNat : Int)) ∧ e.any = true) ∧
    AllIssue [.ret { F0 with a := .v 2 }] (mk (fun g => (List.range 16).foldl (fun g i => g.vset 2 i 0x10000) g)) false
      (fun e => Bare e ∧ PairArg e e.f.a ∧
      (∀ i ∈ e.subsetThreads, TargetOk e ((e.read64 e.f.a i).toNat : Int)) ∧ e.any = true) := by
  refine ⟨?_, ?_, ?_⟩ <;> (apply allIssue; simp only [Bare, linkOk_iff, PairArg, TargetOk]; decide +kernel)

theorem codeCap_iff {e : Env} {k : TCap} : CodeCap e k ↔ (e.converged = true ∧ k.tag = true ∧ (k.otype = 0 ∨ k.otype = 63) ∧
    k.kind = 1 ∧ e.ctx.permits k.col = true ∧ k.has pEXEC = true ∧ k.addr % targetAlign e.gr.native = 0 ∧
    k.inBounds k.addr (if e.gr.native then 8 else 4) = true) :=
  ⟨fun h => ⟨h.1, h.2, h.3, h.4, h.5, h.6, h.7, h.8⟩, fun h => ⟨h.1, h.2.1, h.2.2.1, h.2.2.2.1, h.2.2.2.2.1, h.2.2.2.2.2.1,
    h.2.2.2.2.2.2.1, h.2.2.2.2.2.2.2⟩⟩

theorem test_wit_CodeCapabilities : AllIssue [.retK { F0 with a := .s 4, mod := 1 }] (caps (codeCap.withOtype 63)) false
      (fun e => e.f.mod = 1 ∧ e.f.qual = 0 ∧ isSPair e.f.a = true ∧ e.capPend e.f.a = false ∧ CodeCap e (e.cap e.f.a 0) ∧
      e.any = true) ∧
    AllIssue [.callk { F0 with a := .s 4, dst := .s 62 }] (caps (codeCap.withAddr 0x10FFC)) false (fun e => Bare e ∧ isSPair e.f.a = true ∧
      (e.f.dst = .none ∨ ∃ n : Fin 64, e.f.dst = .s n ∧ n.val % 2 = 0) ∧ e.capPend e.f.a = false ∧
      e.shapePendDst e.f.dst 4 2 = false ∧ CodeCap e (e.cap e.f.a 0) ∧ (e.gr.native = true → e.nextPc % 8 = 0) ∧ e.any = true) := by
  constructor <;> (apply allIssue; simp only [Bare, codeCap_iff]; decide +kernel)

theorem test_wit_ForkAndMeet : AllIssue [.fork { FI with a := .tid, imm := 0x0002FFFF }] base false (fun e => Bare e ∧
      e.pendSrc e.f.a = false ∧ TargetOk e ((e.pc : Int) + (e.imm.extractLsb' 0 16).toInt * 4) ∧
      TargetOk e ((e.pc : Int) + (e.imm.extractLsb' 16 16).toInt * 4) ∧ e.any = true) ∧
    AllIssue [.meetSet { F0 with a := .s 8 }] (caps codeCap) false (fun e => Bare e ∧ PairArg e e.f.a ∧ e.shapeLbl e.f.a 2 1 = 0 ∧
      (∀ i ∈ e.parts, (e.read64 e.f.a i).toNat = meetSentinel.toNat ∨ TargetOk e ((e.read64 e.f.a i).toNat : Int))) ∧
    AllIssue [.meetSet { F0 with a := .s 6 }] (mk (fun g => g.sset 6 0xFFFFFFFFFFFFFF)) false (fun e => PairArg e e.f.a ∧
      e.any = true ∧ ∀ i ∈ e.parts, (e.read64 e.f.a i).toNat = meetSentinel.toNat) ∧
    AllIssue [.meetGet { F0 with dst := .v 382 }] base false (fun e => Bare e ∧ e.f.dst = .v 382 ∧
      vShape e.gr.vregs 2 382 = true ∧ e.g.vPend 382 2 = false) := by
  refine ⟨?_, ?_, ?_, ?_⟩ <;> (apply allIssue; simp only [Bare, PairArg, TargetOk]; decide +kernel)

theorem barOk_iff {e : Env} : BarOk e ↔ (e.f.mod = 0 ∧ (e.f.qual.toNat < 16 ∧ e.f.qual.toNat < e.gr.bars) ∧ e.converged = true ∧
    e.g.satTrap = false ∧ e.any = true) :=
  ⟨fun h => ⟨h.1, h.2, h.3, h.4, h.5⟩, fun h => ⟨h.1, h.2.1, h.2.2.1, h.2.2.2.1, h.2.2.2.2⟩⟩

/-- A second group of the team, READY on the same core. -/
def twoGroups (hg : Group → Group := id) : State :=
  let s := mk id id (fun r => { r with ngroups := 2 })
  match s.group? 2 0 with
  | some g => s.setGroup (hg { Group.fresh (fetchGrid 1) 2 1 0 1 0 0 1 with threads := g.threads })
  | none => s

theorem test_wit_ExitsAndBarriers : AllIssue [.exitt F0, .endGroup F0] base false (fun e => Bare e ∧ e.any = true) ∧
    AllIssue [.bar { F0 with qual := 15 }, .barArrive { F0 with qual := 15 }, .barWait { F0 with qual := 15 }] base false
      (fun e => BarOk e ∧ e.barrier.arrived.getLsbD e.g.gid = false ∧ e.lastArrival base = true) ∧
    AllIssue [.bar F0, .barArrive F0] (twoGroups) false
      (fun e => BarOk e ∧ e.barrier.arrived.getLsbD e.g.gid = false ∧ e.lastArrival twoGroups = false) := by
  refine ⟨?_, ?_, ?_⟩ <;> (apply allIssue; simp only [Bare, barOk_iff]; decide +kernel)

theorem test_wit_Conditions : AllIssue [.cset { F0 with dst := .c 7, a := .v 1, mod := 1 }] base false (fun e => e.f.dst = .c 7 ∧
      e.f.mod.toNat < 2 ∧ e.f.qual = 0 ∧ e.pendSrc e.f.a = false ∧ e.any = true) ∧
    AllIssue [.cset { F0 with dst := .c 0, g1 := ⟨0, true⟩ }] base false (fun e => e.f.dst = .c 0 ∧ e.pendSrc e.f.a = false ∧ e.any = false) ∧
    AllIssue [.cset { F0 with dst := .c 0, a := .v 1 }] (mk (fun g => g.setVsd 1 { Side.clear with pend := true })) false
      (fun e => e.f.dst = .c 0 ∧ e.pendSrc e.f.a = true) ∧
    AllIssue [.cop { F0 with dst := .c 7, a := .c 0, b := .imm 257, mod := 6 }] base false (fun e => e.f.dst = .c 7 ∧ e.f.mod.toNat < 8 ∧
      e.f.qual = 0 ∧ e.copArg e.f.a = true ∧ e.copArg e.f.b = true ∧ e.pendSrc e.f.a = false ∧ e.pendSrc e.f.b = false) ∧
    AllIssue [.elect { F0 with dst := .v 383 }] base false (fun e => Bare e ∧ (dstC e.f.dst).isSome = false ∧ e.pendDst e.f.dst = false) ∧
    AllIssue [.gset { F0 with a := .imm 257, qual := 15 }] base false (fun e => e.f.mod = 0 ∧ e.f.qual.toNat < 16 ∧ e.f.b = .zero ∧
      e.uniform e.f.a = true ∧ e.pendSrc e.f.a = false ∧ e.f.qual.toNat < e.gr.guards ∧ e.any = true) ∧
    AllIssue [.gclr { F0 with qual := 15 }] base false (fun e => e.f.mod = 0 ∧ e.f.qual.toNat < 16 ∧ e.f.b = .zero ∧ e.f.a = .zero ∧
      e.f.qual.toNat < e.gr.guards ∧ e.any = true) := by
  refine ⟨?_, ?_, ?_, ?_, ?_, ?_, ?_⟩ <;> (apply allIssue; simp only [Bare]; decide +kernel)

theorem dstVS_iff {d : Dst} : dstVS d ↔ (match d with
    | .p _ => false
    | .c _ => false
    | _ => true) = true := by unfold dstVS; split <;> simp_all

theorem test_wit_SystemRegisters : AllIssue [.srd { F0 with dst := .v 0, mod := 1, qual := 0x10 }] base true
      (fun e => (e.sreg base e.f.qual.toNat).isSome = true ∧ e.f.mod.toNat < 2 ∧ dstVorS e.f.dst = true ∧ e.pendDst e.f.dst = false) ∧
    AllIssue [.swr { F0 with a := .imm 511, qual := 1 }] base false (fun e => e.f.mod = 0 ∧ rngKeyOk e.f.a = true ∧
      e.pendSrc e.f.a = false ∧ e.any = true ∧ (e.read32 e.f.a e.first).toNat < 4096) ∧
    AllIssue [.swr { F0 with a := .imm 383, qual := 2 }] base false (fun e => rngKeyOk e.f.a = true ∧ e.any = true ∧
      (e.read32 e.f.a e.first).toNat < 128) ∧
    AllIssue [.swr { F0 with qual := 3 }, .swr { F0 with qual := 0x10 }, .swr { F0 with qual := 0x11 }] base false
      (fun e => e.f.mod = 0 ∧ rngKeyOk e.f.a = true ∧ e.pendSrc e.f.a = false ∧ e.any = true ∧ e.f.qual.toNat ∈ [3, 0x10, 0x11]) ∧
    AllIssue [.rdclk { F0 with dst := .s 63, mod := 1 }] base true (fun e => e.f.mod.toNat < 2 ∧ e.f.qual = 0 ∧ dstVS e.f.dst ∧
      e.pendDst e.f.dst = false) := by
  refine ⟨?_, ?_, ?_, ?_, ?_⟩ <;> (apply allIssue; simp only [dstVS_iff]; decide +kernel)


theorem test_wit_FlagsAndTiles : AllIssue [.satrd { F0 with dst := .v 0 }] base true (fun e => e.f.mod.getLsbD 0 = false ∧
      e.f.mod.toNat < 2 ∧ e.f.qual = 0 ∧ e.pendDst e.f.dst = false) ∧
    AllIssue [.satrd { F0 with dst := .v 0, mod := 1 }] base false (fun e => e.f.mod.getLsbD 0 = true ∧
      e.f.mod.toNat < 2 ∧ e.f.qual = 0 ∧ e.pendDst e.f.dst = false) ∧
    AllIssue [.satclr { F0 with a := .imm 383 }] base true (fun e => Bare e ∧ e.uniform e.f.a = true ∧ e.pendSrc e.f.a = false ∧
      e.any = true ∧ (e.read32 e.f.a e.first).toNat < 128) ∧
    AllIssue [.part { F0 with a := .imm 258 }, .part { F0 with a := .imm 272 }] base true (fun e => Bare e ∧ e.uniform e.f.a = true ∧
      e.pendSrc e.f.a = false ∧ e.any = true ∧ (e.read32 e.f.a e.first).toNat ∈ [2, 4, 8, 16, 32, 64] ∧
      (e.read32 e.f.a e.first).toNat ≤ e.gr.width) ∧
    AllIssue [.csamp { R2 with qual := 7 }] base false (fun e => e.f.mod = 0 ∧ e.f.qual.toNat < 8 ∧ dstVorNone e.f.dst = true ∧
      e.early e.srcs = false ∧ e.any = true) := by
  refine ⟨?_, ?_, ?_, ?_, ?_⟩ <;> (apply allIssue; simp only [Bare]; decide +kernel)

/-- The group of `base`, with a code capability as its trap vector in s62 and s63. -/
def vectored (g : Group) : Group :=
  { (g.sset 62 (codeCap.bits.extractLsb' 0 64)).sset 63 (codeCap.bits.extractLsb' 64 64) with stag := [(31, true)] }
/-- What the instruction of `base` sees. -/
def b0 : Env := (envAt (.nop F0) base).get (by decide +kernel)

theorem deliverable_iff {g : Group} {gr : Grid} {c : Ctx} {x : Exc} : Deliverable g gr c x ↔ ((handlerCode x.code = true ∧
    x.code ≠ cHPAGE ∧ x.code ≠ cBREAK) ∧ g.frame.active = false ∧ g.run.subset ≠ 0 ∧ vectorOk c gr.native (g.capPair 62) = true) :=
  ⟨fun h => ⟨h.1, h.2, h.3, h.4⟩, fun h => ⟨h.1, h.2.1, h.2.2.1, h.2.2.2⟩⟩

theorem test_wit_FaultDelivered : Deliverable (vectored b0.g) b0.gr b0.ctx { code := cSOFTWARE } ∧
    (vectored b0.g).run.stepped = false ∧ (vectored b0.g).haltAtEnd = false := by
  simp only [deliverable_iff]; decide +kernel
theorem test_wit_FaultStops : cSOFTWARE ≠ cHPAGE ∧ cSOFTWARE ≠ cBREAK ∧ cSOFTWARE ≠ cSESSION ∧ vectorOk b0.ctx b0.gr.native (b0.g.capPair 62) = false ∧
    handlerCode cSESSION = false ∧ ({ b0.g with frame := { b0.g.frame with active := true } } : Group).frame.active = true := by
  decide +kernel
/-- A group owes the fault of a window store that failed. -/
def owing : State := mk (fun g => { g with owed := some (cCOLOUR, 0x8000) })
theorem test_wit_OwedFault : ∃ e f', (Instr.st F0).parts = some (Row.st, f') ∧
    owing.env? Row.st f' = some e ∧ e.g.owed = some (cCOLOUR, 0x8000) :=
  ⟨(owing.env? Row.st F0).get (by decide +kernel), F0, rfl, (Option.some_get _).symm, by decide +kernel⟩
theorem test_wit_PageAndBreakpoint : b0.ctx.teamstop = false := by decide +kernel

theorem test_wit_Traps : AllIssue [.trap { FI with imm := 0x1FFFF }, .snap { FI with imm := 0x1FFFF }] base false
      (fun e => Bare e ∧ e.any = true) ∧
    AllIssue [.trap { FI with g1 := ⟨0, true⟩ }] base false (fun e => Bare e ∧ e.any = false) ∧
    AllIssue [.trap { FI with imm := 5 }] (mk vectored) false (fun e => Bare e ∧ e.any = true ∧ e.g.run.stepped = false ∧
      e.g.haltAtEnd = false ∧ Deliverable e.g e.gr e.ctx { code := cSOFTWARE, aux := e.imm.setWidth 64, rpcAfter := true }) ∧
    AllIssue [.brk F0] (mk id id id (fun c => { c with debugger := true })) false (fun e => Bare e ∧ e.any = true ∧ e.ctx.debugger = true) ∧
    AllIssue [.brk F0] base false (fun e => Bare e ∧ e.ctx.debugger = false) ∧
    AllIssue [.fdiv R2] base false (fun _ => True) := by
  refine ⟨?_, ?_, ?_, ?_, ?_, ?_⟩ <;> (apply allIssue; try simp only [Bare, deliverable_iff]) <;> decide +kernel

/-- The frame of a handler that returns to the last word of its range. -/
def inHandler (g : Group) : Group :=
  let fr : Frame := { g.frame with active := true, subset := g.run.subset, rpc := 0x10FFC, kcode := codeCap }
  { g with frame := fr }

theorem test_wit_ReturnFromHandler : AllIssue [.rfe F0] (mk inHandler) false (fun e => Bare e ∧ e.any = true ∧ base.wins = [] ∧ e.g.frame.active = true ∧
      e.g.run.subset = e.g.frame.subset ∧ TargetOk e (e.g.frame.rpc.toNat : Int)) := by
  apply allIssue; simp only [Bare, TargetOk]; decide +kernel
theorem test_wit_YieldAndSleep : AllIssue [.yield F0] base false (fun e => Bare e ∧ e.any = true) ∧
    AllIssue [.sleep { FI with a := .imm 255, imm := 1 }] base false (fun e => Bare e ∧ e.uniform e.f.a = true ∧
      e.pendSrc e.f.a = false ∧ e.any = true ∧ min ((e.read32 e.f.a e.first).toNat + e.imm.toNat) 16777215 = 16777215) ∧
    AllIssue [.sleep F0] base false (fun e => Bare e ∧ e.uniform e.f.a = true ∧ e.pendSrc e.f.a = false ∧ e.any = true ∧
      min ((e.read32 e.f.a e.first).toNat + e.imm.toNat) 16777215 = 0) := by
  refine ⟨?_, ?_, ?_⟩ <;> (apply allIssue; simp only [Bare]; decide +kernel)

/-! ### Witnesses: memory -/

/-- A capability for 4 KiB of device memory with every permission. -/
def memCap : TCap := rootCap 0 0 1 [pLD, pST, pLDCAP, pSTCAP, pDELEG, pDECLASS, pGLOBAL, pSEAL, pUNSEAL] 0x20000 0x1000

theorem permitted_iff {s : State} {e : Env} {kinds : MemAcc → Prop} {perms : List Nat} {n al : Nat} {a : MemAcc} :
    Permitted s e kinds perms n al a ↔ (a.k.tag = true ∧ a.k.otype = 0 ∧ kinds a ∧ s.permits e.ctx a.k.col = true ∧
      (∀ p ∈ perms, a.k.has p = true) ∧ (needsTile a.ea = true → a.k.has pTILE = true) ∧ 0 ≤ a.ea ∧
      a.ea + n ≤ ((2 ^ 56 : Nat) : Int) ∧ a.k.inBounds a.ea.toNat n = true ∧ a.ea.toNat % al = 0 ∧
      (isWin a.ea.toNat = true → winAligned a.ea.toNat n = true) ∧
      (isDev a.ea.toNat = true ∨ isWin a.ea.toNat = true ∨ isHost a.ea.toNat = true)) :=
  ⟨fun h => ⟨h.1, h.2, h.3, h.4, h.5, h.6, h.7, h.8, h.9, h.10, h.11, h.12⟩, fun ⟨h1, h2, h3, h4, h5, h6, h7, h8, h9, h10, h11, h12⟩ =>
    ⟨h1, h2, h3, h4, h5, h6, h7, h8, h9, h10, h11, h12⟩⟩
theorem storable_iff {s : State} {l : Label} {n : Nat} {a : MemAcc} : Storable s l n a ↔ (l.toNat ≤ lblLimit a.k a.ea.toNat ∧
    ∀ p ∈ lineParts a.ea.toNat n, s.coAt p.1 p.2 = false) := ⟨fun h => ⟨h.1, h.2⟩, fun h => ⟨h.1, h.2⟩⟩
theorem addrReady_iff {e : Env} {q : Bool} : AddrReady e q ↔ ((e.capSrcOk e.f.a = true ∧ e.capPend e.f.a = false) ∧
    e.pendSrc e.f.b = false ∧ e.f.qualOk q = true ∧ e.any = true ∧ e.g.fencing = 0) :=
  ⟨fun h => ⟨h.1, h.2, h.3, h.4, h.5⟩, fun h => ⟨h.1, h.2.1, h.2.2.1, h.2.2.2.1, h.2.2.2.2⟩⟩
theorem targetsReady_iff {e : Env} {s : State} {as : List MemAcc} {n : Nat} : TargetsReady e s as n ↔ (e.hostStep s as n = none ∧ e.g.refused = none ∧
    ∀ a ∈ as, isWin a.ea.toNat = true → s.winFault a.ea.toNat n true none = none) :=
  ⟨fun h => ⟨h.1, h.2, h.3⟩, fun h => ⟨h.1, h.2.1, h.2.2⟩⟩

/-- The conditions of a load into a v register or nowhere. -/
theorem loadDst_v {e : Env} {size : Nat} {dis lat : Bool} (d : Fin 384) (h : e.f.dst = .v d)
    (hv : vShape e.gr.vregs (sizeRegs size).1 d.val = true) : LoadDst e size dis lat := by unfold LoadDst; rw [h]; exact hv


theorem test_wit_Loads : AllIssue [.ld { F0 with dst := .v 383, a := .s 4, mod := 2, qual := 7 }] (caps (memCap.withAddr 0x20FFC)) false
      (fun e => AddrReady e true ∧ e.f.sizeOk true = true ∧ vShape e.gr.vregs 1 383 = true ∧
      e.shapePendDst e.f.dst (sizeRegs e.f.size).1 (sizeRegs e.f.size).2 = false ∧
      ∀ a ∈ e.accs (e.actors e.f.dst.isS), Permitted (caps (memCap.withAddr 0x20FFC)) e (loadKinds false) [pLD] (sizeBytes e.f.size)
        (sizeAlign e.f.size) a) ∧
    AllIssue [.ldk { F0 with dst := .v 4, a := .s 4 }] (caps memCap) false (fun e => AddrReady e true ∧ e.f.mod = 0 ∧
      vShape e.gr.vregs 4 4 = true ∧ e.shapePendDst e.f.dst 4 2 = false ∧
      ∀ a ∈ e.accs (e.actors e.f.dst.isS), Permitted (caps memCap) e (loadKinds true) [pLD] 16 16 a) := by
  constructor <;> (apply allIssue; simp only [addrReady_iff, permitted_iff, loadKinds]; decide +kernel)

/-- A load of four bytes that waits, to v5 of thread 15. -/
def waiting : LoadElem := ⟨15, 0x20004, 4, [], false, 1, .waiting⟩
/-- The group with that one load. -/
def loading : State := mk (fun g => { g with loads := [⟨0, 0, 0x10000, .v 5, .plain 2 0 false, [waiting]⟩], nextIseq := 1 })
theorem oneWaiting_of {s : State} {team gid : Nat} {g : Group} {ld : Load} {x : LoadElem}
    (hg : s.group? team gid = some g ∧ g.team = team ∧ g.gid = gid ∧ g.loads = [ld] ∧ ld.elems = [x] ∧ x.status = .waiting ∧
      (x.thread < 64 ∧ x.bytes ≤ 16) ∧ (match ld.kind with | .atomic _ => false | _ => true) = true ∧ s.atoms = [] ∧ s.syncs = [] ∧
      (s.team? team).any (fun t => t.status == .saved) = false) : OneWaiting s team gid g ld x := by
  obtain ⟨h1, h2, h3, h4, h5, h6, h7, h8, h9, h10, h11⟩ := hg
  refine ⟨⟨h1, h2, h3⟩, h4, h5, h6, h7, ?_, ⟨h9, h10⟩, by simp [h11]⟩
  intro w hw; rw [hw] at h8; exact absurd h8 Bool.false_ne_true
/-- The load of `loadsAs`. -/
def oneLoad (d : Dst) (k : LoadKind) (x : LoadElem) : Load := ⟨0, 0, 0x10000, d, k, [x]⟩
/-- The group with one load to a destination. -/
def loadsAs (d : Dst) (k : LoadKind) (x : LoadElem) (hs : State → State := id) : State :=
  mk (fun g => { g with loads := [oneLoad d k x], nextIseq := 1 }) id id id hs
/-- The group of such a machine. -/
def loadGroup (d : Dst) (k : LoadKind) (x : LoadElem) : Group := { b0.g with loads := [oneLoad d k x], nextIseq := 1 }
/-- A four-byte load to v5, one of eight bytes to s8, a capability load to v4. -/
def loadForms : List (Dst × LoadKind × LoadElem) :=
  [(.v 5, .plain 2 0 false, waiting), (.s 8, .plain 3 0 false, ⟨15, 0x2007C, 8, [], false, 1, .waiting⟩),
    (.v 4, .cap, ⟨15, 0x20010, 16, [], true, 1, .waiting⟩)]
theorem test_wit_LoadDelivered : ∀ p ∈ loadForms, let s := loadsAs p.1 p.2.1 p.2.2
    OneWaiting s 2 0 (loadGroup p.1 p.2.1 p.2.2) (oneLoad p.1 p.2.1 p.2.2) p.2.2 ∧ isDev (p.2.2.addr + p.2.2.bytes) = true ∧
    (∀ q ∈ lineParts p.2.2.addr p.2.2.bytes, s.badSec? q.1 q.2 = none ∧ s.coAt q.1 q.2 = false) ∧
    s.grids.any (fun q => q.2.ovflMeets p.2.2.addr p.2.2.bytes) = false ∧ Roomy s 0 ∧
    (s.readParts 0 1 ((lineParts p.2.2.addr p.2.2.bytes).map (fun q => (q.1, q.2, none))) p.2.2.mins).2.co = false := by
  intro p hp
  refine ⟨oneWaiting_of ?_, ?_⟩
  · revert hp; revert p; decide +kernel
  · simp only [Roomy]; revert hp; revert p; decide +kernel
/-- A load of a host word, and its translation under the context's PASID. -/
def hostElem : LoadElem := ⟨15, 2 ^ 55 + 4, 4, [], false, 1, .waiting⟩
/-- The machine of that load. -/
def hostLoad : State := loadsAs (.v 5) (.plain 2 0 false) hostElem (fun s =>
  { s.setFn 0 { s.fn 0 with pasids := [(0, ⟨true, 7, 1⟩)] } with tlb := [⟨0, 7, 0, 4096, true, true, 0x9000⟩] })
theorem test_wit_LoadDelivered_host : OneWaiting hostLoad 2 0 (loadGroup (.v 5) (.plain 2 0 false) hostElem)
      (oneLoad (.v 5) (.plain 2 0 false) hostElem) hostElem ∧ isWin hostElem.addr = false ∧ isHost hostElem.addr = true ∧
    Roomy hostLoad 0 ∧ (hostLoad.transParts (hostLoad.fnOfTeam 2) 1 hostElem.addr 4 false).all (fun p =>
      match p.2.2 with | .ok h => !hostLoad.hostLost h p.2.1 | _ => false) = true := by
  refine ⟨oneWaiting_of ?_, ?_⟩
  · decide +kernel
  · simp only [Roomy]; decide +kernel
/-- A load of a word of the team's own tarn through its window. -/
def winElem : LoadElem :=
  ⟨15, base.tarnPrefix b0.coreRes.core b0.coreRes.slot * 2 ^ 38 + 8, 4, [], false, 1, .waiting⟩
/-- Its access. -/
def winAcc : WinAcc := ⟨5, 2, 0, some (0, 15), winElem.addr, 4, [], [], some false, 0⟩
/-- The machine of that load. -/
def winLoad : State := loadsAs (.v 5) (.plain 2 0 false) winElem (fun s => { s with wins := [(5, winAcc)] })
theorem test_wit_LoadDelivered_window : OneWaiting winLoad 2 0 (loadGroup (.v 5) (.plain 2 0 false) winElem)
      (oneLoad (.v 5) (.plain 2 0 false) winElem) winElem ∧ mfind winLoad.wins 5 = some winAcc ∧ winLoad.winReady winAcc = true ∧
    ({ winLoad with wins := mdel winLoad.wins 5 } : State).winFault winAcc.addr 4 false none = none := by
  refine ⟨oneWaiting_of ?_, ?_⟩ <;> decide +kernel

/-- The capability in s4 and s5, thread i's v1 its place in bytes. -/
def spread (k : TCap) (n : Nat) : State :=
  let s := caps k
  { s with groups := s.groups.map (fun p => (p.1, (List.range 16).foldl (fun g i => g.vset 1 i (BitVec.ofNat 32 (n * i))) p.2)) }
set_option synthInstance.maxSize 1000 in
theorem test_wit_StoresComplete : AllIssue [.st { F0 with a := .s 4, b := .v 1, c := .v 2, mod := 2 }] (spread memCap 4) false
      (fun e => AddrReady e false ∧ e.f.sizeOk false = true ∧ e.dataOk e.f.c e.f.size = true ∧ DataReady e e.f.size ∧
      Apart (sizeBytes e.f.size) (e.accs e.parts) ∧ TargetsReady e (spread memCap 4) (e.accs e.parts) (sizeBytes e.f.size) ∧
      ∀ a ∈ e.accs e.parts, Permitted (spread memCap 4) e (loadKinds false) [pST] (sizeBytes e.f.size) (sizeAlign e.f.size) a ∧
        Storable (spread memCap 4) (e.shapeLbl e.f.c (sizeRegs e.f.size).1 (sizeRegs e.f.size).2) (sizeBytes e.f.size) a) ∧
    AllIssue [.stk { F0 with a := .s 4, b := .v 1, c := .s 4 }] (spread memCap 16) false (fun e => AddrReady e false ∧ e.f.mod = 0 ∧
      e.capSrcOk e.f.c = true ∧ DataReady e 4 ∧ Apart 16 (e.accs e.parts) ∧
      TargetsReady e (spread memCap 16) (e.accs e.parts) 16 ∧ ∀ a ∈ e.accs e.parts,
        Permitted (spread memCap 16) e (loadKinds true) [pST] 16 16 a ∧ Storable (spread memCap 16) (e.shapeLbl e.f.c 4 2) 16 a ∧
        ((e.cap e.f.c a.i).tag = true → a.k.has pSTCAP = true ∧ (e.cap e.f.c a.i).has pGLOBAL = true)) := by
  constructor <;> (apply allIssue
                   simp only [addrReady_iff, permitted_iff, loadKinds, storable_iff, targetsReady_iff, DataReady, Apart]
                   decide +kernel)

/-- The window of the team's own block, as a capability, and the same capability in s6, that is not GLOBAL. -/
def ownBlock : TCap := rootCap 3 0 1 [pLD, pST, pLDCAP, pSTCAP] (base.tarnPrefix b0.coreRes.core b0.coreRes.slot * 2 ^ 38 - 2 ^ 51) 0x1000
theorem test_wit_OwnBlock : AllIssue [.stk { F0 with a := .s 4, b := .v 1, c := .s 4 }] (spread ownBlock 16) false (fun e => ∀ a ∈ e.accs e.parts,
      (e.cap e.f.c a.i).has pGLOBAL = false ∧ a.k.kind = 3 ∧ isWin a.ea.toNat = true ∧ isTarnWin a.ea.toNat = false ∧
      ((spread ownBlock 16).winTeam a.ea.toNat).map (fun p => p.1.id) = some e.t.id) := by
  apply allIssue; decide +kernel

theorem test_wit_StoreFrame : base.now > 0 ∧ Roomy base b0.g.core ∧ base.group? b0.g.team b0.g.gid = some b0.g ∧ Settled b0 base ∧
    isDev (0x20000 + [((1, 0xFF) : Byte × Byte)].length) = true ∧ NoSync base 0x20000 1 ∧ base.grids ≠ [] ∧
    base.grids.any (fun p => p.2.ovflMeets 0x20000 1) = false := by simp only [Roomy, NoSync, Settled]; decide +kernel

theorem inTarn_iff {s : State} {e : Env} {p n al : Nat} {a : MemAcc} : InTarn s e p n al a ↔
    (Permitted s e (fun a => a.k.kind = 3) [p] n al a ∧
      a.ea.toNat / 2 ^ 38 = s.tarnPrefix e.coreRes.core e.coreRes.slot ∧ a.ea.toNat % 2 ^ 38 + n ≤ e.gr.tarn * 4096) :=
  ⟨fun h => ⟨h.1, h.2, h.3⟩, fun h => ⟨h.1, h.2.1, h.2.2⟩⟩
/-- The team's tarn capability in s4 and s5. -/
def tarn (n : Nat) : State := spread (b0.tarnCap base) n
/-- With its first line absent. -/
def tarnGone : State :=
  let s := tarn 4
  { s with teams := s.teams.map (fun p => (p.1, { p.2 with cores := p.2.cores.map (fun r => { r with tline := [(0, { TLine.clear with awaits := [7] })] }) })) }

/-- The accesses find their lines present, no queued access of the group in their way, and no uncorrectable word. -/
def TarnOpen (s : State) (e : Env) (n : Nat) (as : List MemAcc) : Prop := LinesHere e n as ∧ TarnFree s e ∧ TarnSound e n as
set_option synthInstance.maxSize 1000 in
theorem test_wit_TarnAccess : AllIssue [.ldt { F0 with dst := .v 0, a := .s 4, b := .v 1, mod := 2 }] (tarn 4) true (fun e => AddrReady e false ∧
      e.f.sizeOk true = true ∧ vShape e.gr.vregs 1 0 = true ∧ e.pendDst e.f.dst = false ∧
      (∀ a ∈ e.accs (e.actors e.f.dst.isS), InTarn (tarn 4) e pLD (sizeBytes e.f.size) (sizeAlign e.f.size) a) ∧
      TarnOpen (tarn 4) e (sizeBytes e.f.size) (e.accs (e.actors e.f.dst.isS))) ∧
    AllIssue [.ldt { F0 with dst := .v 4, a := .s 4, b := .v 1, mod := 4 }] (tarn 16) false (fun e => AddrReady e false ∧
      e.f.sizeOk true = true ∧ vShape e.gr.vregs 4 4 = true ∧ e.shapePendDst e.f.dst 4 2 = false ∧
      (∀ a ∈ e.accs (e.actors e.f.dst.isS), InTarn (tarn 16) e pLD (sizeBytes e.f.size) (sizeAlign e.f.size) a) ∧
      TarnOpen (tarn 16) e (sizeBytes e.f.size) (e.accs (e.actors e.f.dst.isS))) ∧
    AllIssue [.stt { F0 with a := .s 4, b := .v 1, c := .v 2, mod := 2 }] (tarn 4) false (fun e => AddrReady e false ∧
      e.f.sizeOk false = true ∧ e.dataOk e.f.c e.f.size = true ∧ DataReady e e.f.size ∧ Apart (sizeBytes e.f.size) (e.accs e.parts) ∧
      (∀ a ∈ e.accs e.parts, InTarn (tarn 4) e pST (sizeBytes e.f.size) (sizeAlign e.f.size) a ∧
        (e.shapeLbl e.f.c (sizeRegs e.f.size).1 (sizeRegs e.f.size).2).toNat ≤ lblLimit a.k a.ea.toNat) ∧
      TarnOpen (tarn 4) e (sizeBytes e.f.size) (e.accs e.parts)) ∧
    AllIssue [.stt { F0 with a := .s 4, b := .v 1, c := .v 2, mod := 2 }] tarnGone false (fun e => AddrReady e false ∧
      Apart (sizeBytes e.f.size) (e.accs e.parts) ∧ TarnFree tarnGone e ∧
      (∀ a ∈ e.accs e.parts, InTarn tarnGone e pST (sizeBytes e.f.size) (sizeAlign e.f.size) a) ∧
      ¬ LinesHere e (sizeBytes e.f.size) (e.accs e.parts)) ∧
    AllIssue [.ldt { F0 with dst := .v 0, a := .s 4, b := .v 1, mod := 2 }] tarnGone true (fun e => AddrReady e false ∧ e.f.sizeOk true = true ∧
      vShape e.gr.vregs 1 0 = true ∧ e.shapePendDst e.f.dst (sizeRegs e.f.size).1 (sizeRegs e.f.size).2 = false ∧
      (∀ a ∈ e.accs (e.actors e.f.dst.isS), InTarn tarnGone e pLD (sizeBytes e.f.size) (sizeAlign e.f.size) a) ∧
      ¬ LinesHere e (sizeBytes e.f.size) (e.accs (e.actors e.f.dst.isS))) := by
  refine ⟨?_, ?_, ?_, ?_, ?_⟩ <;> (
    apply allIssue; simp only [addrReady_iff, inTarn_iff, permitted_iff, TarnOpen, LinesHere, TarnFree, TarnSound, DataReady, Apart]
    decide +kernel)

/-- The destinations of an atomic. -/
def atomDst (x : AtomShape) (e : Env) : Bool :=
  match e.f.dst with
  | .v d => !x.wide e && decide (d.val < e.gr.vregs)
  | .s _ => e.uniform e.f.a && e.uniform e.f.b && (x.srcs e).all e.uniform
  | .none => true
  | _ => false
/-- `AtomReady` but for `form`, in parts that evaluate. -/
def AtomOk (x : AtomShape) (s : State) (e : Env) : Prop :=
  AddrReady e true ∧ e.f.scope ≠ 3 ∧ (e.f.scope = 0 ∨ ((e.firstStep s (e.groupIn s).nextIseq s.nextId).isNone = true ∧
    (6 ≤ e.f.scope → (s.flushWritten e.g.team e.g.gid e.f.scope).markersOf
      (e.sources (s.flushWritten e.g.team e.g.gid e.f.scope)) (e.f.scope == 7) = []))) ∧
  ((x.srcs e).any e.pendSrc = false ∧ e.pendDst e.f.dst = false) ∧ atomDst x e = true ∧
  (x.wide e = true → isSPair e.f.a = true ∧ e.uniform e.f.b = true ∧ (x.srcs e).all e.uniform = true) ∧ ∀ a ∈ x.accs e,
    Permitted s e (fun a => a.k.kind = 0 ∧ isDev a.ea.toNat = true) [pLD, pST] (x.bytes e) (x.bytes e) a ∧
      Storable s (e.lbls (x.data e)) (x.bytes e) a
theorem atomReady {x : AtomShape} {s : State} {e : Env} (hf : x.ok e) (h : AtomOk x s e) : AtomReady x s e := by
  refine ⟨hf, h.1, h.2.1, h.2.2.1.imp_right (fun x => ⟨Option.isNone_iff_eq_none.mp x.1, x.2⟩), h.2.2.2.1, ?_, h.2.2.2.2.2.1, h.2.2.2.2.2.2⟩
  have h5 := h.2.2.2.2.1
  clear h hf
  unfold atomDst at h5
  cases hd : e.f.dst <;> simp_all [and_assoc]
/-- With nothing under way. -/
def AtomQuiet (x : AtomShape) (s : State) (e : Env) : Prop := (e.g.loads = [] ∧ s.atoms = []) ∧ s.copies = [] ∧ AtomOk x s e
set_option synthInstance.maxSize 2000 in
theorem test_wit_AtomicsIssue : AllIssue [.atom { F0 with dst := .v 383, a := .s 4, c := .v 2, mod := 0x36, qual := 7 },
      .atom { F0 with dst := .s 0, a := .s 4, c := .s 2 }] (caps memCap) false
      (fun e => e.f.mod.getLsbD 3 = false ∧ AtomQuiet atomShape (caps memCap) e) ∧
    AllIssue [.atomf { F0 with dst := .v 0, a := .s 4, c := .v 2, mod := 0x27 }] (caps memCap) false
      (fun e => (e.f.mod.getLsbD 3 = false ∧ e.f.op2 ≠ 1) ∧ AtomQuiet atomfShape (caps memCap) e) ∧
    AllIssue [.cas { F0 with dst := .v 0, a := .s 4, c := .v 2, d := .v 3, mod := 1 }, .cas { F0 with dst := .s 0, a := .s 4, c := .s 2, d := .s 3 }]
      (caps memCap) false (fun e => (e.f.mod.toNat < 8 ∧ e.f.c.isS = e.f.d.isS) ∧ AtomQuiet casShape (caps memCap) e) ∧
    AllIssue [.atomfAddOrd { F0 with a := .s 4, b := .v 1, c := .v 2, mod := 0x16 }] (spread memCap 4) false
      (fun e => (e.f.mod.getLsbD 3 = false ∧ e.f.op2 = 1 ∧ e.f.dst = .none) ∧ AtomQuiet atomfOrdShape (spread memCap 4) e) := by
  refine ⟨?_, ?_, ?_, ?_⟩ <;> (apply allIssue; simp only [AtomQuiet, AtomOk, addrReady_iff, permitted_iff, storable_iff]; decide +kernel)

/-- One request of four or eight bytes at its engine. -/
def requested (op : AtomOp) (w : Nat) : State :=
  { base with atoms := [(9, ⟨9, 2, 0, 0, op, w, 0, [⟨0, 0x20000, 5, 0, 0, 1⟩]⟩)] }
theorem atomAlone_iff {s : State} {r : AtomReq} {x : AtomElem} {g : Group} {t : Team} {gr : Grid} : AtomAlone s r x g t gr ↔
    (r.elems = [x] ∧ s.group? r.team r.gid = some g ∧ s.team? r.team = some t ∧ s.grid? t.grid = some gr ∧
      (∀ p ∈ s.atoms, p.2 = r ∨ p.2.meets x.addr r.width = false) ∧
      (∀ k ∈ s.copies, k.line = x.addr / 128 → k.colour = x.colour → k.isDirty = false) ∧
      s.badSec? x.addr r.width = none ∧ s.coAt x.addr r.width = false ∧ s.syncs = [] ∧
      s.grids.any (fun p => p.2.ovflMeets x.addr r.width) = false) :=
  ⟨fun h => ⟨h.1, h.2, h.3, h.4, h.5, h.6, h.7, h.8, h.9, h.10⟩, fun ⟨h1, h2, h3, h4, h5, h6, h7, h8, h9, h10⟩ =>
    ⟨h1, h2, h3, h4, h5, h6, h7, h8, h9, h10⟩⟩
theorem test_wit_AtomicApplied : ∀ p ∈ [(AtomOp.add, 4), (.cas, 8), (.ord, 4)], let s := requested p.1 p.2
    AtomAlone s ⟨9, 2, 0, 0, p.1, p.2, 0, [⟨0, 0x20000, 5, 0, 0, 1⟩]⟩ ⟨0, 0x20000, 5, 0, 0, 1⟩ b0.g b0.t b0.gr ∧
      s.boundV = [] ∧ s.atomFirst ⟨9, 2, 0, 0, p.1, p.2, 0, [⟨0, 0x20000, 5, 0, 0, 1⟩]⟩ = true ∧
      (s.wdrrPick (s.turn (.atomic 0)) (s.atomFns 0)).map (·.1) = some (s.fnOfTeam 2) ∧ (p.2 = 4 ∨ p.2 = 8) ∧ isDev (0x20000 + p.2) = true ∧
      (s.contribs.filter (fun c => c.cluster == s.homeCluster 0x20000 && c.entry.isNone)).length < 65536 := by
  simp only [atomAlone_iff]; decide +kernel


/-! ### Witnesses: sync objects, fences, queues -/

/-- A sync object. -/
def syncCap : TCap := rootCap 4 0 1 [pLD, pST, pGLOBAL] 0x21000 8
/-- Entry 15 of the team holds it, V is 7, s0 is 7 and s1 is 8. -/
def bound : State := mk (fun g => (g.sset 0 7).sset 1 8) (fun t => { t with binds := [(15, ⟨syncCap, memCap, 1, 1⟩)] }) id id
  (fun s => { s with mem := setBytes s.mem 0x21000 [7] })

theorem syncUsable_iff {s : State} {e : Env} {k : TCap} : SyncUsable s e k ↔ ((k.tag = true ∧ k.otype = 0 ∧ k.kind = 4 ∧
    s.permits e.ctx k.col = true ∧ ∀ p ∈ [pLD, pST], k.has p = true) ∧ k.inBounds k.addr 8 = true ∧ isDev k.addr = true ∧ k.addr % 8 = 0) :=
  ⟨fun h => ⟨⟨h.1.1, h.1.2, h.1.3, h.1.4, h.1.5⟩, h.2, h.3, h.4⟩, fun ⟨⟨h1, h2, h3, h4, h5⟩, h6, h7, h8⟩ => ⟨⟨h1, h2, h3, h4, h5⟩, h6, h7, h8⟩⟩
theorem unheld_iff {s : State} {team gid upto id : Nat} : Unheld s team gid upto id ↔ ((s.group? team gid).all (fun g => g.earlierWaits upto == false) = true ∧
    (∀ p ∈ s.wins, ¬(p.2.byTeam = team ∧ p.2.byGid = gid ∧ p.2.load = none ∧ p.1 < id)) ∧
    ∀ p ∈ s.atoms, ¬(p.2.team = team ∧ p.2.gid = gid ∧ p.2.iseq < upto)) := by
  constructor
  · intro h
    refine ⟨?_, h.wins, h.atoms⟩
    cases hg : s.group? team gid with
    | none => rfl
    | some g => simp [h.loads g hg]
  · intro h
    refine ⟨fun g hg => ?_, h.2.1, h.2.2⟩
    have := h.1; rw [hg] at this; simpa using this
theorem usable_iff {s : State} {e : Env} {k : TCap} {kind : Nat} {ps : List Nat} : Usable s e k kind ps ↔ (k.tag = true ∧ k.otype = 0 ∧
    k.kind = kind ∧ s.permits e.ctx k.col = true ∧ ∀ p ∈ ps, k.has p = true) :=
  ⟨fun h => ⟨h.1, h.2, h.3, h.4, h.5⟩, fun h => ⟨h.1, h.2.1, h.2.2.1, h.2.2.2.1, h.2.2.2.2⟩⟩

/-- A second capability in s6 and s7. -/
def also (k : TCap) (s : State) : State :=
  { s with groups := s.groups.map (fun p => (p.1, { ((p.2.sset 6 (k.bits.extractLsb' 0 64)).sset 7 (k.bits.extractLsb' 64 64)) with
    stag := p.2.stag ++ [(3, true)] })) }

set_option synthInstance.maxSize 1000 in
theorem test_wit_BindingEntries : AllIssue [.bind { F0 with a := .s 4, qual := 15 }] (caps syncCap) false (fun e => e.f.mod = 0 ∧ EntryOk e ∧
      PairReady e e.f.a ∧ e.any = true ∧ SyncUsable (caps syncCap) e (e.cap e.f.a 0) ∧ e.f.b = .zero) ∧
    AllIssue [.bind { F0 with a := .s 4, b := .s 6 }] (also memCap (caps syncCap)) false (fun e => EntryOk e ∧ PairReady e e.f.a ∧
      SyncUsable (also memCap (caps syncCap)) e (e.cap e.f.a 0) ∧ PairReady e e.f.b ∧
      Usable (also memCap (caps syncCap)) e (e.cap e.f.b 0) 0 []) ∧
    AllIssue [.unbind { F0 with qual := 15 }] base false (fun e => e.f.mod = 0 ∧ EntryOk e ∧ e.f.a = .zero ∧ e.f.b = .zero ∧ e.any = true) := by
  refine ⟨?_, ?_, ?_⟩ <;> (apply allIssue; simp only [EntryOk, PairReady, usable_iff, syncUsable_iff]; decide +kernel)

/-- With a sync object of a colour that the context may not use. -/
def boundLost : State :=
  { bound with teams := bound.teams.map (fun p => (p.1, { p.2 with binds := [(15, ⟨rootCap 4 0 9 [pLD, pST, pGLOBAL] 0x21000 8, memCap, 1, 1⟩)] })) }
theorem test_wit_Acquires : AllIssue [.acq { F0 with mod := 7, qual := 15 }, .acq { F0 with mod := 1, qual := 15 }] bound false (fun e => SyncScope e ∧
      e.f.mod.toNat < 8 ∧ EntryOk e ∧ e.f.a = .zero ∧ e.f.b = .zero ∧ SyncUsable bound e e.entry.sync ∧ e.any = true ∧ e.g.fencing = 0 ∧
      bound.badSec? e.entry.sync.addr 8 = none) ∧
    AllIssue [.acqGe { F0 with a := .s 0, mod := 14, qual := 15 }] bound false (fun e => SyncScope e ∧ e.f.mod.getLsbD 3 = true ∧
      e.f.mod.toNat < 16 ∧ EntryOk e ∧ e.uniform e.f.a = true ∧ e.pendSrc e.f.a = false ∧ e.f.b = .zero ∧ SyncUsable bound e e.entry.sync ∧
      e.any = true ∧ e.g.fencing = 0 ∧ bound.badSec? e.entry.sync.addr 8 = none ∧ (e.read e.f.a e.first).toNat ≤ natOfBytes (bytesAt bound.mem e.entry.sync.addr 8)) ∧
    AllIssue [.acqGe { F0 with a := .s 1, mod := 14, qual := 15 }] bound false (fun e => SyncScope e ∧ EntryOk e ∧
      natOfBytes (bytesAt bound.mem e.entry.sync.addr 8) < (e.read e.f.a e.first).toNat) ∧
    AllIssue [.acq { F0 with mod := 1, qual := 15 }, .acqGe { F0 with a := .s 0, mod := 9, qual := 15 }, .rel { F0 with a := .s 0, mod := 1, qual := 15 }]
      boundLost false (fun e => SyncScope e ∧ EntryOk e ∧ e.any = true ∧ (e.entryFault boundLost).isSome = true) ∧
    AllIssue [.acq { F0 with mod := 1 }] bound false (fun e => SyncScope e ∧ EntryOk e ∧ e.any = true ∧ e.entry.sync.tag = false) := by
  refine ⟨?_, ?_, ?_, ?_, ?_⟩ <;> (apply allIssue; simp only [EntryOk, SyncScope, syncUsable_iff]; decide +kernel)

/-- With a write sent to another die. -/
def boundSent : State := { bound with sent := [(.cache (.l1 0), 3)] }
/-- With a load that has not read. -/
def boundLoad : State :=
  { bound with groups := bound.groups.map (fun p => (p.1, { p.2 with
      loads := [⟨0, 0, 0x10000, .v 5, .plain 2 0 false, [⟨15, 0x20004, 4, [], false, 1, .waiting⟩]⟩], nextIseq := 1 })) }
/-- With a load that waits for a page. -/
def boundPage : State :=
  { bound with groups := bound.groups.map (fun p => (p.1, { p.2 with
      loads := [⟨0, 0, 0x10000, .v 5, .plain 2 0 false, [⟨15, 2 ^ 55 + 4, 4, [], false, 1, .pageWait (2 ^ 55 + 4)⟩]⟩], nextIseq := 1 })) }
/-- What every release needs. -/
def RelOk (s : State) (e : Env) : Prop :=
  SyncScope e ∧ e.f.mod.getLsbD 3 = false ∧ e.f.op2 ≠ 3 ∧ EntryOk e ∧ e.uniform e.f.a = true ∧ e.pendSrc e.f.a = false ∧ e.f.b = .zero ∧
    SyncUsable s e e.entry.sync ∧ e.any = true ∧ e.g.fencing = 0 ∧ s.badSec? e.entry.sync.addr 8 = none ∧ HostSettled e ∧ s.syncs = []
theorem test_wit_Releases : AllIssue [.rel { F0 with a := .s 0, mod := 0x26, qual := 15 }, .rel { F0 with a := .s 0, mod := 1, qual := 15 }]
      bound false (fun e => RelOk bound e ∧ IssuesUnheld e bound ∧ bound.copies = [] ∧ bound.contribs = [] ∧
      (if 6 ≤ e.f.scope then bound.markersOf (e.sources bound) (e.f.scope == 7) else []) = []) ∧
    AllIssue [.rel { F0 with a := .s 0, mod := 6, qual := 15 }] boundSent false (fun e => RelOk boundSent e ∧ 6 ≤ e.f.scope ∧
      IssuesUnheld e boundSent ∧ boundSent.copies = [] ∧ boundSent.contribs = [] ∧
      boundSent.markersOf (e.sources boundSent) (e.f.scope == 7) ≠ []) ∧
    AllIssue [.rel { F0 with a := .s 0, mod := 6, qual := 15 }] boundLoad false (fun e => RelOk boundLoad e ∧
      e.g.earlierWaits e.g.nextIseq = true) ∧
    AllIssue [.rel { F0 with a := .s 0, mod := 6, qual := 15 }, .fence { F0 with mod := 6 }] boundPage false (fun e => e.f.scope ≠ 3 ∧ e.any = true ∧
      e.g.fencing = 0 ∧ e.g.firstPage = some (15, 2 ^ 55 + 4) ∧ ∀ ld ∈ e.g.loads, ∀ x ∈ ld.elems, x.status = .waiting → isHost x.addr = false) ∧
    AllIssue [.rel { F0 with a := .s 0, mod := 6, qual := 15 }] boundPage false (fun e => EntryOk e ∧ SyncUsable boundPage e e.entry.sync) := by
  refine ⟨?_, ?_, ?_, ?_, ?_⟩ <;> (apply allIssue; simp only [RelOk, EntryOk, SyncScope, syncUsable_iff, HostSettled, IssuesUnheld, unheld_iff]; decide +kernel)

/-- A release, a fence or the completion of a grid, that waits for two markers. -/
def marked2 (k : SyncKind) : State :=
  mk (fun g => { g with fencing := if k = .fence then 5 else 0 }) id id id
    (fun s => { s with syncs := [(5, ⟨5, 2, 0, k, 6, 1, true, [], [(3, 0), (3, 1)]⟩)] })
theorem test_wit_MarkerArrives : (∀ k ∈ [SyncKind.rel 0x21000 0 1, .fence, .gather, .grid 1], (marked2 k).syncs.map (fun p => p.2.kind) = [k] ∧
      (marked2 k).copies = [] ∧ (marked2 k).contribs = []) ∧ (marked2 (.rel 0x21000 0 1)).badSec? 0x21000 8 = none ∧
    [((3 : Nat), (0 : Nat)), (3, 1)].contains (3, 1) = true ∧ (∀ m ∈ [((3 : Nat), (1 : Nat))], m = (3, 1)) ∧
    ((marked2 .fence).group? 2 0).map (fun g => (g.team, g.gid, g.fencing, g.earlierWaits 1)) = some (2, 0, 5, false) ∧
    ((marked2 (.grid 1)).grid? 1).map (·.id) = some 1 ∧ Unheld (marked2 .fence) 2 0 1 5 := by simp only [unheld_iff]; decide +kernel

theorem quiet_iff {e : Env} {s : State} : Quiet e s ↔ ((e.g.loads = [] ∧ s.atoms = []) ∧ IssuesUnheld e s ∧ s.copies = [] ∧ s.sent = [] ∧ s.syncs = [] ∧
    s.contribs = []) := ⟨fun h => ⟨h.1, h.2, h.3, h.4, h.5, h.6⟩, fun ⟨h1, h2, h3, h4, h5, h6⟩ => ⟨h1, h2, h3, h4, h5, h6⟩⟩
/-- One contribution of the grid, to a word. -/
def contributed (a : Nat) : State :=
  let s := caps memCap
  { s with contribs := [⟨1, 2, 0, 0, 0, a, 0x3F800000, 0, 0, none⟩] }
/-- Nothing under way. -/
def NoneOut (e : Env) (s : State) : Prop := (e.g.loads = [] ∧ s.atoms = []) ∧ s.copies = [] ∧ s.sent = [] ∧ s.syncs = []
theorem test_wit_FencesAndFlushes : AllIssue [.fence F0, .fence { F0 with mod := 7 }] base false (fun e => e.f.scope ≠ 3 ∧ e.f.mod.toNat < 8 ∧
      e.f.qual = 0 ∧ e.any = true ∧ e.g.fencing = 0 ∧ HostSettled e ∧ Quiet e base) ∧
    AllIssue [.fence { F0 with mod := 6 }] boundLoad false (fun e => e.f.scope ≠ 3 ∧ e.f.mod.toNat < 8 ∧ e.f.qual = 0 ∧ e.any = true ∧
      e.g.fencing = 0 ∧ HostSettled e ∧ boundLoad.syncs = [] ∧ e.g.earlierWaits e.g.nextIseq = true) ∧
    (∀ a ∈ [0x20FFC, 0x20FFD], AllIssue [.ordflush { F0 with a := .s 4, mod := 6 }] (contributed a) false (fun e => SyncScope e ∧
      e.f.mod.toNat < 8 ∧ e.f.qual = 0 ∧ PairReady e e.f.a ∧ e.f.b = .zero ∧ e.any = true ∧
      Usable (contributed a) e (e.cap e.f.a 0) 0 [pST] ∧ e.g.fencing = 0 ∧ NoneOut e (contributed a) ∧
      (contributed a).contribs.map (fun c => (c.grid, c.entry)) = [(e.gr.id, none)] ∧ (contributed a).badSec? a 4 = none ∧
      (contributed a).coAt a 4 = false ∧ (e.cap e.f.a 0).inBounds a 4 = decide (a < 0x20FFD))) := by
  refine ⟨?_, ?_, ?_⟩
  · apply allIssue; simp only [quiet_iff, HostSettled, IssuesUnheld, unheld_iff]; decide +kernel
  · apply allIssue; simp only [HostSettled]; decide +kernel
  · simp only [List.forall_mem_cons]
    refine ⟨?_, ?_, by simp⟩ <;> (apply allIssue; simp only [SyncScope, PairReady, usable_iff, NoneOut]; decide +kernel)

theorem test_wit_LinesAndTaint : AllIssue [.l2pin { F0 with a := .s 4 }, .l2unpin { F0 with a := .s 4 }] (caps memCap) false
      (fun e => Bare e ∧ PairReady e e.f.a ∧ e.f.b = .zero ∧ e.any = true ∧ Usable (caps memCap) e (e.cap e.f.a 0) 0 [pLD]) ∧
    AllIssue [.prefetch { F0 with a := .s 4 }] (caps TCap.null) false (fun e => e.f.mod = 0 ∧ e.f.qualOk false = true ∧
      e.capSrcOk e.f.a = true ∧ e.capPend e.f.a = false ∧ e.pendSrc e.f.b = false) ∧
    AllIssue [.tclr { F0 with dst := .v 383, qual := 0xFE }, .tclr { F0 with dst := .s 63 }] base false
      (fun e => e.f.mod = 0 ∧ e.pendDst e.f.dst = false ∧ e.any = true) := by
  refine ⟨?_, ?_, ?_⟩ <;> (apply allIssue; simp only [Bare, PairReady, usable_iff]; decide +kernel)

/-- The group with one load in a state of its one element. -/
def loadIn (st : ElemStatus) : State :=
  mk (fun g => { g with loads := [⟨0, 7, 0x10000, .v 5, .plain 2 0 false, [⟨15, 0x20004, 4, [], false, 1, st⟩]⟩] })
theorem test_wit_QueueWait : (∀ s ∈ [loadIn .delivered, loadIn .waiting, loadIn (.failed cCOREAD 0x20004)],
      ∀ i ∈ [Instr.qwait { F0 with qual := 7 }, .qwait { F0 with mod := 1 }],
      ∃ h : (envAt i s).isSome = true, ((envAt i s).get h).decodeCheck false = none ∧ ((envAt i s).get h).any = true) ∧
    cCOREAD ≠ cHPAGE := by decide +kernel


/-! ### Witnesses: capabilities and labels -/

/-- What capability instructions share. -/
def CapForm (us : Env → List Src) (e : Env) : Prop :=
  e.f.qual = 0 ∧ e.capDstOk e.f.dst = true ∧ e.dstOk false (us e) = true ∧ e.shapePendDst e.f.dst 4 2 = false
/-- The capability in s4 and s5, another one in s6 and s7. -/
def two (k j : TCap) : State := also j (caps k)
/-- Fields s8 from s4. -/
def K1 : Fields := { F0 with dst := .s 8, a := .s 4 }

set_option synthInstance.maxSize 1000 in
theorem test_wit_CapabilityDerivation : AllIssue [.kmov K1, .kmov { K1 with dst := .v 380 }] (caps memCap) false
      (fun e => CapForm (fun e => [e.f.a]) e ∧ e.f.mod = 0 ∧ CapArg e e.f.a ∧ e.f.b = .zero) ∧
    AllIssue [.kmov { F0 with dst := .s 8, mod := 1 }, .kmov { F0 with dst := .s 8, mod := 2 }, .kmov { F0 with dst := .s 8, mod := 3 }] base false
      (fun e => CapForm (fun _ => []) e ∧ e.f.a = .zero ∧ e.f.b = .zero) ∧
    AllIssue [.kbound { K1 with b := .imm 511 }, .kaddr { K1 with b := .imm 511 }, .kadd { K1 with b := .imm 0 }] (caps memCap) false
      (fun e => CapForm (fun e => [e.f.a, e.f.b]) e ∧ e.f.mod.toNat < 2 ∧ CapInt e ∧ ∀ i ∈ e.parts, Derivable (e.cap e.f.a i)) ∧
    AllIssue [.kbound { K1 with b := .s 8, mod := 1 }] (caps memCap) false (fun e => CapInt e ∧ ∀ i ∈ e.parts,
      Derivable (e.cap e.f.a i) ∧ ((e.cap e.f.a i).tag = true → (boundCap (e.cap e.f.a i) 0 true).2 = false)) ∧
    AllIssue [.kperm { K1 with b := .s 8 }] (mk (fun g => g.sset 8 0xFFF)) false (fun e => CapForm (fun e => [e.f.a, e.f.b]) e ∧ e.f.mod = 0 ∧
      CapInt e ∧ ∀ i ∈ e.parts, (e.capInt e.f.b false i).toNat < 2 ^ 12 ∧ ((e.cap e.f.a i).tag = true → (e.cap e.f.a i).otype = 0)) ∧
    AllIssue [.kperm { K1 with b := .s 8, mod := 1 }] (mk (fun g => g.sset 8 0x3FFF)) false (fun e => CapForm (fun e => [e.f.a, e.f.b]) e ∧
      e.f.mod = 1 ∧ CapInt e ∧ ∀ i ∈ e.parts, (e.capInt e.f.b false i).toNat < 2 ^ 14 ∧
        ((e.cap e.f.a i).tag = true → (e.cap e.f.a i).otype = 0)) := by
  refine ⟨?_, ?_, ?_, ?_, ?_, ?_⟩ <;> (apply allIssue; simp only [CapForm, CapArg, CapInt, Derivable]; decide +kernel)
theorem test_wit_DerivationNeverAdds : (boundCap memCap 0x1000 true).2 = false ∧ (boundCap memCap 0x1001 true).2 = true ∧
    (AtCursor memCap 0x20FFF).tag = true ∧ memCap.addr + 8192 ≤ 2 ^ 56 := by decide +kernel

/-- A sealer, its cursor at a type. -/
def sealer (t : Nat) : TCap := (rootCap 0 0 1 [pSEAL, pUNSEAL] 1 61).withAddr t
theorem sealer_iff {e : Env} {b : TCap} {p : Nat} : Sealer e b p ↔ (b.tag = true ∧ b.otype = 0 ∧ b.kind = 0 ∧
    e.ctx.permits b.col = true ∧ b.has p = true ∧ b.inBounds b.addr 1 = true ∧ (1 ≤ b.addr ∧ b.addr ≤ 61)) :=
  ⟨fun h => ⟨h.1, h.2, h.3, h.4, h.5, h.6, h.7⟩, fun ⟨h1, h2, h3, h4, h5, h6, h7⟩ => ⟨h1, h2, h3, h4, h5, h6, h7⟩⟩
set_option synthInstance.maxSize 1000 in
theorem test_wit_CapabilitySeals : AllIssue [.kseal { K1 with b := .s 6 }] (two memCap (sealer 61)) false
      (fun e => CapForm (fun e => [e.f.a, e.f.b]) e ∧ e.f.mod = 0 ∧ CapArg e e.f.a ∧ CapArg e e.f.b ∧ ∀ i ∈ e.parts,
        (e.cap e.f.a i).tag = true ∧ (e.cap e.f.a i).otype = 0 ∧ Sealer e (e.cap e.f.b i) pSEAL) ∧
    AllIssue [.kseal { K1 with mod := 1 }] (caps codeCap) false (fun e => CapForm (fun e => [e.f.a]) e ∧ e.f.mod = 1 ∧ CapArg e e.f.a ∧
      e.f.b = .zero ∧ ∀ i ∈ e.parts, (e.cap e.f.a i).tag = true ∧ (e.cap e.f.a i).otype = 0 ∧ (e.cap e.f.a i).kind = 1 ∧
        (e.cap e.f.a i).has pEXEC = true) ∧
    AllIssue [.kunseal { K1 with b := .s 6 }] (two (memCap.withOtype 1) (sealer 1)) false
      (fun e => CapForm (fun e => [e.f.a, e.f.b]) e ∧ e.f.mod = 0 ∧ CapArg e e.f.a ∧ CapArg e e.f.b ∧ ∀ i ∈ e.parts,
        (e.cap e.f.a i).tag = true ∧ 1 ≤ (e.cap e.f.a i).otype ∧ (e.cap e.f.a i).otype ≤ 61 ∧
        (e.cap e.f.b i).addr = (e.cap e.f.a i).otype ∧ Sealer e (e.cap e.f.b i) pUNSEAL) := by
  refine ⟨?_, ?_, ?_⟩ <;> (apply allIssue; simp only [CapForm, CapArg, sealer_iff]; decide +kernel)

/-- The context with one slot of its grant table in use: team 0 of grid 1 may take `memCap`. -/
def granted (k : TCap) : State :=
  { caps k with ctxs := base.ctxs.map (fun p => (p.1, { p.2 with grants := [(0, ⟨1, some (memCap, .team 1 0, 1)⟩)] })) }
/-- Its token. -/
def token : TCap := grantToken memCap 1 0 1 (.team 1 0) 0
set_option synthInstance.maxSize 1000 in
theorem test_wit_Delegation : AllIssue [.kdeleg { K1 with b := .zero, c := .imm 511, d := .imm 511 }] (caps memCap) false (fun e => Bare e ∧
      PairReady e e.f.a ∧ (∃ n : Fin 64, e.f.dst = .s n ∧ n.val % 2 = 0) ∧ e.uniform e.f.b = true ∧ e.uniform e.f.c = true ∧
      e.uniform e.f.d = true ∧ e.pendSrc e.f.b = false ∧ e.pendSrc e.f.c = false ∧ e.pendSrc e.f.d = false ∧
      e.shapePendDst e.f.dst 4 2 = false ∧ e.any = true ∧
      e.recipient (caps memCap) (e.capInt e.f.b false e.first).toNat = some (.team 1 0) ∧ (e.capInt e.f.c false e.first).toNat < 4096 ∧
      (e.cap e.f.a 0).tag = true ∧ (e.cap e.f.a 0).otype = 0 ∧ (e.cap e.f.a 0).kind ≤ 4 ∧ e.ctx.permits (e.cap e.f.a 0).col = true ∧
      (e.cap e.f.a 0).has pDELEG = true ∧ (e.cap e.f.a 0).has pGLOBAL = true ∧
      (boundCap (e.cap e.f.a 0) (e.capInt e.f.d false e.first).toNat false).2 = false ∧ e.ctx.freeGrant = some 0) ∧
    AllIssue [.kunsealGrant { K1 with mod := 1 }] (granted token) false (fun e => CapForm (fun e => [e.f.a]) e ∧ e.f.mod = 1 ∧
      CapArg e e.f.a ∧ e.f.b = .zero ∧ ∀ i ∈ e.parts, (e.cap e.f.a i).tag = true ∧ (e.cap e.f.a i).otype = 62 ∧
        (e.cap e.f.a i).kind ≤ 4 ∧ e.ctx.permits (e.cap e.f.a i).col = true ∧
        ((granted token).tokenEntry (e.cap e.f.a i)).any e.isRecipient = true) := by
  refine ⟨?_, ?_⟩ <;> (apply allIssue; simp only [Bare, PairReady, CapForm, CapArg]; decide +kernel)

theorem test_wit_TestsAndRevocation : AllIssue [.kget { R1 with a := .s 4, mod := 27 }] (caps memCap) true (fun e => e.f.mod.toNat % 16 < 12 ∧
      e.f.mod.toNat < 32 ∧ e.f.qual = 0 ∧ CapArg e e.f.a ∧ e.f.b = .zero ∧ (dstC e.f.dst).isSome = false ∧
      e.dstOk false [e.f.a] = true ∧ e.pendDst e.f.dst = false) ∧
    AllIssue [.ktest { R2 with dst := .c 0, a := .s 4, b := .s 6, mod := 1 }] (two memCap codeCap) true (fun e => e.f.mod.toNat < 2 ∧
      e.f.qual = 0 ∧ CapArg e e.f.a ∧ CapArg e e.f.b ∧ e.dstOk false [e.f.a, e.f.b] = true ∧ e.pendDst e.f.dst = false) ∧
    AllIssue [.krevoke { F0 with a := .s 4 }] (caps memCap) false (fun e => Bare e ∧ PairReady e e.f.a ∧ e.f.b = .zero ∧ e.any = true ∧
      (e.cap e.f.a 0).tag = true ∧ (e.cap e.f.a 0).col = e.ctx.colour ∧ (e.cap e.f.a 0).otype = 0 ∧ (e.cap e.f.a 0).kind = 0 ∧
      (e.cap e.f.a 0).bounds.1 % 64 = 0 ∧ (e.cap e.f.a 0).bounds.2 % 64 = 0 ∧ 0 ≤ (e.cap e.f.a 0).bounds.1 ∧
      (e.cap e.f.a 0).bounds.2 ≤ ((caps memCap).reservedBase : Int)) ∧
    AllIssue [.krevoke { F0 with a := .s 4 }] (granted token) false (fun e => Bare e ∧ PairReady e e.f.a ∧ e.any = true ∧
      (e.cap e.f.a 0).tag = true ∧ (e.cap e.f.a 0).col = e.ctx.colour ∧ (e.cap e.f.a 0).otype = 62 ∧
      ((granted token).tokenEntry (e.cap e.f.a 0)).isSome = true) := by
  refine ⟨?_, ?_, ?_, ?_⟩ <;> (apply allIssue; simp only [Bare, PairReady, CapArg]; decide +kernel)

set_option synthInstance.maxSize 1000 in
theorem test_wit_Labels : AllIssue [.lblup { R2 with b := .imm 259 }] base true (fun e => Bare e ∧ (dstC e.f.dst).isSome = false ∧
      (e.f.dst = .none → e.f.lat ≠ 0) ∧ uniformArg e.f.b = true ∧ e.dstOk false [e.f.a] = true ∧ e.pendSrc e.f.a = false ∧
      e.pendSrc e.f.b = false ∧ e.pendDst e.f.dst = false ∧ (e.read32 e.f.b e.first).toNat ≤ 3) ∧
    AllIssue [.lbldn { R3 with b := .s 4, c := .imm 256 }, .lbldn { R3 with a := .s 2, b := .s 4, c := .imm 256 },
      .lbldn { R3 with dst := .s 1, a := .s 2, b := .s 4, c := .imm 256 }] (caps (rootCap 0 3 1 [pDECLASS] 0x20000 16)) false (fun e => Bare e ∧ PairReady e e.f.b ∧
      uniformArg e.f.c = true ∧ e.pendSrc e.f.a = false ∧ e.pendSrc e.f.c = false ∧ e.pendDst e.f.dst = false ∧ e.any = true ∧
      (e.read32 e.f.c e.first).toNat ≤ 3 ∧ (e.cap e.f.b 0).tag = true ∧ (e.cap e.f.b 0).otype = 0 ∧ (e.cap e.f.b 0).kind = 0 ∧
      e.ctx.permits (e.cap e.f.b 0).col = true ∧ (e.cap e.f.b 0).has pDECLASS = true ∧ (e.lblOf e.f.a).toNat ≤ (e.cap e.f.b 0).lbl.toNat) ∧
    AllIssue [.lblget R1] base true (fun e => e.f.mod = 0 ∧ e.f.qual = 0 ∧ e.f.b = .zero ∧ (dstC e.f.dst).isSome = false ∧
      e.dstOk false [e.f.a] = true ∧ e.pendSrc e.f.a = false ∧ e.pendDst e.f.dst = false) ∧
    AllIssue [.lblget { R1 with a := .s 4, mod := 1 }] (caps (memCap.withAddr 0x20FFF)) false (fun e => e.f.mod = 1 ∧ e.f.qual = 0 ∧ e.f.b = .zero ∧
      CapArg e e.f.a ∧ e.dstOk false [e.f.a] = true ∧ e.pendDst e.f.dst = false ∧ ∀ i ∈ e.actors e.f.a.isS,
        Usable (caps (memCap.withAddr 0x20FFF)) e (e.cap e.f.a i) 0 [pLD] ∧ isDev (e.cap e.f.a i).addr = true ∧
        (e.cap e.f.a i).inBounds (e.cap e.f.a i).addr 1 = true ∧
        (caps (memCap.withAddr 0x20FFF)).badSec? (e.cap e.f.a i).addr 1 = none) ∧
    AllIssue [.lblget { F0 with dst := .v 0, mod := 2, qual := 7 }] base true (fun e => e.f.mod = 2 ∧ e.f.qual.toNat < 8 ∧
      e.f.qual.toNat < e.gr.tiles ∧ e.f.a = .zero ∧ e.f.b = .zero ∧ (dstC e.f.dst).isSome = false ∧ e.pendDst e.f.dst = false) := by
  refine ⟨?_, ?_, ?_, ?_, ?_⟩ <;> (apply allIssue; (try simp only [Bare, PairReady, CapArg, usable_iff]); decide +kernel)
theorem test_wit_ResultSideState : AllIssue [.add R2, .subb R2, .mul R2, .andd R2, .orr R2, .xor R2]
    (mk (fun g => g.setVsd 1 { Side.clear with lbl := 3, taint := 0x80 })) true (fun e => TyOnly e ∧ Fits e e.srcs) := by
  apply allIssue; simp only [TyOnly, WideOk, fits_iff]; decide +kernel

/-! ### Witnesses: the matrix array and the vocabulary stream -/

theorem arrayFree_iff {e : Env} {s : State} {ns : List Nat} : ArrayFree e s ns ↔ (e.any = true ∧ s.held e.t.id ns = false ∧
    s.arrFull e.t.id = false) := ⟨fun h => ⟨h.1, h.2, h.3⟩, fun ⟨h1, h2, h3⟩ => ⟨h1, h2, h3⟩⟩
theorem slabOk_iff {e : Env} {s : State} {w c v : Nat} : SlabOk e s w c v ↔ (e.f.qual.getLsbD 7 = false ∧ AccOk e ∧
    (vNum e.f.a = some v ∧ v + (w + e.gr.width - 1) / e.gr.width ≤ e.gr.vregs ∧ e.g.vPend v ((w + e.gr.width - 1) / e.gr.width) = false) ∧
    (UniformReady e e.f.b ∧ 0 ≤ e.sarg e.f.b) ∧
    (e.f.bsrc = false → e.f.tileN < e.gr.tiles ∧ bOff e + c ≤ 65536) ∧
    (e.f.bsrc = true → e.f.tileN = 0 ∧ bOff e + c ≤ e.gr.tarn * 4096 ∧ goneLines (e.t.opCores e.f.pairBit) (bOff e) c = [] ∧
      TarnTurn e s) ∧
    (e.slabBad s v w = none ∧ (e.f.bsrc = true → s.tarnBad (e.t.opCores e.f.pairBit) (bOff e) c = none))) :=
  ⟨fun h => ⟨h.1, h.2, h.3, h.4, h.5, h.6, h.7⟩, fun ⟨h1, h2, h3, h4, h5, h6, h7⟩ => ⟨h1, h2, h3, h4, h5, h6, h7⟩⟩
theorem bandOk_iff {e : Env} {x : Src} {v : Nat} {r : CoreRes} : BandOk e x v r ↔ ((e.f.mod &&& 0x2F = 0 ∧ e.f.qual.toNat < 16) ∧ AccOk e ∧
    (UniformReady e x ∧ e.sarg x % 16 = 0 ∧ 0 ≤ e.sarg x ∧ e.sarg x < 160) ∧
    (v + 2048 / e.gr.width ≤ e.gr.vregs ∧ e.g.vPend v (2048 / e.gr.width) = false) ∧
    (if e.f.pairBit then e.t.cores.drop 1 else e.t.cores.take 1) = [r] ∧ (mget Acc.zero r.accs e.f.accN).stream = false ∧
    (mget Acc.zero r.accs e.f.accN).unwaited = false) :=
  ⟨fun h => ⟨h.1, h.2, h.3, h.4, h.5, h.6, h.7⟩, fun ⟨h1, h2, h3, h4, h5, h6, h7⟩ => ⟨h1, h2, h3, h4, h5, h6, h7⟩⟩

/-- s8 holds a number. -/
def s8 (n : Nat) : State := mk (fun g => g.sset 8 (BitVec.ofNat 64 n))
/-- s8 holds a number and slot 0 a format of code 12. -/
def s8int (n : Nat) : State := mk (fun g => g.sset 8 (BitVec.ofNat 64 n)) id (fun r => { r with fmt := 12 :: List.replicate 7 0 })
/-- The shared premises of `mma`. -/
def MmaForm (s : State) (v : Nat) (e : Env) : Prop :=
  Issuer e ∧ ArrayFree e s (if slotFmt (e.gr.slot e.f.mslot) ≥ 12 then [e.f.accN, e.f.accN + 1] else [e.f.accN]) ∧
    SlabOk e s (geoWords (slotFmt (e.gr.slot e.f.mslot))) (geoChunk (e.gr.slot e.f.mslot)) v ∧
    (slotBpi (e.gr.slot e.f.mslot) = true → slotSparse (e.gr.slot e.f.mslot) = 0) ∧
    (slotFmt (e.gr.slot e.f.mslot) ≥ 12 → e.f.accN % 2 = 0 ∧ e.f.accN + 1 < e.gr.accs ∧ NoStream e)
set_option synthInstance.maxSize 1000 in
theorem test_wit_ArrayOperations :
    AllIssue [.mma { F0 with a := .v 224, b := .s 8, mod := 7, qual := 0x7F }] (s8 448) false (MmaForm (s8 448) 224) ∧
    AllIssue [.mma { F0 with a := .v 0, b := .s 8, mod := 8 }] (s8 192) false (MmaForm (s8 192) 0) ∧
    AllIssue [.mma { F0 with a := .v 0, b := .s 8, qual := 14 }] (s8int 0) false (MmaForm (s8int 0) 0) ∧
    AllIssue [.mscale { F0 with a := .v 374, b := .s 8, mod := 7, qual := 15 }] (s8 511) false (fun e => Issuer e ∧ ArrayFree e (s8 511) [e.f.accN] ∧
      SlabOk e (s8 511) 160 128 374 ∧ e.f.mod.getLsbD 5 = false ∧ e.f.mslot = 0 ∧ NoStream e ∧
      (e.f.bsrc = false → ∀ r ∈ e.t.opCores e.f.pairBit, (mget Tile.zero r.tiles e.f.tileN).co = false)) ∧
    AllIssue [.mzero { F0 with qual := 15 }] base false (fun e => Issuer e ∧ ArrayFree e base [e.f.accN] ∧ AccOnly e ∧ AccOk e ∧ NoStream e) := by
  refine ⟨?_, ?_, ?_, ?_, ?_⟩ <;> (apply allIssue; simp only [MmaForm, Issuer, arrayFree_iff, slabOk_iff, TarnTurn, TarnFree, AccOk, AccOnly, NoStream, UniformReady]; decide +kernel)

/-- A gang of two clusters of one team each. -/
def gang2 : State := mk (fun g => g.sset 8 (15 * 1024 + 1)) id (fun r => { r with vcl := 1, gang := 2 })
set_option synthInstance.maxSize 1000 in
theorem test_wit_DrainIssue : AllIssue [.mdrain { F0 with a := .s 8, qual := 15 }] gang2 false (fun e => Issuer e ∧ e.any = true ∧
      gang2.held e.t.id [e.f.accN] = false ∧ AccOnly e ∧ AccOk e ∧ NoStream e ∧ UniformReady e e.f.a ∧ e.gr.vcl ≠ 0 ∧
      e.f.pairBit = e.gr.pair ∧ drainWord e < 2 ^ 14 ∧ drainWord e % 64 < e.gr.gang ∧ drainWord e % 64 ≠ clusterInGang e.gr e.t.kid ∧
      drainWord e / 64 % 16 < e.gr.vcl ∧ drainWord e / 1024 < e.gr.accs) ∧
    AllIssue [.mrecv { F0 with a := .imm 257, qual := 0x7F }] gang2 false (fun e => Issuer e ∧ e.any = true ∧ e.f.mod &&& 0x2F = 0 ∧
      e.f.qual.getLsbD 7 = false ∧ AccOk e ∧ NoStream e ∧ UniformReady e e.f.a ∧ e.gr.vcl ≠ 0 ∧ e.f.pairBit = e.gr.pair ∧
      accAny (e.t.opCores e.f.pairBit) e.f.accN (·.unwaited) = false ∧ 1 ≤ e.sarg e.f.a ∧ e.sarg e.f.a ≤ (e.gr.gang : Int) - 1) := by
  refine ⟨?_, ?_⟩ <;> (apply allIssue; simp only [Issuer, AccOk, AccOnly, NoStream, UniformReady]; decide +kernel)

theorem test_wit_TileBands : AllIssue [.mrd { F0 with dst := .v 256, a := .s 8, qual := 15 }] (s8 144) false (fun e => Issuer e ∧
      e.f.dst = .v 256 ∧ BandOk e e.f.a 256 (CoreRes.fresh 0 0) ∧ 0 < e.gr.width ∧
      ∀ w ∈ (mget Acc.zero (CoreRes.fresh 0 0).accs e.f.accN).bad, w ∉ e.bandWords (e.sarg e.f.a).toNat) ∧
    AllIssue [.mwr { F0 with a := .v 0, b := .s 8 }] (s8 0) false (fun e => Issuer e ∧ vNum e.f.a = some 0 ∧
      BandOk e e.f.b 0 (CoreRes.fresh 0 0) ∧ e.any = true ∧ 0 < e.gr.width ∧ e.gr.width ≤ 64 ∧
      ∀ w ∈ e.bandWords 0, 64 * (0 + w / e.gr.width) + w % e.gr.width ∉ e.g.vbad) := by
  refine ⟨?_, ?_⟩ <;> (apply allIssue; simp only [Issuer, bandOk_iff, AccOk, UniformReady]; decide +kernel)

/-- An `mzero` of a0 that has completed or not; a failure of a15 or none. -/
def zeroing (done : Bool) (err : Byte) : State :=
  mk id (fun t => { t with mrecs := [(15, { MRec.zero with err := err, errAt := 0x20000 })] }) id id (fun s => { s with
    arrops := [(9, ⟨9, 2, 0, false, .mzero, 0, none, done, false, 1, []⟩)] })
/-- The shared premises of `mwait`. -/
def MwaitForm (e : Env) : Prop :=
  Issuer e ∧ e.any = true ∧ e.f.mod.toNat < 2 ∧ (if e.f.mod = 1 then e.f.qual = 0 else e.f.qual.toNat < 16 ∧ e.f.accN < e.gr.accs)
/-- The set of an `mwait`. -/
def mwaitMask (e : Env) : BitVec 16 := if e.f.mod = 1 then 0xFFFF else e.t.mwaitSet e.f.accN
theorem test_wit_MatrixWait : AllIssue [.mwait { F0 with mod := 1 }, .mwait F0] (zeroing true 0) false (fun e => MwaitForm e ∧
      (zeroing true 0).mwaitReady e.t (mwaitMask e) = true ∧ e.t.mwaitFault (mwaitMask e) = none) ∧
    AllIssue [.mwait { F0 with mod := 1 }, .mwait F0] (zeroing false 0) false (fun e => MwaitForm e ∧
      (zeroing false 0).mwaitReady e.t (mwaitMask e) = false) ∧
    AllIssue [.mwait { F0 with mod := 1 }, .mwait { F0 with qual := 15 }] (zeroing true 7) false (fun e => MwaitForm e ∧
      (zeroing true 7).mwaitReady e.t (mwaitMask e) = true ∧ e.t.mwaitFault (mwaitMask e) = some (15, 7, 0x20000)) := by
  refine ⟨?_, ?_, ?_⟩ <;> (apply allIssue; simp only [MwaitForm, Issuer]; decide +kernel)

/-- A stream of one record a row, without labels, two shards, shard `sh` covered. -/
def stream1 (nsh sh : Nat) : SWord := ⟨true, false, 0, 1, 0, nsh, 100, 0x3F800000, sh, sh, List.replicate 640 0⟩
/-- The team with that stream on a0, and in its tarn the image of shard 0 of the same. -/
def streaming (nsh sh : Nat) (sel : Nat) : State :=
  let core (r : CoreRes) : CoreRes := { r with tarn := [(0, 1), (6, 2), (8, 100), (14, 0x80), (15, 0x3F), (16, 1)] }
  mk (fun g => g.sset 8 (BitVec.ofNat 64 sel)) (fun t => { t with streams := [(0, stream1 nsh sh)], cores := t.cores.map core })
/-- s8 is a configuration, s10 is 1.0. -/
def cfg (k nlbl : Nat) : State := mk (fun g => (g.sset 8 (BitVec.ofNat 64 (k - 1 + 4096 * nlbl + 2 ^ 32 * 100))).sset 10 0x3F800000)
/-- The shared premises of `vinit`. -/
def VinitForm (s : State) (v : Option Nat) (e : Env) : Prop :=
  Issuer e ∧ ArrayFree e s [e.f.accN] ∧ AccOnly e ∧ AccOk e ∧ UniformReady e e.f.b ∧ UniformReady e e.f.c ∧ vNum e.f.a = v ∧
  let c := (e.read e.f.b e.first).toNat
  let w := e.newStream c (e.read32 e.f.c e.first) (vNum e.f.a)
  (∀ n ∈ v.toList, w.nlbl ≠ 0 ∧ n + (639 + e.gr.width) / e.gr.width ≤ e.gr.vregs ∧ e.g.vPend n ((639 + e.gr.width) / e.gr.width) = false ∧ e.slabBadIn s n ((List.range 640).filter (fun i => decide (i % 4 < w.nlbl))) = none) ∧
  (vNum e.f.a = none → e.f.a = .zero ∧ w.nlbl = 0) ∧ w.k ≤ 256 ∧ w.nlbl ≤ 4 ∧ w.shlo < w.nsh ∧ c / 2 ^ 31 % 2 = 0 ∧
  posFinite (e.read32 e.f.c e.first) = true ∧ (mget MRec.zero e.t.mrecs e.f.accN).owed = false ∧ e.t.imageClash e.f.accN w = false ∧
  w.base + w.imageLen ≤ e.gr.mscr * 16384 ∧ spillBad e.gr w = false
set_option synthInstance.maxSize 1000 in
theorem test_wit_StreamIssue :
    AllIssue [.vinit { F0 with b := .s 8, c := .s 10, qual := 15 }] (cfg 1 0) false (VinitForm (cfg 1 0) none) ∧
    AllIssue [.vinit { F0 with a := .v 344, b := .s 8, c := .s 10 }] (cfg 1 4) false (VinitForm (cfg 1 4) (some 344)) ∧
    AllIssue [.vfold { F0 with a := .s 8 }] (streaming 2 1 0) false (fun e => Issuer e ∧ ArrayFree e (streaming 2 1 0) [e.f.accN] ∧
      e.f.mod.getLsbD 5 = false ∧ e.f.qual.getLsbD 7 = false ∧ AccOk e ∧ e.f.tileN = 0 ∧ e.f.mslot = 0 ∧ UniformReady e e.f.a ∧
      StreamOk e ∧ e.f.pairBit = (e.t.stream e.f.accN).pairs) ∧
    AllIssue [.vfoldBwd { F0 with a := .s 8, mod := 7, qual := 0x70 }] (streaming 1 0 0) false (fun e => Issuer e ∧
      ArrayFree e (streaming 1 0 0) [e.f.accN] ∧ e.f.mod.getLsbD 5 = false ∧ e.f.qual.getLsbD 7 = false ∧ AccOk e ∧ e.f.tileN < e.gr.tiles ∧
      UniformReady e e.f.a ∧ StreamOk e ∧ e.f.pairBit = (e.t.stream e.f.accN).pairs ∧ (e.t.stream e.f.accN).shlo = 0 ∧
      (e.t.stream e.f.accN).shhi + 1 = (e.t.stream e.f.accN).nsh ∧ slotFmt (e.gr.slot e.f.mslot) ≤ 3 ∧
      slotSparse (e.gr.slot e.f.mslot) = 0 ∧ slotRm (e.gr.slot e.f.mslot) ≠ .stoch ∧
      ∀ r ∈ e.t.opCores e.f.pairBit, (mget Tile.zero r.tiles e.f.tileN).co = false) := by
  refine ⟨?_, ?_, ?_, ?_⟩ <;> (apply allIssue; simp only [VinitForm, Issuer, arrayFree_iff, AccOk, AccOnly, UniformReady, StreamOk]; decide +kernel)

/-- The core of `streaming`. -/
def streamCore : CoreRes := { CoreRes.fresh 0 0 with tarn := [(0, 1), (6, 2), (8, 100), (14, 0x80), (15, 0x3F), (16, 1)] }
theorem test_wit_StreamIssue_merge : AllIssue [.vmerge { F0 with a := .s 8 }] (streaming 2 1 0) false (fun e => Issuer e ∧
      ArrayFree e (streaming 2 1 0) [e.f.accN] ∧ e.f.mod = 0 ∧ e.f.b = .zero ∧ e.f.qual.toNat < 16 ∧ e.f.accN < e.gr.accs ∧ UniformReady e e.f.a ∧ StreamOk e ∧
      e.t.cores.take 1 = [streamCore] ∧
      128 * (e.read32 e.f.a e.first).toNat + (10304 + 1280 * (e.t.stream e.f.accN).k) ≤ e.gr.tarn * 4096 ∧
      goneLines [streamCore] (128 * (e.read32 e.f.a e.first).toNat) (10304 + 1280 * (e.t.stream e.f.accN).k) = [] ∧
      incomingBad (e.t.stream e.f.accN) (span streamCore.tarn (128 * (e.read32 e.f.a e.first).toNat)
        (10304 + 1280 * (e.t.stream e.f.accN).k)) = false ∧
      TarnTurn e (streaming 2 1 0) ∧
      (streaming 2 1 0).tarnBad [streamCore] (128 * (e.read32 e.f.a e.first).toNat) (10304 + 1280 * (e.t.stream e.f.accN).k) = none) := by
  apply allIssue; simp only [Issuer, arrayFree_iff, UniformReady, StreamOk, TarnTurn, TarnFree]; decide +kernel

/-- The shared premises of `vread`. -/
def VreadForm (e : Env) : Prop :=
  Issuer e ∧ e.any = true ∧ e.f.mod.toNat < 2 ∧ e.f.qual.toNat < 16 ∧ e.f.accN < e.gr.accs ∧ UniformReady e e.f.a ∧
  (e.t.stream e.f.accN).live = true ∧ accAny e.t.cores e.f.accN (·.unwaited) = false ∧ e.t.cores.head? = some streamCore ∧
  (e.t.stream e.f.accN).spilled = false ∧ 0 < e.gr.width ∧
  badIn streamCore.mbad (e.t.stream e.f.accN).base (e.t.stream e.f.accN).imageLen = none
/-- A selector that names a header or records, and the registers that it fills. -/
def VreadItem (v k : Nat) (e : Env) : Prop :=
  VreadForm e ∧ (e.read32 e.f.a e.first).toNat / 256 % 16 < 2 ∧ (e.read32 e.f.a e.first).toNat % 256 < 160 ∧
  v + k ≤ e.gr.vregs ∧ e.g.vPend v k = false
theorem test_wit_StreamRead :
    AllIssue [.vread { F0 with dst := .v 383, a := .s 8, mod := 1 }] (streaming 2 1 159) false (fun e => VreadItem 383 1 e ∧
      (15 + e.gr.width) / e.gr.width = 1) ∧
    AllIssue [.vread { F0 with dst := .v 380, a := .s 8 }] (streaming 2 1 256) false (fun e => VreadItem 380 4 e ∧
      64 / e.gr.width = 4 ∧ 32 * ((e.read32 e.f.a e.first).toNat / 4096) < (e.t.stream e.f.accN).k) ∧
    AllIssue [.vread { F0 with a := .s 8 }] (streaming 2 1 (512 + 4096 * 165)) false (fun e => VreadForm e ∧
      (e.read32 e.f.a e.first).toNat / 256 % 16 = 2 ∧
      128 * ((e.read32 e.f.a e.first).toNat / 4096) + (10304 + 1280 * (e.t.stream e.f.accN).k) ≤ e.gr.tarn * 4096 ∧
      TarnTurn e (streaming 2 1 (512 + 4096 * 165)) ∧ e.g.refused = none) := by
  refine ⟨?_, ?_, ?_⟩ <;> (apply allIssue; simp only [TarnTurn, TarnFree, VreadItem, VreadForm, Issuer, UniformReady]; decide +kernel)

/-- a3 holds one word, a15 waits for a drain of one sender. -/
def queued (k : ArrKind) : State := { base with arrops := [(9, ⟨9, 2, 3, false, k, 0, none, false, false, 0, []⟩)] }
/-- An operation behind it on the same tile. -/
def behind : State := { base with arrops := [(8, ⟨8, 2, 3, false, .mzero, 0, none, false, false, 0, []⟩), (9, ⟨9, 2, 3, false, .mzero, 0, none, false, false, 0, []⟩)] }
theorem test_wit_ArrayExecutes : (∀ k ∈ [ArrKind.mzero, .mrecv 1 7], mfind (queued k).arrops 9 = some ⟨9, 2, 3, false, k, 0, none, false, false, 0, []⟩ ∧
      (queued k).team? 2 = some b0.t ∧ b0.t.id = 2 ∧ (queued k).grid? b0.t.grid = some b0.gr ∧
      (queued k).opReady b0.gr ⟨9, 2, 3, false, k, 0, none, false, false, 0, []⟩ = true ∧ b0.t.status = .admitted) ∧
    behind.opReady b0.gr ⟨9, 2, 3, false, .mzero, 0, none, false, false, 0, []⟩ = false := by decide +kernel
theorem test_wit_MatrixProducts : rising ([(128 * 159 + 127, 0x3F800000)] : List (Nat × Word)) = true := by decide

/-! ### Witnesses: engines -/

/-- The source and the destination of the commands below. -/
def srcCap : TCap := rootCap 0 0 1 [pLD, pLDCAP, pGLOBAL] 0x20000 0x1000
def dstCap : TCap := rootCap 0 0 1 [pST, pGLOBAL] 0x21000 0x1000
/-- One element of one byte, from the source to the destination. -/
def oneByte (gather : Bool) : Shape :=
  { src := srcCap, dst := dstCap, synca := TCap.null, syncr := TCap.null, cmpl := TCap.null, idx := if gather then srcCap else TCap.null,
    x0 := 1, dims := List.replicate 4 ⟨1, 0, 0⟩, advs := 0, advd := 0, fmt := 0, red := 0, coll := 0, rmask := 0, gridExt := 0, acq := none,
    rel := none, acqv := 0, relv := 0, sw := false, fallback := false, clog2 := 0, cid := 0, shs := 0, coords := 0, swstate := 1 }
/-- Its image, of 256 bytes. -/
def image : List Byte :=
  let z := List.replicate
  let dim : List Byte := [1] ++ z 23 0
  bytesOfNat 16 srcCap.bits.toNat ++ bytesOfNat 16 dstCap.bits.toNat ++ z 64 0 ++ [1] ++ z 7 0 ++ dim ++ dim ++ dim ++ dim ++ z 56 0
/-- The image lies where a capability in s4 and s5 names it, with the tags of its two capabilities, and slot 0 of the shape table
holds a record. -/
def imaged (rcd : Option Shape) : State :=
  let s := caps srcCap
  let hc (c : Ctx) : Ctx := { c with shapes := [(0, ⟨1, rcd⟩)] }
  { s with mem := setBytes s.mem 0x20000 image, side := [(0x1000, 3)], ctxs := s.ctxs.map (fun p => (p.1, hc p.2)) }

/-- The premises of `shp`, but for the slot. -/
def ShpForm (s : State) (e : Env) : Prop :=
  Bare e ∧ PairReady e e.f.a ∧ UniformReady e e.f.b ∧ UniformReady e e.f.c ∧ DstReady e ∧ e.any = true ∧ e.g.fencing = 0 ∧
  (e.read32 e.f.c e.first).toNat < 65536 ∧ Usable s e (e.cap e.f.a 0) 0 [pLD] ∧ isDev (e.cap e.f.a 0).addr = true ∧
  (e.cap e.f.a 0).inBounds (e.cap e.f.a 0).addr 256 = true ∧ (e.cap e.f.a 0).addr % 256 = 0 ∧
  ((e.read32 e.f.b e.first).toNat = 0 ∨ (e.ctx.shape? (e.read32 e.f.b e.first).toNat).isSome = true) ∧
  ((shapeOf (bytesAt s.mem (e.cap e.f.a 0).addr 256) (s.imgCap (e.cap e.f.a 0) (bytesAt s.mem (e.cap e.f.a 0).addr 256))
    (e.read32 e.f.c e.first).toNat).any (fun r => decide (e.shapeFault r = none)) = true) ∧
  s.badSec? (e.cap e.f.a 0).addr 256 = none ∧ s.coAt (e.cap e.f.a 0).addr 256 = false

/-- A shape table with no free slot. -/
def full : List (Nat × ShapeSlot) := (List.range 65536).map (fun n => (n, ⟨1, some (oneByte false)⟩))
theorem mfind_map_range' {α : Type} (a : α) : ∀ (k n i : Nat), n ≤ i → i < n + k →
    mfind ((List.range' n k).map (fun n => (n, a))) i = some a := by
  intro k
  induction k with
  | zero => intro n i h1 h2; omega
  | succ k ih =>
    intro n i h1 h2
    rw [List.range'_succ, List.map_cons, mfind]
    split
    · rfl
    · exact ih (n + 1) i (by omega) (by omega)
theorem shapePlace_full (e : Env) (h : e.ctx.shapes = full) : shapePlace e 0 = none := by
  have hf : (List.range 65536).find? (fun n => (mget ShapeSlot.free e.ctx.shapes n).rcd.isNone) = none := by
    rw [List.find?_eq_none]
    intro n hn
    rw [h, full, List.range_eq_range', mget, mfind_map_range' _ 65536 0 n (Nat.zero_le n) (by simpa using hn)]
    simp
  unfold shapePlace
  rw [if_neg (by simp), hf]
  rfl
/-- The machine with a table. -/
def tabled (m : List (Nat × ShapeSlot)) : State :=
  let s := imaged none
  let hc (c : Ctx) : Ctx := { c with shapes := m }
  { s with ctxs := s.ctxs.map (fun p => (p.1, hc p.2)) }
/-- s10 names the record in slot 0. -/
def replacing : State :=
  let s := imaged (some (oneByte false))
  { s with groups := s.groups.map (fun p => (p.1, p.2.sset 10 65536)) }
set_option synthInstance.maxSize 1000 in
theorem test_wit_ShapeRecords : AllIssue [.shp { F0 with dst := .s 63, a := .s 4 }] (imaged none) false (fun e => ShpForm (imaged none) e ∧
      shapePlace e 0 = some (0, 1)) ∧
    AllIssue [.shp { F0 with dst := .v 383, a := .s 4, b := .s 10 }] replacing false (fun e => ShpForm replacing e ∧
      shapePlace e 65536 = some (0, 2)) ∧
    AllIssue [.shpfree { F0 with a := .s 10 }] (mk (fun g => g.sset 10 65536) id id (fun c => { c with shapes := [(0, ⟨1, some (oneByte false)⟩)] }))
      false (fun e => Bare e ∧ UniformReady e e.f.a ∧ e.f.b = .zero ∧ e.any = true ∧ (e.ctx.shape? (handleA e)).isSome = true) ∧
    AllIssue [.shpfree { F0 with a := .s 10 }] (mk (fun g => g.sset 10 131072) id id (fun c => { c with shapes := [(0, ⟨1, some (oneByte false)⟩)] }))
      false (fun e => Bare e ∧ UniformReady e e.f.a ∧ e.f.b = .zero ∧ e.any = true ∧ e.ctx.shape? (handleA e) = none) := by
  refine ⟨?_, ?_, ?_, ?_⟩ <;> (apply allIssue; (try simp only [ShpForm, Bare, PairReady, UniformReady, DstReady, usable_iff]); decide +kernel)

set_option synthInstance.maxSize 1000 in
theorem test_wit_ShapeRecords_full : AllIssue [.shp { F0 with dst := .s 63, a := .s 4 }] (tabled full) false (ShpForm (tabled full)) := by
  apply allIssue; simp only [ShpForm, Bare, PairReady, UniformReady, DstReady, usable_iff]; decide +kernel
theorem tabled_shapes (m : List (Nat × ShapeSlot)) :
    ∃ h, ((envAt (.shp { F0 with dst := .s 63, a := .s 4 }) (tabled m)).get h).ctx.shapes = m := ⟨rfl, rfl⟩

/-- s8 names the record in slot 0, or a stale one; a record that uses a switch. -/
def handled (h : Nat) : State :=
  mk (fun g => g.sset 8 (BitVec.ofNat 64 h)) id id (fun c => { c with shapes := [(0, ⟨1, some (oneByte false)⟩)] })
theorem test_wit_EngineQueries : (∀ h ∈ [65536, 0], AllIssue [.eqry { F0 with dst := .v 383, a := .s 8 }] (handled h) false (fun e => Bare e ∧
      UniformReady e e.f.a ∧ e.f.b = .zero ∧ DstReady e ∧ e.any = true ∧ (e.ctx.shape? (handleA e)).isSome = (h == 65536))) ∧
    AllIssue [.swslot { F0 with a := .s 8, mod := 1 }, .swslot { F0 with dst := .s 63, a := .s 8 }] (handled 65536) false (fun e =>
      e.f.mod.toNat < 2 ∧ e.f.qual = 0 ∧ UniformReady e e.f.a ∧ e.f.b = .zero ∧ (e.f.dst = .none ∨ DstReady e) ∧ e.any = true ∧
      e.ctx.shape? (handleA e) = some (oneByte false)) := by
  refine ⟨?_, ?_⟩
  · simp only [List.forall_mem_cons]
    refine ⟨?_, ?_, by simp⟩ <;> (apply allIssue; simp only [Bare, UniformReady, DstReady]; decide +kernel)
  · apply allIssue; simp only [UniformReady, DstReady]; decide +kernel

theorem commandArgs_iff {e : Env} : CommandArgs e ↔ (e.f.mod.toNat < 4 ∧ e.f.qual.toNat < 32 ∧
    (if e.f.qual.toNat < 16 then e.f.qual = 0 else e.f.qual.toNat % 16 < e.gr.guards) ∧
    (if e.f.mod.getLsbD 0 then PairReady e e.f.a else UniformReady e e.f.a) ∧ UniformReady e e.f.b) :=
  ⟨fun h => ⟨h.1, h.2, h.3, h.4, h.5⟩, fun ⟨h1, h2, h3, h4, h5⟩ => ⟨h1, h2, h3, h4, h5⟩⟩

/-- A command of the group. -/
def command (id : Nat) (st : CmdState) : Cmd :=
  { id := id, team := 2, gid := 0, fn := 0, colour := 1, core := 0, gather := false, handle := 65536, step := 3, rcd := oneByte false,
    shapeSlot := 0, ctx := 1, guard := none, srcTeam := none, dstTeam := none, decided := some true, state := st, chunks := 0, pos := 0,
    flags := 0, lbl := 0, peers := [], ringSize := 1, ringPos := 0, switched := false, faddr := 0x21000, page := none, lost := false, rows := [], reported := false, waited := false, asked := false }
/-- The record in slot 0, `n` commands queued, guard 15 resolved; a shape capability in s4 and s5. -/
def commanding (gather : Bool) (n : Nat) : State :=
  let s := caps (rootCap 2 0 1 [pENG] 65536 1)
  let hc (c : Ctx) : Ctx := { c with shapes := [(0, ⟨1, some (oneByte gather)⟩)] }
  let hg (g : Group) : Group := g.sset 8 65536
  let ht (t : Team) : Team := { t with guards := [(15, .known true)] }
  { s with ctxs := s.ctxs.map (fun p => (p.1, hc p.2)), groups := s.groups.map (fun p => (p.1, hg p.2)),
           teams := s.teams.map (fun p => (p.1, ht p.2)),
           cmds := (List.range n).map (fun i => (9 + i, { command (9 + i) .queued with gather := gather })) }
/-- The premises of `tx` and `gx`, but for the room in the queue. -/
def CommandForm (gather : Bool) (n : Nat) (e : Env) : Prop :=
  CommandArgs e ∧ e.any = true ∧ e.g.fencing = 0 ∧ e.named (commanding gather n) = .inr (1, 65536, oneByte gather) ∧
  (commanding gather n).recordFault (oneByte gather) (e.read32 e.f.b e.first).toNat gather = none ∧
  ((commanding gather n).engQueue e.g.core e.ctx.fn gather).length = n
theorem test_wit_CommandIssue : (∀ n ∈ [0, 63, 64], AllIssue [.tx { F0 with a := .s 8, b := .imm 511, qual := 0x1F, mod := 2 }]
      (commanding false n) false (CommandForm false n) ∧
    AllIssue [.gx { F0 with a := .s 4, mod := 1 }] (commanding true n) false (CommandForm true n)) := by
  simp only [List.forall_mem_cons]
  refine ⟨⟨?_, ?_⟩, ⟨?_, ?_⟩, ⟨?_, ?_⟩, by simp⟩ <;>
    (apply allIssue; simp only [CommandForm, commandArgs_iff, PairReady, UniformReady]; decide +kernel)

/-- Two commands of the group: the first and the second in the states given; s8 says how many `ewait` may leave. -/
def awaiting (a b : CmdState) : State :=
  { s8 1 with cmds := [(9, command 9 a), (10, command 10 b)] }
theorem test_wit_EngineWait : AllIssue [.ewait F0, .ewait { F0 with a := .s 8 }] (awaiting (.done 0 0) (.done 1 0)) false (fun e => Bare e ∧
      UniformReady e e.f.a ∧ e.any = true ∧ ∀ c ∈ (awaiting (.done 0 0) (.done 1 0)).ewaited e.g.team e.g.gid (e.read32 e.f.a e.first).toNat,
        c.isDone = true ∧ c.reported = false ∧ c.state ≠ .done 3 cBOUND) ∧
    AllIssue [.ewait F0] (awaiting (.done 0 0) .active) false (fun e => Bare e ∧ UniformReady e e.f.a ∧ e.any = true ∧
      ∃ c ∈ (awaiting (.done 0 0) .active).ewaited e.g.team e.g.gid (e.read32 e.f.a e.first).toNat, c.isDone = false) ∧
    AllIssue [.ewait F0] (awaiting (.done 3 cBOUND) (.done 0 0)) false (fun e => Bare e ∧ UniformReady e e.f.a ∧ e.any = true ∧
      (awaiting (.done 3 cBOUND) (.done 0 0)).ewaited e.g.team e.g.gid (e.read32 e.f.a e.first).toNat =
        [command 9 (.done 3 cBOUND), command 10 (.done 0 0)] ∧
      (command 9 (.done 3 cBOUND)).reported = false ∧ ∀ x ∈ [command 9 (.done 3 cBOUND), command 10 (.done 0 0)], x.isDone = true) := by
  refine ⟨?_, ?_, ?_⟩ <;> (apply allIssue; simp only [Bare, UniformReady]; decide +kernel)

/-- Three passes asked for, two completed; s8 names a pass. -/
def passes (n : Nat) : State := { s8 n with dredge := { State.reset.dredge with state := .sweep, completed := 2, requested := 3 } }
theorem test_wit_DredgePasses : (∀ s ∈ [base, passes 0], ∃ h : (envAt (.dredgeStart { F0 with dst := .s 63 }) s).isSome = true,
      ((envAt (.dredgeStart { F0 with dst := .s 63 }) s).get h).decodeCheck false = none) ∧
    AllIssue [.dredgeStart F0] (passes 0) false (fun e => Bare e ∧ e.f.a = .zero ∧ dstVSnone e.f.dst = true ∧ e.pendDst e.f.dst = false ∧
      e.any = true) ∧
    AllIssue [.dredgeWait { F0 with a := .s 8, mod := 1 }] (passes 2) false (fun e => e.f.mod = 1 ∧ e.f.qual = 0 ∧ e.uniform e.f.a = true ∧
      e.f.dst = .none ∧ e.pendSrc e.f.a = false ∧ e.any = true ∧ (e.read e.f.a e.first).toNat ≤ 2) ∧
    AllIssue [.dredgeWait { F0 with a := .s 8, mod := 1 }] (passes 3) false (fun e => e.f.mod = 1 ∧ e.f.qual = 0 ∧ e.uniform e.f.a = true ∧
      e.f.dst = .none ∧ e.pendSrc e.f.a = false ∧ e.any = true ∧ (e.read e.f.a e.first).toNat ≤ (passes 3).dredge.requested ∧
      (passes 3).dredge.completed < (e.read e.f.a e.first).toNat) ∧
    AllIssue [.dredgeQuery { F0 with dst := .v 383, mod := 2 }, .dredgeQuery { F0 with mod := 2 }] (passes 0) false (fun e => e.f.mod = 2 ∧
      e.f.qual = 0 ∧ e.f.a = .zero ∧ dstVSnone e.f.dst = true ∧ e.pendDst e.f.dst = false ∧ e.any = true) := by
  refine ⟨by decide +kernel, ?_, ?_, ?_, ?_⟩ <;> (apply allIssue; (try simp only [Bare]); decide +kernel)

/-! ### Witnesses: events between instructions -/

/-- A group of two threads at two PCs: the first demoted or not, the second of an age. -/
def choosing (age : Nat) (dem : Bool) : Group :=
  let g := Group.fresh (fetchGrid 1) 2 1 0 1 0 0 1
  { g with threads := [{ Thread.fresh 0x10000 with demoted := dem }, { Thread.fresh 0x10040 with since := age }] }
theorem test_wit_RunArbitration_choose : (∀ age ∈ [191, 192], ∀ dem ∈ [false, true], (choosing age dem).pcs = [0x10000, 0x10040] ∧
      subsetDem ((choosing age dem).subsetAt 0x10000) = dem ∧ subsetDem ((choosing age dem).subsetAt 0x10040) = false ∧
      subsetAge ((choosing age dem).subsetAt 0x10000) = 0 ∧ subsetAge ((choosing age dem).subsetAt 0x10040) = age ∧
      (choosing age dem).run.resumed = false ∧ (choosing age dem).choose.isSome = true) := by decide +kernel
theorem test_wit_RunArbitration_running : ∃ x ∈ base.onQuad 0 0, x.status = .running := by decide +kernel
/-- Group 1 alone on its quadrant, at a cycle. -/
def atCycle (n : Nat) : State := { twoGroups id with clk := n }
theorem test_wit_RunArbitration : ∀ n ∈ [0, 16385], ((atCycle n).arbitrate 0 1).any (fun g => g.run.resumed == false && g.choose.isSome) = true ∧
    (∀ x ∈ (atCycle n).onQuad 0 1, x.status ≠ .running ∧ (atCycle n).grantable x = true ∧ (atCycle n).isAged x = (n == 16385)) := by
  decide +kernel

/-- The group waits; binding entry 15 holds a sync object of value 7; one Dredge pass is complete. -/
def waitingFor (st : GStatus) (w : Wait) : State :=
  let s := mk (fun g => { g with status := st, wait := w, loads := [⟨0, 7, 0x10000, .v 5, .plain 2 0 false, [⟨15, 0x20004, 4, [], false, 1, .delivered⟩]⟩] })
    (fun t => { t with binds := [(15, ⟨syncCap, memCap, 1, 1⟩)] })
  { s with mem := setBytes s.mem 0x21000 [7], dredge := { s.dredge with completed := 1 }, cmds := [(9, command 9 (.done 0 0))], clk := 20000 }
/-- What `Live` and the events ask of the group and its team. -/
def liveAt (s : State) (st : GStatus) (w : Wait) : Bool :=
  ((s.team? 2).any (fun t => t.status == .admitted && t.term.isNone && t.id == 2 && (s.grid? t.grid).any (fun gr => (s.ctx? gr.colour).isSome) &&
    (t.core? 0).any (fun r => r.absent 7 == false) && t.binds.map (·.1) == [15])) &&
  ((s.group? 2 0).any (fun g => g.team == 2 && g.gid == 0 && g.haltAtEnd == false && g.status == st && g.wait == w &&
    g.loads.all (fun ld => ld.elems.all (fun x => x.status == .delivered))))
theorem test_wit_GroupEvents :
    (∀ w ∈ [Wait.sleep 20000, .sleep 20001, .dredge 1, .dredge 2, .acqGe 15 6 7, .acqGe 15 6 8, .ewait 0, .qwait 0xFF, .hold [3, 4]],
      liveAt (waitingFor .waiting w) .waiting w = true ∧ (waitingFor .waiting w).syncs = []) ∧ (waitingFor .waiting (.hold [3, 4])).held 2 [3, 4] = false ∧
    (waitingFor .waiting .none).badSec? syncCap.addr 8 = none ∧
    liveAt (waitingFor .parked (.park [(0, 7)])) .parked (.park [(0, 7)]) = true ∧ liveAt (waitingFor .ready .none) .ready .none = true ∧
    (∀ k ∈ (waitingFor .waiting (.ewait 0)).ewaited 2 0 0, k.state = .done 0 0) ∧
    ((waitingFor .waiting .none).syncV 0x21000 = 7 ∧ syncCap.addr = 0x21000 ∧ syncCap.tag = true) ∧
    ((waitingFor .ready .none).group? 2 0).any (fun g => (g.readySince : Nat) + 16384 ≤ 20000 && g.threads.length == 16) = true ∧
    base.running?.isSome = true ∧ (BadWord.mk true [] 0 0 cCOREAD).fault ≠ cUNCORR := by decide +kernel

/-- A dirty copy of the line of 0x20000 in core 0's L1, a clean one in core 1's; a store to a tile register under way. -/
def caching : State :=
  { base with
    copies := [⟨.l1 0, 0x400, 1, 1, 1, [(127, 0xAB)], [(127, 0x0F)], 0, 0, [], 0, none⟩, ⟨.l1 1, 0x400, 1, 1, 1, [(0, 1)], [], 0, 0, [], 0, none⟩]
    wins := [(9, ⟨9, 2, 0, none, 0x1000000047FFFC, 4, [1, 2, 3, 4], [0xFF, 0, 0xFF, 0xFF], none, 0⟩)] }
/-- The group is not in a run. -/
def idleGroups (s : State) : State := { s with groups := s.groups.map (fun p => (p.1, { p.2 with status := .ready })) }
theorem test_wit_AccessesPerformed : (caching.copy? (.l1 0) 0x400 1).any (fun k => k.hpa.isNone && k.dirty == [(127, 0x0F)] && rising k.dirty) = true ∧
    caching.remote 0 0x400 none = false ∧ (∀ v ∈ caching.boundV, overlaps (128 * 0x400) 128 v 8 = false) ∧
    (caching.copy? (.l1 1) 0x400 1).any (fun k => k.isDirty == false) = true ∧
    (mfind (idleGroups caching).wins 9).any (fun w => w.id == 9 && (idleGroups caching).winReady w && w.load.isNone &&
      (match (idleGroups caching).winTgt w.addr with | some (.tile 2 0 7 0xFFFC) => true | _ => false)) = true ∧
    ((idleGroups caching).team? 2).any (fun t => t.id == 2 && (t.core? 0).isSome) = true ∧ caching.syncs = [] ∧
    (idleGroups caching).winFault 0x1000000047FFFC 4 true none = none ∧ caching.winReady ⟨9, 2, 0, none, 0x10000000000000, 4, [1, 2, 3, 4],
      [0xFF, 0, 0xFF, 0xFF], none, 0⟩ = false := by decide +kernel
/-- The same store, to a tile register past the team's, that the target refuses. -/
def refusedStore : WinAcc := ⟨9, 2, 0, none, 0x10000000500000, 4, [1, 2, 3, 4], [0xFF, 0, 0xFF, 0xFF], none, 0⟩
theorem test_wit_AccessesPerformed_refused : let s := idleGroups { base with wins := [(9, refusedStore)] }
    s.winReady refusedStore = true ∧ s.syncs = [] ∧ (s.winFault refusedStore.addr 4 true none).isSome = true ∧
    (s.group? 2 0).any (fun g => g.team == 2 && g.gid == 0 && g.owed.isNone) = true := by decide +kernel

/-! ### Witnesses: engine commands and launches -/

/-- One command, with some fields of its record changed. -/
def oneCommand (c : Cmd) : State := { base with cmds := [(9, c)], mem := setBytes (setBytes base.mem 0x20000 [5]) 0x21000 [7] }
/-- The command of one byte in a state, with its shape changed. -/
def cmdIn (st : CmdState) (h : Shape → Shape := id) : Cmd := { command 9 st with rcd := h (oneByte false), step := 0 }
/-- An acquire of a threshold; a release; a completion buffer; a collective of two ranks. -/
def acquires (n : Nat) (r : Shape) : Shape := { r with synca := syncCap, acq := some 6, acqv := BitVec.ofNat 64 n }
def releases (r : Shape) : Shape := { r with syncr := syncCap, rel := some (6, 0), relv := 1 }
def recorded (r : Shape) : Shape := { r with cmpl := rootCap 0 0 1 [pST] 0x22000 0x1000, clog2 := 8 }
def collective (r : Shape) : Shape := { r with coll := 1, rmask := 1, gridExt := 0x1112 }
/-- What `LiveCmd` asks of command 9. -/
def liveCmd (s : State) : Bool := (mfind s.cmds 9).any (fun c => c.id == 9 && s.frozenTeam c.fn c.team == false)
theorem atHead_iff {s : State} {c : Cmd} : AtHead s c ↔ (c.state = .queued ∧
    ((s.engQueue c.core c.fn c.gather).filter (fun x => x.state == .queued)).head?.map (·.id) = some c.id) :=
  ⟨fun h => ⟨h.1, h.2⟩, fun ⟨h1, h2⟩ => ⟨h1, h2⟩⟩
theorem test_wit_EngineEvents_begin : ∀ d ∈ [none, some false, some true], ∀ h ∈ [id, acquires 7, acquires 8, collective],
    let c : Cmd := { cmdIn .queued h with decided := d }
    liveCmd (oneCommand c) = true ∧ AtHead (oneCommand c) c ∧ (oneCommand c).syncV 0x21000 = 7 ∧ (oneCommand c).inProgress c < 4 ∧
      (oneCommand c).badSec? syncCap.addr 8 = none := by
  simp only [atHead_iff, List.forall_mem_cons]
  refine ⟨⟨?_, ?_, ?_, ?_, by simp⟩, ⟨?_, ?_, ?_, ?_, by simp⟩, ⟨?_, ?_, ?_, ?_, by simp⟩, by simp⟩ <;> decide +kernel
/-- The command behind four in progress, and the command waiting for an acquire of a threshold. -/
def behindFour : State :=
  { base with cmds := (List.range 4).map (fun i => (i, { command i .active with colour := 1 })) ++ [(9, command 9 .queued)] }
theorem test_wit_EngineEvents_four : liveCmd behindFour = true ∧ AtHead behindFour (command 9 .queued) ∧
    4 ≤ behindFour.inProgress (command 9 .queued) ∧
    (∀ n ∈ [7, 8], liveCmd (oneCommand (cmdIn .acquiring (acquires n))) = true ∧
      (oneCommand (cmdIn .acquiring (acquires n))).syncV syncCap.addr = 7) ∧
    ({ oneCommand (cmdIn .acquiring (acquires 7)) with unc := [(0x21000 / 32, true)] } : State).badSec? syncCap.addr 8 = some (0x21000 / 32) := by
  simp only [atHead_iff]; decide +kernel
theorem test_wit_EngineEvents_ring : (∀ ok ∈ [true, false], let c : Cmd := { cmdIn .ring collective with ringSize := 2 }
      let ps : List PeerPart := [⟨1, ok, [], 0, none⟩]
      liveCmd (oneCommand c) = true ∧ c.state = .ring ∧ c.rcd.sw = false ∧
      (∀ p ∈ (oneCommand c).cmds, p.1 < 9 → p.2.isDone = false → p.2.sameCollective c = false) ∧
      (oneCommand c).inProgress c < 4 ∧ (oneCommand c).devgroup = none ∧
      ps.map (·.pos) = (List.range c.ringSize).filter (fun p => p != c.ringPos)) ∧
    (liveCmd (oneCommand (cmdIn .switchWait)) = true ∧ liveCmd (oneCommand { cmdIn .active with switched := true }) = true) := by
  decide +kernel
theorem oneElement_iff {s : State} {c : Cmd} {a d : Nat} : OneElement s c a d ↔ (c.state = .active ∧
    (c.gather = false ∧ c.rcd.coll = 0 ∧ c.rcd.red = 0 ∧ c.peers = []) ∧
    (c.rcd.src.kind = 0 ∧ c.rcd.dst.kind = 0 ∧ c.rcd.src.has pLDCAP = false) ∧
    (∀ k ∈ [c.rcd.src, c.rcd.dst], k.tag = true ∧ s.isRevoked k = false ∧ s.keyed k.col = true) ∧
    c.chunkElems (fun _ => 0) = [⟨c.pos, some (a : Int), some (d : Int)⟩] ∧
    (isDev a = true ∧ s.badSec? a c.rcd.esize = none ∧ s.coAt a c.rcd.esize = false) ∧
    (isDev d = true ∧ s.coAt d c.rcd.esize = false ∧ NoSync s d c.rcd.esize) ∧ (s.lblAt a c.rcd.esize).toNat ≤ lblLimit c.rcd.dst d ∧
    (∀ p ∈ s.grids, p.2.ovflMeets a c.rcd.esize = false) ∧ Cmd.plainBytes c.rcd.esize c.writes (c.reads (fun _ => 0)) = true) :=
  ⟨fun h => ⟨h.1, h.2, h.3, h.4, h.5, h.6, h.7, h.8, h.9, h.10⟩,
    fun ⟨h1, h2, h3, h4, h5, h6, h7, h8, h9, h10⟩ => ⟨h1, h2, h3, h4, h5, h6, h7, h8, h9, h10⟩⟩
/-- The command in progress, from a source without LDCAP, at the last byte of the source. -/
def copying : Cmd := cmdIn .active (fun r => { r with src := (rootCap 0 0 1 [pLD] 0x20000 0x1000).withAddr 0x20FFF })
theorem test_wit_EngineEvents_chunk : liveCmd (oneCommand copying) = true ∧ OneElement (oneCommand copying) copying 0x20FFF 0x21000 ∧
    ∃ d, EngineTurn (oneCommand copying) copying d := by
  refine ⟨by decide +kernel, oneElement_iff.2 ⟨by decide +kernel, by decide +kernel, by decide +kernel, by decide +kernel, rfl, ?_⟩, ?_⟩
  · simp only [NoSync]; decide +kernel
  · refine ⟨[(0, 1)], ?_⟩
    simp only [EngineTurn]; decide +kernel
/-- With everything revoked in the completion buffer; with a write of the engine sent to another die. -/
def revokedAt (a : Nat) (s : State) : State := { s with revoked := [(a / 64, true)] }
def engineSent (s : State) : State := { s with sent := [(.engine 0, 3)] }
theorem test_wit_EngineEvents_complete : (∀ h ∈ [id, recorded, releases], liveCmd (oneCommand (cmdIn (.finishing 0 0) h)) = true ∧
      (cmdIn (.finishing 0 0) h).waited = false) ∧ (cmdIn (.finishing 0 0)).rcd.cmpl = ⟨0, false⟩ ∧
    ((cmdIn (.finishing 0 0) recorded).rcd.cmpl.tag = true ∧ (oneCommand (cmdIn (.finishing 0 0) recorded)).isRevoked
      (cmdIn (.finishing 0 0) recorded).rcd.cmpl = false ∧ (oneCommand (cmdIn (.finishing 0 0) recorded)).keyed 1 = true ∧
      NoSync (oneCommand (cmdIn (.finishing 0 0) recorded)) 0x22000 16) ∧
    (revokedAt 0x22000 (oneCommand (cmdIn (.finishing 0 0) recorded))).isRevoked (cmdIn (.finishing 0 0) recorded).rcd.cmpl = true ∧
    (cmdIn (.finishing 0 0) releases).rcd.rel = some (6, 0) ∧ (cmdIn (.finishing 0 0) releases).rcd.cmpl = ⟨0, false⟩ ∧
    (oneCommand (cmdIn (.finishing 0 0) releases)).badSec? syncCap.addr 8 = none ∧
    (oneCommand (cmdIn (.finishing 0 0) releases)).markersOf [.engine 0] false = [] ∧
    (engineSent (oneCommand (cmdIn (.finishing 0 0) releases))).markersOf [.engine 0] false ≠ [] := by simp only [NoSync]; decide +kernel

/-- Two teams of a gang: the first receives into a15 from cluster 1, which has notified it. -/
def drains : State :=
  let rec' : MRec := { MRec.zero with armed := true, expect := 1, notified := [(1, 3, 0)] }
  let s := mk id (fun t => { t with mrecs := [(15, rec')] }) (fun r => { r with vcl := 1, gang := 2 })
  let other (t : Team) : Team := { t with id := 3, kid := 1, mrecs := [], cores := [CoreRes.fresh 1 0] }
  { s with teams := s.teams ++ s.teams.map (fun p => (3, other p.2)) }
theorem drains_identified : Identified drains := by
  have ht : drains.teams.all (fun p => p.1 == p.2.id) = true := by decide +kernel
  have hg : drains.grids.all (fun p => p.1 == p.2.id) = true := by decide +kernel
  have go : ∀ {α : Type} (f : α → Nat) (m : List (Nat × α)), m.all (fun p => p.1 == f p.2) = true → ∀ k x, mfind m k = some x → f x = k := by
    intro α f m
    induction m with
    | nil => intro _ k x h; simp [mfind] at h
    | cons p m ih =>
      obtain ⟨k', a⟩ := p
      intro hm k x h
      simp only [List.all_cons, Bool.and_eq_true, beq_iff_eq] at hm
      rw [mfind] at h
      split at h
      · next hk => cases h; rw [← hk, ← hm.1]
      · exact ih hm.2 k x h
  exact ⟨fun id t h => go Team.id drains.teams ht id t h, fun id g h => go Grid.id drains.grids hg id g h⟩
theorem test_wit_EngineEvents_drain : (drains.team? 2).any (fun t => (drains.grid? t.grid).isSome && t.onCore &&
      (mget MRec.zero t.mrecs 15).nextSender == some (1, 3, 0) && (mget MRec.zero t.mrecs 15).armed && (mget MRec.zero t.mrecs 15).allHeld) = true ∧
    (drains.team? 3).any (·.onCore) = true := by decide +kernel

/-- A device group of two members of which this device is the first, its last counter of member 1 as given. -/
def group2 (ctr : Nat) : DevGroup := ⟨1, 0, [[], []], [], 0, [], [(1, ctr)], []⟩
/-- Slot 0 of the grant table gives member 1 a capability; member 1's certificate is the one of the table. -/
def grouped (k : TCap) (ctr : Nat) : State :=
  { mk id id id (fun c => { c with grants := [(0, ⟨1, some (k, .peer 1, 0)⟩)] }) with devgroup := some (group2 ctr), certs := [(1, [])] }
/-- A message of member 1 under a counter: two bytes to an offset. -/
def chunkOf (k : TCap) (ctr off : Nat) : GroupChunk := ⟨1, ctr, true, (grantToken k 1 0 1 (.peer 1) 0).bits, true, off, [1, 2], 0, []⟩
theorem test_wit_GroupMessages : (grouped memCap 4).devgroup = some (group2 4) ∧ (chunkOf memCap 4 0).counter ≤ mget 0 (group2 4).recvCtr 1 ∧
    (grouped memCap 4).portOk (group2 4) 1 = true ∧ ({ grouped memCap 4 with certs := [(1, [7])] } : State).portOk (group2 4) 1 = false ∧
    (let s : State := { grouped memCap 4 with devgroup := some (group2 5) };
      s.peerRefusal (group2 4) (chunkOf memCap 5 0xFFF) = some cBOUND ∧ s.peerRefusal (group2 4) (chunkOf memCap 5 0xFFE) = none ∧
      s.peerEntry ⟨(chunkOf memCap 5 0xFFE).token, true⟩ = some (memCap, .peer 1, 0) ∧ memCap.bounds.1 = 0x20000 ∧ s.boundV = []) := by
  decide +kernel
/-- A capability for a page of the host. -/
def hostCap : TCap := rootCap 0 0 1 [pLD, pST, pGLOBAL] 0x80000000020000 0x1000
/-- Member 1 may write that page; function 0 has a PASID for the colour, and no translation. -/
def waitsHost : State :=
  let s : State := { grouped hostCap 4 with devgroup := some (group2 5) }
  s.setFn 0 { s.fn 0 with pasids := [(0, ⟨true, 7, 1⟩)] }
theorem test_wit_GroupMessages_wait : waitsHost.peerRefusal (group2 4) (chunkOf hostCap 5 0) = none ∧
    waitsHost.peerEntry ⟨(chunkOf hostCap 5 0).token, true⟩ = some (hostCap, .peer 1, 0) ∧
    waitsHost.peerPerform hostCap (chunkOf hostCap 5 0) 0x80000000020000 = none := by
  decide +kernel

/-! ### Witnesses: launches and teams -/

/-- Queue 15 of function 0, with its ring where the context of function 0 holds the grant of device memory. -/
def queueing (h : LQueue → LQueue) : State :=
  let s : State := { base with granted := [⟨0, 0x100000, 1, false⟩] }
  s.setQueue 0 15 (h { LQueue.reset with qbase := 0x30000, qcfg := 0x10004 })
theorem test_wit_LaunchQueues_enable : ((queueing id).queue 0 15).enable = false ∧ ((queueing id).queue 0 15).rev = 1 ∧
    ((queueing id).queue 0 15).qlog = 4 ∧ ((queueing id).queue 0 15).qbase.toNat % 4096 = 0 ∧
    (match (queueing id).reach 0 ((queueing id).ringPasid 0) 0x30000 (64 * 2 ^ 4) false with | .ok => true | _ => false) = true ∧
    ((queueing (fun x => { x with qcfg := 0x10003 })).queue 0 15).qlog < 4 ∧ 16 < ((queueing (fun x => { x with qcfg := 0x10011 })).queue 0 15).qlog ∧
    ((queueing (fun x => { x with qcfg := 0x20004 })).queue 0 15).rev = 2 ∧
    (∀ p ∈ (queueing id).grids, ¬(p.2.fn = 0 ∧ p.2.queue = 15 ∧ p.2.tag = ((queueing id).queue 0 15).ktag ∧ p.2.complete = false)) := by
  decide +kernel

/-- A packet of a type: its record at 0x31000, its completion record at 0x32000. -/
def packetOf (type : Byte) : List Byte :=
  [1, 0, type, 0, 0, 0, 0, 0] ++ bytesOfNat 8 0x31000 ++ bytesOfNat 8 0x32000 ++ bytesOfNat 8 77 ++ List.replicate 32 0
/-- A launch record: one team of one group of 16 threads and 8 registers at `codeCap`, with a number of groups. -/
def recordOf (ngroups : Byte) : List Byte :=
  [1, 0, 0, 0, ngroups, 8, 0, 0, 0, 0, 0, 0, 8, 0] ++ List.replicate 10 0 ++ [1] ++ List.replicate 55 0 ++
    bytesOfNat 16 codeCap.bits.toNat ++ List.replicate 160 0
/-- A queue of one packet. -/
def launching (type ngroups : Byte) : State :=
  let s := queueing (fun x => { x with enable := true, running := true, wridx := 1 })
  { s with mem := setBytes (setBytes s.mem 0x30000 (packetOf type)) 0x31000 (recordOf ngroups), side := [(0x1882, 2)] }
theorem bytes_of {p : Pkt} {b : List Byte} (h : (match p with | .bytes x => x == b | _ => false) = true) : p = .bytes b := by
  cases p <;> simp_all
theorem ok_of {r : Reach} (h : (match r with | .ok => true | _ => false) = true) : r = .ok := by
  cases r <;> simp_all
theorem packetReady_iff {s : State} {fn q : Nat} {b : List Byte} {c : Ctx} : PacketReady s fn q b c ↔ (s.packet fn q = .bytes b ∧
    imgNat b 0 2 = (s.queue fn q).rev ∧ imgNat b 2 1 = 1 ∧ s.serialWait fn q b = false ∧ s.lrecCtx fn b = some c ∧
    packetField b true = none ∧ imgNat b 0x10 8 % 32 = 0 ∧
    s.reach fn (s.cmplPasid fn (some c)) (imgNat b 0x10 8) 32 true = .ok ∧ s.badSec? (imgNat b 8 8) 256 = none) :=
  ⟨fun h => ⟨h.1, h.2, h.3, h.4, h.5, h.6, h.7, h.8, h.9⟩, fun ⟨h1, h2, h3, h4, h5, h6, h7, h8, h9⟩ => ⟨h1, h2, h3, h4, h5, h6, h7, h8, h9⟩⟩
theorem test_wit_LaunchQueues : ∀ n ∈ [(1 : Byte), 33], PacketReady (launching 1 n) 0 15 (packetOf 1) b0.ctx ∧
    (launching 1 n).recordRefusal b0.ctx 0x31000 ((launching 1 n).gridOf b0.ctx 0x31000 0 15 (packetOf 1)) = (if n = 1 then none else some 4) ∧
    isHost 0x32000 = false ∧ NoSync (launching 1 n) 0x32000 32 := by
  simp only [packetReady_iff, NoSync, List.forall_mem_cons]
  exact ⟨⟨⟨bytes_of (by decide +kernel), by decide +kernel, by decide +kernel, by decide +kernel, by decide +kernel, by decide +kernel, by decide +kernel, ok_of (by decide +kernel), by decide +kernel⟩, by decide +kernel, by decide +kernel, by decide +kernel⟩,
    ⟨⟨bytes_of (by decide +kernel), by decide +kernel, by decide +kernel, by decide +kernel, by decide +kernel, by decide +kernel, by decide +kernel, ok_of (by decide +kernel), by decide +kernel⟩, by decide +kernel, by decide +kernel, by decide +kernel⟩, by simp⟩
theorem test_wit_LaunchQueues_nop : (launching 0 1).packet 0 15 = .bytes (packetOf 0) ∧ imgNat (packetOf 0) 0 2 = ((launching 0 1).queue 0 15).rev ∧
    imgNat (packetOf 0) 2 1 = 0 ∧ (launching 0 1).serialWait 0 15 (packetOf 0) = false ∧
    packetField (packetOf 0) ((launching 0 1).lrecCtx 0 (packetOf 0)).isSome = none := by
  exact ⟨bytes_of (by decide +kernel), by decide +kernel⟩

/-- What the enabling of a queue, or a read of its packet, finds: 0 all right, 1 refused with the code, 2 waiting for a page. -/
def reachCode : Reach → Nat × Byte
  | .ok => (0, 0)
  | .bad c => (1, c)
  | .wait _ => (2, 0)
/-- The same of a packet: 3 nothing to read, 4 out of range. -/
def pktCode : Pkt → Nat × Byte
  | .none => (3, 0)
  | .range => (4, 0)
  | .bytes _ => (0, 0)
  | .lost c => (1, c)
  | .wait _ => (2, 0)
/-- Function 0 has a PASID for its rings; its queue lies at an address of the host or of the device, with an index to write. -/
def queueAt (a : Nat) (w : Word) : State :=
  let s := queueing (fun x => { x with qbase := BitVec.ofNat 64 a, enable := true, running := true, wridx := w })
  s.setFn 0 { s.fn 0 with pasids := [(0, ⟨true, 7, 1⟩)] }
theorem test_wit_LaunchQueues_refused :
    (∀ p ∈ [((queueAt 0x30000 0), (3 : Nat), (0 : Byte)), (queueAt 0x30000 1025, 4, 0), (queueAt 0x200000 1, 1, cCOLOUR)],
      pktCode (p.1.packet 0 15) = p.2) ∧
    reachCode ((queueAt 0x200000 1).reach 0 ((queueAt 0x200000 1).ringPasid 0) 0x200000 1024 false) = (1, cCOLOUR) ∧
    ((queueing (fun x => { x with qbase := 0x30800 })).queue 0 15).qbase.toNat % 4096 ≠ 0 ∧
    reachCode ((queueAt 0x80000000030000 1).reach 0 (some 7) 0x80000000030000 1024 false) = (2, 0) := by decide +kernel
/-- Packets that are refused: a reserved field set; of another revision; SERIAL behind a grid of its queue. -/
def packetWith (o : Nat) (b : Byte) : State :=
  let s := launching 1 1
  { s with mem := setBytes s.mem (0x30000 + o) [b], grids := s.grids.map (fun p => (p.1, { p.2 with fn := 0, queue := 15 })) }
theorem test_wit_LaunchQueues_fields : ∀ p ∈ [((0 : Nat), (2 : Byte), (2 : Nat), some (0x108 : Nat), false), (3, 1, 1, none, true), (6, 1, 1, some 0x106, false)],
    let s := packetWith p.1 p.2.1
    let b := bytesAt s.mem 0x30000 64
    pktCode (s.packet 0 15) = (0, 0) ∧ imgNat b 0 2 = p.2.2.1 ∧ imgNat b 2 1 = 1 ∧ s.serialWait 0 15 b = p.2.2.2.2 ∧
      (p.1 ≠ 0 → packetField b (s.lrecCtx 0 b).isSome = p.2.2.2.1) ∧ reachCode (s.reach 0 (s.cmplPasid 0 (s.lrecCtx 0 b)) 0x32000 32 true) = (0, 0) := by
  decide +kernel

/-- A second grid of one team waits for the dispatcher. -/
def dispatching (h : Grid → Grid) (retired : List Nat) : State :=
  let s := mk id id id (fun c => { c with retired := retired, saveBase := 0x80000, saveLen := 0x400000 })
  { s with grids := s.grids ++ [(50, h { fetchGrid 50 with nextKid := 0 })], nextId := 51 }
theorem test_wit_TeamLife_seat : (dispatching id []).wdrrNext.map (·.1) = some 0 ∧
    (dispatching id []).plan 0 = some (.seatUnit 50 [[1]]) ∧ ((dispatching id []).grid? 50).any (fun g => g.id == 50 && g.ngroups ≤ 32) = true := by
  decide +kernel
theorem test_wit_TeamLife_preempt : (dispatching (fun g => { g with prio := 0, pair := true }) [1, 2, 3, 4, 5]).plan 0 =
    some (.preempt 50 [[0, 1]] [2]) := by decide +kernel

theorem mfind_id {α : Type} (f : α → Nat) (m : List (Nat × α)) (hm : m.all (fun p => p.1 == f p.2) = true) (k : Nat) (x : α)
    (h : mfind m k = some x) : f x = k := by
  induction m with
  | nil => simp [mfind] at h
  | cons p m ih =>
    obtain ⟨k', a⟩ := p
    simp only [List.all_cons, Bool.and_eq_true, beq_iff_eq] at hm
    rw [mfind] at h
    split at h
    · next hk => cases h; rw [← hk, ← hm.1]
    · exact ih hm.2 h
theorem identified_of (s : State) (ht : s.teams.all (fun p => p.1 == p.2.id) = true) (hg : s.grids.all (fun p => p.1 == p.2.id) = true) :
    Identified s :=
  ⟨fun id t h => mfind_id Team.id s.teams ht id t h, fun id g h => mfind_id Grid.id s.grids hg id g h⟩
/-- The team in a status, with a save area of a length. -/
def teamIs (st : TStatus) (len : Nat) : State :=
  idleGroups (mk id (fun t => { t with status := st }) id (fun c => { c with saveBase := 0x80000, saveLen := len }))
theorem teamIs_sound (st : TStatus) (len a n : Nat) : (teamIs st len).badSec? a n = none := by
  have h : ∀ x, (teamIs st len).secBad x = false := fun x => rfl
  unfold State.badSec?
  split
  · rw [List.find?_eq_none]; intro x _; rw [h x]; simp
  · rfl
theorem teamIs_saveBad (st : TStatus) (len : Nat) : ((teamIs st len).team? 2).any (fun t => (teamIs st len).saveBad t == none) = true := by
  rfl
theorem test_wit_TeamLife_save : ∀ len ∈ [0, 0x400000], Identified (teamIs .saving len) ∧
    ((teamIs .saving len).team? 2).any (fun t => t.status == .saving && t.term.isNone && (teamIs .saving len).settled t &&
      ((teamIs .saving len).grid? t.grid).any (fun gr => ((teamIs .saving len).ctx? gr.colour).any (fun c =>
        (placeAll (c.saveLen / 4096) gr.imageSizes ((teamIs .saving len).dirUsed c)).isSome == (len != 0)))) = true := by
  intro len hl
  refine ⟨identified_of _ (by rfl) (by rfl), ?_⟩
  revert hl; revert len; decide +kernel
theorem test_wit_TeamLife_retire : Identified (teamIs .draining 0) ∧ ((teamIs .draining 0).team? 2).any (fun t => t.status == .draining &&
      t.term.isNone) = true ∧ (teamIs .draining 0).drained 2 = true := ⟨identified_of _ (by rfl) (by rfl), by decide +kernel⟩
/-- The grid's one team has retired; it completes into a range of its colour, with an interrupt. -/
def completing : State :=
  mk id (fun t => { t with status := .retired }) (fun g => { g with cmpl := 0x32000, irq := true, vector := 2047 }) id
    (fun s => { s with granted := [⟨0, 0x100000, 1, false⟩] })
/-- A write of the core sent to another die. -/
def completingSent : State := { completing with sent := [(.cache (.l1 0), 3)] }
theorem test_wit_TeamLife_gather : (∀ id ∈ completing.grids.map (·.1), completing.gathering id = false) ∧
    completing.markersOf completing.cacheSources false = [] ∧ completingSent.markersOf completingSent.cacheSources false ≠ [] ∧
    (completingSent.grid? b0.gr.id).any (fun gr => gr.gathered == false) = true := by decide +kernel
theorem test_wit_TeamLife_complete : (completing.grid? b0.gr.id).any (fun gr => gr.id == b0.gr.id && gr.complete == false && completing.allRetired gr &&
      gr.irq && gr.vector < 2048 && (match completing.reach gr.fn (completing.pasidOf gr.fn gr.colour) gr.cmpl 32 true with | .ok => true | _ => false)) = true ∧
    completing.copies = [] ∧ isHost 0x32000 = false ∧ NoSync completing 0x32000 32 := by simp only [NoSync]; decide +kernel
theorem test_wit_TeamLife_restore : Identified (teamIs .saved 0x400000) ∧ (teamIs .saved 0x400000).savedNext 0 = some 2 ∧
    (teamIs .saved 0x400000).wdrrNext.map (·.1) = some 0 :=
  ⟨identified_of _ (by rfl) (by rfl), by decide +kernel⟩

/-! ### Witnesses: management, the host, sessions, reliability -/

/-- A machine that has booted, all of whose first mebibyte is granted to colour 1, with function 0 and the grant block changed. -/
def managed (hf : Fn → Fn := id) (hg : GrantBlock → GrantBlock := id) : State :=
  let s : State := { base with granted := [⟨0, 0x100000, 1, false⟩], part := { base.part with boot := 9 }, gblock := hg base.gblock }
  s.setFn 0 (hf (s.fn 0))

/-- A request for a context of colour 4095, its save area granted. -/
def newContext : CtxReq := ⟨4095, 0, 1, [1], 0x100000, 0x80000, 0x31000⟩
/-- A grant, or a withdrawal, of a range to a colour. -/
def block (op : Byte) (a n : Nat) (stat : Byte) (pass : Nat) : GrantBlock → GrantBlock := fun g =>
  { g with gop := op, gbase := BitVec.ofNat 64 a, glen := BitVec.ofNat 64 n, gcol := 1, gstat := stat, pass := pass }
/-- A mint into granted memory, with a permission set. -/
def minting (perm : BitVec 16) (f : Fn) : Fn :=
  { f with mstat := 1, mbase := 0x20000, mlen := 0x1000, mdest := 0x31000, mperm := perm, mcol := 1 }
theorem test_wit_GrantsAndMints_create : (let s : State := { managed with granted := [⟨0, 0x100000, 1, false⟩, ⟨0x100000, 0x80000, 4095, false⟩] }
      s.ctxReqOk newContext = true ∧ newContext.replyAt + 64 ≤ s.reservedBase ∧ NoSync s newContext.replyAt 64) ∧
    ((State.ctx? { managed with grids := [] } 1).isSome = true ∧ State.keyed { managed with grids := [] } 1 = true) ∧
    (managed.ctx? 1).any (fun c => c.fn == 0 && c.shared != [0, 4095]) = true := by simp only [NoSync]; decide +kernel
theorem test_wit_GrantsAndMints_grant : (managed id (block 1 0x100000 0x1000 1 0)).grantRefused = false ∧
    (managed id (block 1 0xFF000 0x1000 1 0)).grantRefused = true ∧ (managed id (block 1 0x100000 0x1000 1 0)).gblock.gstat = 1 ∧
    (managed id (block 2 0xFF000 0x1000 1 0)).grantedTo 1 0xFF000 0x1000 = true ∧
    ((managed id (block 2 0xFF000 0x1000 1 0)).ctx? 1).any (fun c => c.fn == 0) = true ∧
    (managed id (block 2 0xFF000 0x1000 1 1)).dredge.completed < 1 ∧
    (let s : State := { managed id (block 2 0xFF000 0x1000 1 1) with dredge := { base.dredge with completed := 1 } };
      s.gblock.pass ≤ s.dredge.completed ∧ s.gblock.glen ≠ 0) := by decide +kernel
theorem test_wit_GrantsAndMints_mint : (managed (minting 0x3)).mintRefused 0 = false ∧ (managed (minting 0x1003)).mintRefused 0 = true ∧
    ((managed (minting 0x3)).fn 0).mstat = 1 ∧ isDev ((managed (minting 0x3)).fn 0).mdest.toNat = true ∧
    NoSync (managed (minting 0x3)) 0x31000 16 := by simp only [NoSync]; decide +kernel

/-- The seal block of function 0 imports or releases; key colour 4095 holds a weight key. -/
def sealing (op : Byte) (n : Nat) (es : List CoEntry) : State :=
  let h (f : Fn) : Fn := { f with sstat := 1, sop := op, ssrc := 0x40000, sdst := 0x50000, slen := BitVec.ofNat 64 n, scol := 1, skey := 4095 }
  let s := managed h
  { s with comap := es, keys := s.keys ++ [(4095, .weight [] 5)] }
theorem test_wit_SealedImports : (sealing 1 0x1000 []).sealEntry 0 = none ∧ (sealing 1 0x1000 []).importRefused 0 = false ∧
    (sealing 1 0xFFF []).importRefused 0 = true ∧
    (sealing 1 0x1000 [⟨0x50000, 0x1000, 4095, .busy, 0, true⟩]).sealEntry 0 = some ⟨0x50000, 0x1000, 4095, .busy, 0, true⟩ ∧
    (sealing 2 0x1000 [⟨0x50000, 0x1000, 4095, .live, 0, true⟩]).sealEntry 0 = some ⟨0x50000, 0x1000, 4095, .live, 0, true⟩ ∧
    ((sealing 2 0x1000 []).fn 0).sop = 2 ∧ ((sealing 2 0x1000 []).fn 0).sstat = 1 ∧
    (sealing 2 0x1000 []).colourOf 0 1 = true ∧ (sealing 2 0x1000 []).grantedTo 1 0x50000 0x1000 = true ∧
    (∀ t ∈ [Tdi.locked, .run, .unlocked], ((managed.setFn 63 { managed.fn 63 with tdi := t }).fn 63).tdi = t ∧
      ∀ p ∈ (managed.setFn 63 { managed.fn 63 with tdi := t }).ctxs, p.2.fn ≠ 63) := by decide +kernel

/-- The Dredge in a state, a pass requested; a bit set. -/
def dredging (st : DredgeState) : State :=
  idleGroups { base with dredge := { base.dredge with state := st, requested := 1, snap := [0x800] }, revoked := [(0x800, true), (0x801, true)] }
theorem test_wit_DredgeAndReceipts : ((dredging .idle).dredge.state = .idle ∧ (dredging .idle).dredge.completed < (dredging .idle).dredge.requested) ∧
    ((dredging .snap).dredge.state = .snap ∧ (dredging .snap).snapOver = true ∧ (∀ p ∈ (dredging .snap).groups, p.2.status ≠ .running) ∧
      (dredging .snap).memOk = true) ∧ (dredging .sweep).dredge.state = .sweep ∧
    (let s : State := { base with receiptsDue := [⟨2, 1, false⟩, ⟨2, 4095, false⟩] }; (s.receiptsDue.find? s.receiptReady) = some ⟨2, 4095, false⟩) := by
  decide +kernel

/-- The record of the group's fault. -/
def ringRec : FaultRec := ⟨0, 0, 0, 0, cSOFTWARE, 0, 0, 0, 0xFFFF, 1, false, false, 2⟩
/-- The fault ring of function 0, of sixteen records, with one to write; `n` unread. -/
def ringing (en : Bool) (n : Nat) : State :=
  managed (fun f => { f with fbase := 0x60000, fcfg := 4, fenable := en, fwr := BitVec.ofNat 32 n, pendingRecs := [ringRec], ring := [(3, ringRec)], fseq := 3 })
/-- The group has stopped with that fault. -/
def faultStopped : State :=
  let s := managed (fun f => { f with ring := [(3, ringRec)], fseq := 3 })
  { s with groups := s.groups.map (fun p => (p.1, { p.2 with status := .stopped, stopCode := cSOFTWARE })) }
theorem test_wit_HostEvents : (9 ≤ managed.part.boot) ∧
    (((managed (fun f => { f with tdi := .run, ide := true })).fn 0).tdi = .run ∧ (managed.fn 0).tdi ≠ .run) ∧
    (((ringing false 0).fn 0).flog = 4 ∧ ((ringing false 0).fn 0).fcfg &&& 0xF800FFE0 = 0 ∧ ((ringing false 0).fn 0).fbase.toNat % 4096 = 0 ∧
      (match (ringing false 0).reach 0 ((ringing false 0).ringPasid 0) 0x60000 (64 * 2 ^ 4) true with | .ok => true | _ => false) = true) ∧
    (∀ n ∈ [0, 15, 16], ((ringing true n).fn 0).pendingRecs = [ringRec] ∧
      (decide ((((ringing true n).fn 0).fwr - ((ringing true n).fn 0).frd).toNat < 2 ^ 4) = (n != 16)) ∧
      NoSync (ringing true n) (0x60000 + 64 * (n % 16)) 64) ∧
    (faultStopped.fseqRec 0 = some ringRec ∧ faultStopped.laterRec 0 ringRec = false ∧ (faultStopped.team? 2).isSome = true ∧
      (faultStopped.group? 2 0).any (fun g => g.team == 2 && g.gid == 0 && g.status == .stopped && g.debugStop == false &&
        g.stopCode == cSOFTWARE && g.haltAtEnd == false) = true) := by simp only [NoSync]; decide +kernel
/-- A translation of page 5 asked for; a page request outstanding for which the group waits. -/
def translating (inval : List (Nat × Nat)) (quiet : Bool) : State :=
  let s := managed (fun f => { f with pageReqs := [⟨7, 6, false⟩] })
  { s with ats := [⟨0, 7, 5, false, inval, quiet⟩],
           groups := s.groups.map (fun p => (p.1, { p.2 with status := .replayable, wait := .page 0x80000000006FFF true })) }
theorem test_wit_HostEvents_pages : (∀ rw ∈ [true, false], let c : AtsReply := ⟨0, 7, 0x5000, 0x1000, rw, false, 0⟩
      (translating [] false).ats.find? (fun r => r.fn == c.fn && r.pasid == c.pasid && decide (c.iova ≤ 4096 * r.page) &&
        decide (4096 * r.page < c.iova + c.size)) = some ⟨0, 7, 5, false, [], false⟩) ∧
    ((translating [] false).fn 0).paging 7 5 = false ∧
    ((translating [] false).fn 0).pageReqs.length < ((translating [] false).fn 0).pageMax ∧
    ((translating [(0x5000, 0x1000)] true).ats.map (fun r => (r.quiet, r.inval.any (fun v => overlaps v.1 v.2 0x5000 0x1000)))) = [(true, true)] ∧
    ((translating [] false).team? 2).any (fun t => t.status != .saved) = true ∧ ⟨7, 6, false⟩ ∈ ((translating [] false).fn 0).pageReqs ∧ onPage 6 0x80000000006FFF = true ∧
    ((translating [] false).group? 2 0).any (fun g => g.status == .replayable && g.wait == .page 0x80000000006FFF true && g.haltAtEnd == false &&
      (translating [] false).fnOfTeam g.team == 0) = true := by decide +kernel

/-- Session 5 in a state, of a function or of the owner. -/
def inSession (st : SessState) (fn : Option Nat) : State :=
  { managed with sessions := [(5, ⟨5, fn, st, 2000, 0⟩)] }
theorem test_wit_Sessions : (∀ st ∈ [SessState.handshake, .active, .frozen, .lost], ∀ fn ∈ [none, some 0, some 63],
      mfind (inSession st fn).sessions 5 = some ⟨5, fn, st, 2000, 0⟩) ∧ mfind (inSession .active none).sessions 6 = none ∧
    (inSession .active none).liveSessions < 64 ∧ ((inSession .frozen (some 63)).fn 63).session ≠ 5 ∧
    ((inSession .active none).ctx? 4095 = none ∧ (inSession .active none).keyed 4095 = false) ∧
    (State.keyed { inSession .active none with keys := [(4095, .weight [] 5)] } 4095 = true) ∧
    (∀ p ∈ (inSession .active none).teams, p.2.holdsKey (fun k => [4095].contains k) = false) ∧
    (inSession .active (some 0)).devgroup = none ∧ (⟨1, 0, List.replicate 64 [], []⟩ : GroupReq).hashes.length ≤ 64 ∧
    (let s : State := (inSession .active (some 63)).setFn 63 { State.reset.fn 63 with session := 5, tdi := .run };
      (s.fn 63).session = 5 ∧ (s.fn 63).tdi = .run ∧ s.devgroup = none) ∧
    ((inSession .active (some 63)).fn 63).tdi = .unlocked ∧ 9 ≤ (inSession .active (some 63)).part.boot := by decide +kernel

/-- A debugger is attached, fifteen or sixteen breakpoints are set, the group is in a state. -/
def debugging (n : Nat) (st : GStatus) (byDebugger : Bool) : State :=
  mk (fun g => { g with status := st, debugStop := byDebugger }) id id (fun c =>
    { c with debugger := true, breaks := (List.range n).map (fun i => BitVec.ofNat 56 (4 * i)) })
theorem test_wit_Debugger : (∀ n ∈ [15, 16], ((debugging n .ready false).ctx? 1).any (fun c => c.breaks.length == n &&
      !c.breaks.contains 0x10000) = true) ∧
    (∀ st ∈ [GStatus.ready, .running, .waiting, .stopped], ∀ b ∈ [true, false], (debugging 0 st b).debugged 2 = true ∧
      ((debugging 0 st b).group? 2 0).any (fun g => g.team == 2 && g.gid == 0 && g.status == st && g.debugStop == b) = true) ∧
    (((debugging 0 .stopped true).team? 2).any (fun t => t.status == .admitted && t.term.isNone && t.id == 2) = true ∧ (∀ p ∈ (debugging 0 .stopped true).groups, p.2.status ≠ .running) ∧
      (debugging 0 .stopped true).frozenTeam ((debugging 0 .stopped true).fnOfTeam 2) 2 = false ∧
      ((debugging 0 .stopped true).group? 2 0).any (fun g => (debugging 0 .stopped true).winHolds g == false &&
        (g.thread 15).any (fun th =>
        (subsetMask (g.subsetAt th.pc)).getLsbD 15)) = true) ∧
    (((debugging 0 .ready false).ctx? 1).any (fun c => dbgCheck c ⟨memCap.bits, true⟩ 0x20FF0 16 == none) = true ∧
      (debugging 0 .ready false).keyed memCap.col = true) ∧
    (((debugging 0 .running false).ctx? 1).any (fun c => dbgCheck c ⟨ownBlock.bits, true⟩ ownBlock.addr 16 == none) = true ∧
      isWin ownBlock.addr = true ∧ (debugging 0 .running false).debugWaits ownBlock.addr 16 = true) := by decide +kernel

/-- Page 5 has seen some events; the snapshot block is armed or triggered. -/
def reliable (events : List Nat) (sarm sstat : Byte) : State :=
  { managed with errs := [⟨.page 5 0, events, false⟩], clk := 100, snapb := { base.snapb with sarm := sarm, sstat := sstat, sbuf := 0x40000, tclk := 100 } }
theorem test_wit_ReliabilityEvents : (∀ es ∈ [[9, 8], [9, 8, 7]], ((reliable es 0 0).errRec (.page 5 0)).lasting = false ∧
      ((reliable es 0 0).errRec (.page 5 0)).events = es) ∧ (100 - 7 < 2 ^ (reliable [] 0 0).errW) ∧
    ((reliable [] 1 0).sbufOk = true ∧ (reliable [] 1 3).snapb.sarm ≠ 0) ∧ (reliable [] 8 1).snapb.sarm.getLsbD 3 = true ∧
    (((0, 1) : Nat × Nat) ∉ (reliable [] 0 0).spares ∧ ((0, 1) : Nat × Nat) ∈ ({ reliable [] 0 0 with spares := [(0, 1)] } : State).spares) ∧
    ((reliable [] 1 1).snapb.sarm.getLsbD 0 = true ∧ (reliable [] 1 1).snapb.sarm.getLsbD 4 = false) ∧
    ((grouped memCap 4).devgroup.any (fun dg => dg.own == 0 && (grouped memCap 4).portOk dg 1) = true) ∧
    ((reliable [] 1 2).snapb.tclk ≤ (reliable [] 1 2).clk ∧ NoSync (reliable [] 1 2) 0x40000 (64 + (reliable [] 1 2).snapRecords.length)) := by
  simp only [NoSync]; decide +kernel

/-! ### Witnesses: targets, barriers, sampling, side state -/

/-- A group in Torub-N. -/
def nativeBase : State := mk id id (fun r => { r with native := !r.native })
/-- v2 and v3 of every thread hold the address of the code, those of thread 15 a misaligned one. -/
def oddReturn : State :=
  mk (fun g => (List.range 16).foldl (fun g i => g.vset 2 i (if i = 15 then 0x10002 else 0x10000)) g)
theorem test_wit_TargetTraps :
    AllIssue [.bra { FI with imm := 0xFFFE0000 }, .bra { FI with imm := 2 }, .call { FI with imm := 0xFFFE0000 }, .call { FI with imm := 2 }]
      base false (fun e => Bare e ∧ e.shapePendDst e.f.dst 2 1 = false ∧ (e.relTarget < 0 ∨ e.relTarget % (targetAlign e.gr.native : Int) ≠ 0)) ∧
    AllIssue [.br { FI with imm := 0xFFFE0000 }, .br { FI with imm := 2, mod := 1, qual := 7 }] base false (fun e => e.f.mod.toNat < 2 ∧
      e.f.qual.toNat < 8 ∧ (e.relTarget < 0 ∨ e.relTarget % (targetAlign e.gr.native : Int) ≠ 0)) ∧
    AllIssue [.call { F0 with form := .n96, re := true, imm := 8 }] nativeBase false (fun e => Bare e ∧ e.f.dst = .none ∧
      TargetOk e e.relTarget ∧ e.gr.native = true ∧ e.nextPc % 8 ≠ 0) ∧
    AllIssue [.ret { F0 with a := .v 2 }] oddReturn false (fun e => Bare e ∧ PairArg e e.f.a ∧ e.subsetThreads = List.range 15 ++ 15 :: [] ∧
      (∀ j ∈ List.range 15, TargetOk e ((e.read64 e.f.a j).toNat : Int)) ∧ ¬ TargetOk e ((e.read64 e.f.a 15).toNat : Int)) ∧
    AllIssue [.fork { FI with a := .tid, imm := 0x00018000 }] base false (fun e => Bare e ∧ e.pendSrc e.f.a = false ∧
      (e.pc : Int) + (e.imm.extractLsb' 0 16).toInt * 4 < 0) ∧
    AllIssue [.fork { FI with a := .tid, imm := 0x80000001 }] base false (fun e => Bare e ∧ e.pendSrc e.f.a = false ∧
      0 ≤ (e.pc : Int) + (e.imm.extractLsb' 0 16).toInt * 4 ∧ (e.pc : Int) + (e.imm.extractLsb' 16 16).toInt * 4 < 0) ∧
    AllIssue [.fork { FI with a := .tid, imm := 0x00020001 }] (mk (fun g => g.setPcs 0x10002)) false (fun e => Bare e ∧ e.pendSrc e.f.a = false ∧
      (e.pc : Int) + (e.imm.extractLsb' 0 16).toInt * 4 = 0x10006 ∧ ¬ TargetOk e 0x10006) ∧
    AllIssue [.meetSet { F0 with a := .s 8 }] (mk (fun g => g.setSsd 8 { Side.clear with lbl := 1 })) false (fun e => Bare e ∧ PairArg e e.f.a ∧
      e.shapeLbl e.f.a 2 1 ≠ 0) ∧
    AllIssue [.meetSet { F0 with a := .v 2 }] oddReturn false (fun e => Bare e ∧ PairArg e e.f.a ∧ e.shapeLbl e.f.a 2 1 = 0 ∧
      e.parts = List.range 15 ++ 15 :: [] ∧ (∀ j ∈ List.range 15, TargetOk e ((e.read64 e.f.a j).toNat : Int)) ∧
      (e.read64 e.f.a 15).toNat ≠ meetSentinel.toNat ∧ ¬ TargetOk e ((e.read64 e.f.a 15).toNat : Int)) := by
  refine ⟨?_, ?_, ?_, ?_, ?_, ?_, ?_, ?_, ?_⟩ <;> (apply allIssue; simp only [Bare, PairArg, TargetOk]; decide +kernel)

/-- Group 0 has arrived at barrier 0 in its present phase. -/
def arrivedOnce : State := mk id (fun t => { t with bars := [(0, { Barrier.zero with arrived := 1 })] })
theorem test_wit_BarrierForms : AllIssue [.bar F0, .barArrive F0, .barWait F0] arrivedOnce false (fun e => BarOk e ∧
      e.barrier.arrived.getLsbD e.g.gid = true) ∧
    AllIssue [.bar F0, .barArrive F0, .barWait F0] (mk id id (fun r => { r with bars := 0 })) false (fun e => e.f.mod = 0 ∧
      e.f.qual.toNat < 16 ∧ e.gr.bars ≤ e.f.qual.toNat) ∧
    AllIssue [.bar F0, .barArrive F0, .barWait F0] (mk (fun g => { g with mode := 0x40, sat := 0x20 })) false (fun e => e.f.mod = 0 ∧
      e.f.qual.toNat < 16 ∧ e.f.qual.toNat < e.gr.bars ∧ e.converged = true ∧ e.g.satTrap = true) := by
  refine ⟨?_, ?_, ?_⟩ <;> (apply allIssue; (try simp only [barOk_iff]); decide +kernel)

theorem csampBad_iff {e : Env} {b : Nat} : csampBad e b ↔ (match val32 (csampPre e b (e.g.psize.toNat - 1)) with
    | .fin false m _ => m == 0
    | _ => true) = true := by
  unfold csampBad
  split <;> simp_all
/-- Thread 3 has the weight 1.0, the others none; v2 holds the number drawn. -/
def weighted (u : Word) : State :=
  mk (fun g => (List.range 16).foldl (fun g i => (g.vset 1 i (if i = 3 then 0x3F800000 else 0)).vset 2 i u) g)
/-- The target and the sums of a tile in which `csamp` draws. -/
def csampAbove (e : Env) (u k : Nat) : Prop :=
  ltFp (val32 (rn (mulFp (.fin false u (-32)) (val32 (csampPre e 0 (e.g.psize.toNat - 1)))).1)) (val32 (csampPre e 0 k)) = true
/-- The premises of the clause of `csamp`. -/
def CsampForm (e : Env) : Prop :=
  e.f.mod = 0 ∧ e.f.qual.toNat < 8 ∧ dstVorNone e.f.dst = true ∧ e.early e.srcs = false ∧ e.any = true ∧
  0 < e.g.psize.toNat ∧ e.gr.width % e.g.psize.toNat = 0 ∧ ∀ i ∈ e.parts, i < e.gr.width
theorem test_wit_Sampling : AllIssue [.csamp R2] (weighted 0) false (fun e => CsampForm e ∧ ¬ csampBad e 0 ∧ csampAbove e 0 3) ∧
    AllIssue [.csamp R2] (weighted 0xFFFFFFFF) false (fun e => CsampForm e ∧ ¬ csampBad e 0 ∧
      (∀ k, k < e.g.psize.toNat → ¬ csampAbove e 0xFFFFFFFF k) ∧ ltFp (.fin false 0 0) (val32 (csampWeight e 3)) = true) ∧
    AllIssue [.csamp { R2 with dst := .none }] base false (fun e => CsampForm e ∧ csampBad e 0) := by
  refine ⟨?_, ?_, ?_⟩ <;> (apply allIssue; simp only [CsampForm, csampBad_iff, csampAbove, Bool.not_eq_true]; decide +kernel)

theorem test_wit_ResultSideState_all :
    AllIssue [.add R2, .mad R3, .negg R1, .mulh R2, .madh R3, .minn R2, .med3 R3, .idiv R2, .andn R2, .nott R1, .shl R2, .popc R1, .bfe R3,
      .sel R3, .mov R1, .zext R2, .li { F0 with dst := .v 0, form := .d64 false true }] base true
      (fun e => TyOnly e ∧ Fits e e.srcs ∧ e.g.fpten = 0) ∧
    AllIssue [.abss { F0 with dst := .s 0, a := .s 1, mod := 3 }] base true (fun e => TySigned e ∧ Fits e e.srcs ∧ e.g.fpten = 0) ∧
    AllIssue [.mul24 R2, .mad24 R3, .bperm R3] base true (fun e => Ty32 e ∧ Fits e e.srcs ∧ e.g.fpten = 0) ∧
    AllIssue [.addc { R3 with mod := 8 }, .subc { R3 with mod := 8 }] base true (fun e => TyCarry e ∧ Fits e e.srcs ∧ e.g.fpten = 0) ∧
    AllIssue [.cmp { R2 with dst := .c 7, a := .s 0, b := .s 1, qual := 5, mod := 1 }] base true (fun e => (e.f.qual.toNat < 6 ∧ e.f.mod.toNat < 4 ∧
      WideOk e) ∧ Fits e e.srcs ∧ e.g.fpten = 0) ∧
    AllIssue [.rng { R2 with a := .s 4, mod := 28 }] base true (fun e => (e.f.mod.toNat % 4 = 0 ∧ e.f.mod.toNat < 32 ∧ e.f.qual = 0 ∧
      rngKeyOk e.f.a = true ∧ dstVorNone e.f.dst = true) ∧ Fits e e.srcs ∧ e.g.fpten = 0) := by
  refine ⟨?_, ?_, ?_, ?_, ?_, ?_⟩ <;> (apply allIssue; simp only [TyOnly, TySigned, Ty32, TyCarry, WideOk, fits_iff]; decide +kernel)
theorem test_wit_ResultSideState_caps : AllIssue [.kmov K1] (caps memCap) false (fun e => CapForm (fun e => [e.f.a]) e ∧ e.f.mod = 0 ∧
      CapArg e e.f.a ∧ e.f.b = .zero ∧ e.parts ≠ []) ∧
    AllIssue [.kaddr { K1 with b := .imm 511 }, .kadd { K1 with dst := .v 380, b := .imm 511 }] (caps memCap) false
      (fun e => CapForm (fun e => [e.f.a, e.f.b]) e ∧ e.f.mod = 0 ∧ CapInt e ∧ (∀ i ∈ e.parts, Derivable (e.cap e.f.a i)) ∧ e.parts ≠ []) := by
  constructor <;> (apply allIssue; simp only [CapForm, CapArg, CapInt, Derivable]; decide +kernel)

/-! ### Witnesses: where instructions trap -/

/-- Tests that say of each step of a table whether an access fails it. -/
def Reads : List AccessCheck → List (MemAcc → Bool) → Prop
  | [], [] => True
  | y :: ys, b :: bs => (∀ a, y.fails a ↔ b a = true) ∧ Reads ys bs
  | _, _ => False
theorem Reads.at {b : MemAcc → Bool} : ∀ {steps : List AccessCheck} {bs : List (MemAcc → Bool)} (k : Nat), Reads steps bs → bs[k]? = some b →
    ∃ y, steps[k]? = some y ∧ ∀ a, y.fails a ↔ b a = true
  | [], [], k, _, hb => by simp at hb
  | y :: ys, c :: bs, 0, h, hb => by
    simp at hb; subst hb; exact ⟨y, rfl, h.1⟩
  | y :: ys, c :: bs, k + 1, h, hb => by
    simp only [List.getElem?_cons_succ] at hb ⊢
    exact Reads.at k h.2 hb
theorem Reads.length : ∀ {steps : List AccessCheck} {bs : List (MemAcc → Bool)}, Reads steps bs → steps.length = bs.length
  | [], [], _ => rfl
  | y :: ys, c :: bs, h => by simp [Reads.length h.2]
theorem Reads.append : ∀ {xs : List AccessCheck} {bs : List (MemAcc → Bool)} {ys : List AccessCheck} {cs : List (MemAcc → Bool)},
    Reads xs bs → Reads ys cs → Reads (xs ++ ys) (bs ++ cs)
  | [], [], _, _, _, h => h
  | _ :: _, _ :: _, _, _, h, g => ⟨h.1, Reads.append h.2 g⟩
/-- The first access fails step k, and no access a step before. -/
def firstFails (bs : List (MemAcc → Bool)) (as : List MemAcc) (k : Nat) : Bool :=
  match bs[k]?, as with
  | some b, a :: _ => b a && (bs.take k).all (fun c => as.all (fun a => !c a))
  | _, _ => false
theorem failsFirst_of {steps : List AccessCheck} {bs : List (MemAcc → Bool)} {as : List MemAcc} (k : Nat) (h : Reads steps bs)
    (hf : firstFails bs as k = true) : ∃ c j x, FailsFirst steps as c j x := by
  unfold firstFails at hf
  split at hf
  · next b a as' hb =>
    simp only [Bool.and_eq_true, List.all_eq_true, Bool.not_eq_true'] at hf
    obtain ⟨y, hy, hyb⟩ := h.at k hb
    refine ⟨y.code, a.i, y.reports a, k, y, [], a, as', hy, ?_, rfl, by simp, (hyb a).2 hf.1, rfl, rfl, rfl⟩
    intro j z hj hz x hx
    have hjb : j < bs.length := by
      rw [← h.length]; exact (List.getElem?_eq_some_iff.1 hz).1
    obtain ⟨z', hz', hzb⟩ := h.at j (List.getElem?_eq_getElem hjb)
    rw [hz] at hz'; cases hz'
    rw [hzb x, hf.2 bs[j] (List.mem_take_iff_getElem.2 ⟨j, by omega, rfl⟩) x hx]; simp
  · simp at hf
/-- The tests of the table of 13 R271 for accesses of `n` bytes of an alignment, with data of a label. -/
def capReads (s : State) (e : Env) (kinds : MemAcc → Bool) (perms : MemAcc → List Nat) (n : Nat) : List (MemAcc → Bool) :=
  [fun a => !a.k.tag, fun a => a.k.otype != 0, fun a => !kinds a, fun a => !s.permits e.ctx a.k.col,
   fun a => (perms a).any (fun p => !a.k.has p) || (needsTile a.ea && !a.k.has pTILE),
   fun a => decide (a.ea < 0) || decide (a.ea + n > ((2 ^ 56 : Nat) : Int)) || !a.k.inBounds a.ea.toNat n]
/-- Its steps 9 to 11. -/
def lateReads (s : State) (n al : Nat) (l : Label) : List (MemAcc → Bool) :=
  [fun a => a.ea.toNat % al != 0 || (isWin a.ea.toNat && !winAligned a.ea.toNat n), fun a => decide (lblLimit a.k a.ea.toNat < l.toNat),
   fun a => (lineParts a.ea.toNat n).any (fun p => s.coAt p.1 p.2)]
theorem reads_cap {s : State} {e : Env} {kinds : MemAcc → Prop} (kb : MemAcc → Bool) (hk : ∀ a, kinds a ↔ kb a = true) {perms : MemAcc → List Nat}
    {n : Nat} : Reads (capTable s e kinds perms n) (capReads s e kb perms n) := by
  unfold capTable capReads
  refine ⟨?_, ?_, ?_, ?_, ?_, ?_, trivial⟩ <;> intro a <;> simp [AccessCheck.ofEa, hk, or_assoc]
theorem reads_late {s : State} {n al : Nat} {l : Label} : Reads (alignTable n al ++ labelTable l ++ coTable s n) (lateReads s n al l) := by
  unfold alignTable labelTable coTable lateReads
  refine ⟨?_, ?_, ?_, trivial⟩ <;> intro a <;> simp [AccessCheck.ofEa]

theorem AllIssue.mono {l : List Instr} {s : State} {cap : Bool} {P Q : Env → Prop} (h : AllIssue l s cap P) (hpq : ∀ e, P e → Q e) :
    AllIssue l s cap Q := by
  intro i hi
  obtain ⟨e, h1, h2⟩ := h i hi
  exact ⟨e, h1, hpq e h2⟩
/-- The kinds of plain loads and stores, and of capability loads and stores, as tests. -/
def kindPlain (a : MemAcc) : Bool := a.k.kind == 0 || a.k.kind == 3
def kindCap (a : MemAcc) : Bool := a.k.kind == 0 || (a.k.kind == 3 && !a.k.tarnWin)
def kindTarn (a : MemAcc) : Bool := a.k.kind == 3
def kindAtom (a : MemAcc) : Bool := a.k.kind == 0 && decide (0 ≤ a.ea) && isDev a.ea.toNat
/-- The table of a store of four bytes, and its tests. -/
def storeTable (s : State) (e : Env) : List AccessCheck :=
  capTable s e (loadKinds false) (fun _ => [pST]) (sizeBytes e.f.size) ++ alignTable (sizeBytes e.f.size) (sizeAlign e.f.size) ++
    labelTable (e.shapeLbl e.f.c (sizeRegs e.f.size).1 (sizeRegs e.f.size).2) ++ coTable s (sizeBytes e.f.size)
theorem reads_store {s : State} {e : Env} : Reads (storeTable s e) (capReads s e kindPlain (fun _ => [pST]) (sizeBytes e.f.size) ++
    lateReads s (sizeBytes e.f.size) (sizeAlign e.f.size) (e.shapeLbl e.f.c (sizeRegs e.f.size).1 (sizeRegs e.f.size).2)) := by
  unfold storeTable
  rw [List.append_assoc, List.append_assoc, ← List.append_assoc (alignTable _ _)]
  exact (reads_cap kindPlain (fun a => by simp [loadKinds, kindPlain])).append reads_late
/-- States in which a store through s4 fails a step of the table. -/
def storeFails : List (State × Nat) :=
  [(base, 0), (caps (memCap.withOtype 1), 1), (caps (rootCap 1 0 1 [pLD, pST] 0x20000 0x1000), 2), (caps (rootCap 0 0 5 [pLD, pST] 0x20000 0x1000), 3),
    (caps (rootCap 0 0 1 [pLD] 0x20000 0x1000), 4), (caps (memCap.withAddr 0x20FFD), 5), (caps (memCap.withAddr 0x20001), 6),
    (let s := caps memCap; { s with groups := s.groups.map (fun p => (p.1, p.2.setVsd 2 { Side.clear with lbl := 5 })) }, 7),
    ({ caps memCap with side := [(0x1000, 0x10)] }, 8)]
theorem test_wit_AccessTraps_store : ∀ p ∈ storeFails, AllIssue [.st { F0 with a := .s 4, c := .v 2, mod := 2 }] p.1 false (fun e =>
      ¬ StoreEarly e e.f.size ∧ ¬(e.f.sizeOk false = false ∨ e.dataOk e.f.c e.f.size = false ∨ AddrBad e false) ∧ e.any = true ∧
      e.g.fencing = 0 ∧ ∃ c j x, FailsFirst (storeTable p.1 e) (e.accs e.parts) c j x) := by
  intro p hp
  refine AllIssue.mono (P := fun e => ¬ StoreEarly e e.f.size ∧ ¬(e.f.sizeOk false = false ∨ e.dataOk e.f.c e.f.size = false ∨ AddrBad e false) ∧
    e.any = true ∧ e.g.fencing = 0 ∧ firstFails (capReads p.1 e kindPlain (fun _ => [pST]) (sizeBytes e.f.size) ++
      lateReads p.1 (sizeBytes e.f.size) (sizeAlign e.f.size) (e.shapeLbl e.f.c (sizeRegs e.f.size).1 (sizeRegs e.f.size).2))
      (e.accs e.parts) p.2 = true) (allIssue ?_) (fun e h => ⟨h.1, h.2.1, h.2.2.1, h.2.2.2.1, failsFirst_of _ reads_store h.2.2.2.2⟩)
  simp only [StoreEarly, AddrBad]
  revert hp; revert p; decide +kernel

theorem failsFirst_null {s : State} {e : Env} {kinds : MemAcc → Prop} {perms : MemAcc → List Nat} {n : Nat} {late : List AccessCheck} {as : List MemAcc}
    (h : as.head?.any (fun a => !a.k.tag) = true) : ∃ c j x, FailsFirst (capTable s e kinds perms n ++ late) as c j x := by
  cases as with
  | nil => simp at h
  | cons a as' =>
    refine ⟨_, _, _, 0, AccessCheck.ofEa cTAG (fun a => a.k.tag = false), [], a, as', rfl, ?_, rfl, by simp, by simpa [AccessCheck.ofEa] using h, rfl, rfl, rfl⟩
    intro j y hj; omega
/-- The team's tarn capability without its tag in s4 and s5; a capability that is not GLOBAL in s6 and s7. -/
def nullTarn : State := caps ((b0.tarnCap base).withTag false)
def localCap : TCap := rootCap 0 0 1 [pLD] 0x20000 0x1000
theorem failsFirst_one {P : MemAcc → Prop} {as : List MemAcc} (code : Byte) (h : as ≠ [] ∧ ∀ a ∈ as, P a) :
    ∃ c j x, FailsFirst [.ofEa code P] as c j x := by
  cases as with
  | nil => exact absurd rfl h.1
  | cons a as' =>
    refine ⟨_, _, _, 0, AccessCheck.ofEa code P, [], a, as', rfl, ?_, rfl, by simp, h.2 a (by simp), rfl, rfl, rfl⟩
    intro j y hj; omega
/-- An atomic that no step before 3 stops, through an untagged capability. -/
def AtomTrapForm (x : AtomShape) (e : Env) : Prop :=
  x.ok e ∧ e.f.scope ≠ 3 ∧ ¬ AddrBad e true ∧ atomDst x e = true ∧ x.wide e = false ∧ (x.srcs e).any e.pendSrc = false ∧ e.any = true ∧
  e.g.fencing = 0 ∧ (x.accs e).head?.any (fun a => !a.k.tag) = true
theorem test_wit_AccessTraps : 
    AllIssue [.ld { F0 with dst := .v 0, a := .s 4, mod := 2 }] base false (fun e =>
      ¬ LoadEarly e e.f.size ∧ e.f.sizeOk true = true ∧ ¬ AddrBad e true ∧ vShape e.gr.vregs 1 0 = true ∧
      e.any = true ∧ e.g.fencing = 0 ∧ (e.accs (e.actors e.f.dst.isS)).head?.any (fun a => !a.k.tag) = true) ∧
    AllIssue [.ldk { F0 with dst := .v 4, a := .s 4 }] base false (fun e => ¬ LoadEarly e 4 ∧ e.f.mod = 0 ∧ ¬ AddrBad e true ∧
      vShape e.gr.vregs 4 4 = true ∧ e.any = true ∧ e.g.fencing = 0 ∧ (e.accs (e.actors e.f.dst.isS)).head?.any (fun a => !a.k.tag) = true) ∧
    AllIssue [.stk { F0 with a := .s 4, c := .s 6 }] base false (fun e => ¬ StoreEarly e 4 ∧ e.f.mod = 0 ∧ e.capSrcOk e.f.c = true ∧ ¬ AddrBad e false ∧
      e.any = true ∧ e.g.fencing = 0 ∧ (e.accs e.parts).head?.any (fun a => !a.k.tag) = true ∧ ∀ a ∈ e.accs e.parts, (e.cap e.f.c a.i).tag = false) ∧
    AllIssue [.ldt { F0 with dst := .v 4, a := .s 4, mod := 4 }] nullTarn false (fun e => ¬ LoadEarly e e.f.size ∧ e.f.sizeOk true = true ∧
      ¬ AddrBad e false ∧ vShape e.gr.vregs 4 4 = true ∧ e.any = true ∧ e.g.fencing = 0 ∧
      (e.accs (e.actors e.f.dst.isS)).head?.any (fun a => !a.k.tag) = true ∧
      ∀ a ∈ e.accs (e.actors e.f.dst.isS), ¬ OutsideTarn nullTarn e (sizeBytes e.f.size) a) ∧
    AllIssue [.stt { F0 with a := .s 4, c := .v 2, mod := 2 }] nullTarn false (fun e => ¬ StoreEarly e e.f.size ∧ e.f.sizeOk false = true ∧
      e.dataOk e.f.c e.f.size = true ∧ ¬ AddrBad e false ∧ e.any = true ∧ e.g.fencing = 0 ∧ (e.accs e.parts).head?.any (fun a => !a.k.tag) = true ∧
      ∀ a ∈ e.accs e.parts, ¬ OutsideTarn nullTarn e (sizeBytes e.f.size) a) ∧
    AllIssue [.ldt { F0 with dst := .v 0, a := .s 4, mod := 2 }, .stt { F0 with a := .s 4, c := .v 0, mod := 2 }] (caps ownBlock) false (fun e =>
      e.any = true ∧ e.accs e.parts ≠ [] ∧ ∀ a ∈ e.accs e.parts, Permitted (caps ownBlock) e (fun a => a.k.kind = 3) [pLD, pST] (sizeBytes e.f.size)
        (sizeAlign e.f.size) a ∧ OutsideTarn (caps ownBlock) e (sizeBytes e.f.size) a) ∧
    AllIssue [.stk { F0 with a := .s 4, c := .s 6 }] (two memCap localCap) false (fun e => e.any = true ∧ e.accs e.parts ≠ [] ∧
      ∀ a ∈ e.accs e.parts, Permitted (two memCap localCap) e (loadKinds true) [pST, pSTCAP] 16 16 a ∧ (e.cap e.f.c a.i).tag = true ∧
        (e.cap e.f.c a.i).has pGLOBAL = false ∧ a.k.kind ≠ 3) ∧
    AllIssue [.atom { F0 with dst := .v 0, a := .s 4, c := .v 2 }] base false (AtomTrapForm atomShape) ∧
    AllIssue [.atomf { F0 with dst := .v 0, a := .s 4, c := .v 2 }] base false (AtomTrapForm atomfShape) ∧
    AllIssue [.atomfAddOrd { F0 with a := .s 4, c := .v 2, mod := 0x10 }] base false (AtomTrapForm atomfOrdShape) ∧
    AllIssue [.cas { F0 with dst := .v 0, a := .s 4, c := .v 2, d := .v 3 }] base false (AtomTrapForm casShape) ∧
    AllIssue [.ld { F0 with dst := .v 0, a := .s 4, mod := 2 }, .st { F0 with a := .s 4, c := .v 0, mod := 2 }, .atom { F0 with dst := .v 0, a := .s 4, c := .v 2 },
      .ldt { F0 with dst := .v 4, a := .s 4, mod := 2 }, .stt { F0 with a := .s 4, c := .v 0, mod := 2 }]
      (mk (fun g => g.setSsd 4 { Side.clear with pend := true })) false (fun e => e.capPend e.f.a = true) ∧
    AllIssue [.ld { F0 with dst := .v 0, a := .v 3, mod := 2 }, .st { F0 with a := .v 3, c := .v 0, mod := 2 }, .atom { F0 with dst := .v 0, a := .v 3, c := .v 2 },
      .ldk { F0 with dst := .v 4, a := .v 3 }, .stk { F0 with a := .v 3, c := .v 4 }, .ldt { F0 with dst := .v 0, a := .v 3, mod := 2 },
      .stt { F0 with a := .v 3, c := .v 0, mod := 2 }] base false (fun e => AddrBad e false ∧ AddrBad e true ∧ e.capPend e.f.a = false ∧ e.pendSrc e.f.b = false) := by
  refine ⟨?_, ?_, ?_, ?_, ?_, ?_, ?_, ?_, ?_, ?_, ?_, ?_, ?_⟩ <;> (apply allIssue; simp only [LoadEarly, StoreEarly, AddrBad, AtomTrapForm, atomShape, atomfShape, atomfOrdShape, casShape, permitted_iff, loadKinds, OutsideTarn]; decide +kernel)

/-- The first thread passes the first k checks and fails the next. -/
def failsAt (e : Env) (cs : Nat → List ThreadCheck) (k : Nat) : Bool :=
  match e.parts with
  | i :: _ => ((cs i)[k]?).any (·.2.1) && ((cs i).take k).all (fun c => !c.2.1)
  | [] => false
theorem threadFails_of {e : Env} {cs : Nat → List ThreadCheck} {k : Nat} (h : failsAt e cs k = true) : ∃ c i a, ThreadFails e cs c i a := by
  unfold failsAt at h
  split at h
  · next i post hp =>
    simp only [Bool.and_eq_true, List.all_eq_true, Bool.not_eq_true'] at h
    cases hk : (cs i)[k]? with
    | none => simp [hk] at h
    | some c =>
      obtain ⟨code, b, a⟩ := c
      have hb : b = true := by simpa [hk] using h.1
      subst hb
      refine ⟨code, i, a, [], post, k, hp, by simp, hk, fun m c hm hc => ?_⟩
      exact h.2 c (List.mem_take_iff_getElem.2 ⟨m, by have := (List.getElem?_eq_some_iff.1 hc).1; omega, (List.getElem?_eq_some_iff.1 hc).2⟩)
  · simp at h
/-- The premises of a capability instruction that nothing before the CAP_ checks stops. -/
def CapForm1 (us : Env → List Src) (e : Env) : Prop := CapForm us e ∧ e.capPend e.f.a = false ∧ e.capSrcOk e.f.a = true ∧ e.pendSrc e.f.b = false
set_option synthInstance.maxSize 1000 in
theorem test_wit_CapabilityTraps :
    AllIssue [.kbound { K1 with b := .imm 511 }, .kaddr { K1 with b := .imm 511 }, .kadd { K1 with b := .imm 511 }] (caps (memCap.withOtype 1)) false
      (fun e => CapForm1 (fun e => [e.f.a, e.f.b]) e ∧ failsAt e (fun i => derivedChecks (e.cap e.f.a i)) 0 = true) ∧
    AllIssue [.kbound { K1 with b := .imm 511 }, .kaddr { K1 with b := .imm 511 }, .kadd { K1 with b := .imm 511 }]
      (caps (rootCap 2 0 1 [pENG] 65536 1)) false (fun e => CapForm1 (fun e => [e.f.a, e.f.b]) e ∧
      failsAt e (fun i => derivedChecks (e.cap e.f.a i)) 1 = true) ∧
    AllIssue [.kbound { K1 with b := .s 8 }] (caps memCap) false (fun e => CapForm1 (fun e => [e.f.a, e.f.b]) e ∧
      failsAt e (fun i => derivedChecks (e.cap e.f.a i) ++ [(cBOUND, (e.cap e.f.a i).tag &&
        (boundCap (e.cap e.f.a i) (e.capInt e.f.b false i).toNat (e.f.mod.getLsbD 0)).2, (e.cap e.f.a i).addr)]) 2 = true) ∧
    (∀ p ∈ [(memCap, (0 : Nat)), (memCap.withOtype 1, 1)], AllIssue [.kperm { K1 with b := if p.2 = 0 then .s 8 else .zero }] (caps p.1) false
      (fun e => CapForm1 (fun e => [e.f.a, e.f.b]) e ∧ failsAt e (fun i => let k := e.cap e.f.a i
        [(cILOPER, decide ((if e.f.mod.getLsbD 0 then 2 ^ 14 else 2 ^ 12) ≤ (e.capInt e.f.b false i).toNat), 0),
          (cSEAL, k.tag && k.otype != 0, k.addr)]) p.2 = true)) ∧
    (∀ p ∈ [((TCap.null, sealer 1), (0 : Nat)), ((memCap, (sealer 1).withTag false), 1), ((memCap.withOtype 1, sealer 1), 2),
        ((memCap, (sealer 1).withOtype 1), 3), ((memCap, codeCap), 4), ((memCap, rootCap 0 0 5 [pSEAL] 1 61), 5), ((memCap, localCap), 6), ((memCap, memCap), 7)],
      AllIssue [.kseal { K1 with b := .s 6 }] ((fun s : State => if p.1.2.tag then s else { s with groups := s.groups.map (fun g => (g.1, { g.2 with stag := [(2, true)] })) }) (two p.1.1 p.1.2)) false (fun e => CapForm (fun e => [e.f.a, e.f.b]) e ∧
        e.capPend e.f.a = false ∧ e.capPend e.f.b = false ∧ failsAt e (fun i => let a := e.cap e.f.a i
          let b := e.cap e.f.b i
          [(cTAG, !a.tag, a.addr), (cTAG, !b.tag, b.addr), (cSEAL, a.otype != 0, a.addr), (cSEAL, b.otype != 0, b.addr)] ++
            sealerChecks e b pSEAL) p.2 = true)) ∧
    (∀ p ∈ [(TCap.null, (0 : Nat)), (codeCap.withOtype 1, 1), (memCap, 2), (rootCap 1 0 1 [pLD] 0x10000 0x1000, 3)],
      AllIssue [.kseal { K1 with mod := 1 }] (caps p.1) false (fun e => CapForm1 (fun e => [e.f.a]) e ∧ e.f.b = .zero ∧
        failsAt e (fun i => let a := e.cap e.f.a i
          [(cTAG, !a.tag, a.addr), (cSEAL, a.otype != 0, a.addr), (cKIND, a.kind != 1, a.addr), (cPERM, !a.has pEXEC, a.addr)]) p.2 = true)) ∧
    (∀ p ∈ [((memCap, sealer 1), (2 : Nat)), ((memCap.withOtype 1, sealer 2), 3), ((memCap.withOtype 1, (rootCap 0 0 1 [pSEAL] 1 61)), 6)],
      AllIssue [.kunseal { K1 with b := .s 6 }] (two p.1.1 p.1.2) false (fun e => CapForm (fun e => [e.f.a, e.f.b]) e ∧
        e.capPend e.f.a = false ∧ e.capPend e.f.b = false ∧ failsAt e (fun i => let a := e.cap e.f.a i
          let b := e.cap e.f.b i
          [(cTAG, !a.tag, a.addr), (cTAG, !b.tag, b.addr), (cSEAL, !(decide (1 ≤ a.otype) && decide (a.otype ≤ 61)), a.addr),
            (cSEAL, b.otype != 0 || b.addr != a.otype, b.addr)] ++ sealerChecks e b pUNSEAL) p.2 = true)) ∧
    (∀ p ∈ [(TCap.null, (0 : Nat)), (memCap, 1)], AllIssue [.kunsealGrant { K1 with mod := 1 }] (caps p.1) false (fun e => CapForm1 (fun e => [e.f.a]) e ∧
      e.f.b = .zero ∧ failsAt e (fun i => let a := e.cap e.f.a i
        [(cTAG, !a.tag || (a.otype == 62 && ((caps p.1).tokenEntry a).isNone), a.addr),
          (cSEAL, a.otype != 62 || decide (a.kind > 4) || !((caps p.1).tokenEntry a).any e.isRecipient, a.addr),
          (cCOLOUR, !e.ctx.permits a.col, a.addr)]) p.2 = true)) ∧
    AllIssue [.kbound { K1 with b := .imm 511 }, .kaddr { K1 with b := .imm 511 }, .kperm { K1 with b := .imm 511 }, .kseal { K1 with b := .s 6 },
      .kunseal { K1 with b := .s 6 }, .kseal { K1 with mod := 1 }, .kunsealGrant { K1 with mod := 1 }]
      (mk (fun g => g.setSsd 4 { Side.clear with pend := true })) false (fun e => e.capPend e.f.a = true) ∧
    AllIssue [.kbound { K1 with b := .imm 511, qual := 1 }, .kaddr { K1 with b := .imm 511, qual := 1 }, .kperm { K1 with b := .imm 511, qual := 1 },
      .kseal { K1 with b := .s 6, qual := 1 }, .kunseal { K1 with b := .s 6, qual := 1 }, .kseal { K1 with mod := 1, qual := 1 }, .kunsealGrant { K1 with mod := 1, qual := 1 }]
      base false (fun e => e.capPend e.f.a = false ∧ e.capPend e.f.b = false ∧ e.pendSrc e.f.b = false ∧ e.shapePendDst e.f.dst 4 2 = false ∧ e.f.qual ≠ 0) := by
  refine ⟨?_, ?_, ?_, ?_, ?_, ?_, ?_, ?_, ?_, ?_⟩
  case refine_4 => intro p hp; apply allIssue; simp only [CapForm1, CapForm]; revert hp; revert p; decide +kernel
  case refine_5 => intro p hp; apply allIssue; simp only [CapForm]; revert hp; revert p; decide +kernel
  case refine_6 => intro p hp; apply allIssue; simp only [CapForm1, CapForm]; revert hp; revert p; decide +kernel
  case refine_7 => intro p hp; apply allIssue; simp only [CapForm]; revert hp; revert p; decide +kernel
  case refine_8 => intro p hp; apply allIssue; simp only [CapForm1, CapForm]; revert hp; revert p; decide +kernel
  all_goals (apply allIssue; (try simp only [CapForm1, CapForm]); decide +kernel)

/-- What an instruction sees at a state, under conditions. -/
def Sees (i : Instr) (s : State) (P : Env → Prop) : Prop :=
  ∃ row f e, i.parts = some (row, f) ∧ s.env? row f = some e ∧ e.g.owed = none ∧ P e
theorem sees_of {i : Instr} {s : State} {P : Env → Prop}
    (h : ∃ h : (envAt i s).isSome = true, ((envAt i s).get h).g.owed = none ∧ P ((envAt i s).get h)) : Sees i s P := by
  obtain ⟨h1, h2, h3⟩ := h
  cases hp : i.parts with
  | none => simp [envAt, hp] at h1
  | some p =>
    have : envAt i s = s.env? p.1 p.2 := by simp [envAt, hp]
    exact ⟨p.1, p.2, _, hp, by simp [← this], h2, h3⟩
/-- The run of a Torub-N group with instructions executed already. -/
def longRun : State := mk (fun g => { g with run := { g.run with count := 24 } }) id (fun r => { r with native := !r.native })
/-- A group of few registers. -/
def smallBase : State := mk id id (fun r => { r with vregs := 8, native := !r.native })
theorem test_wit_DecodeTraps :
    Sees (.ffma N0) nativeBase (fun e => e.row.formOk e.f.form = false) ∧
    (∀ p ∈ [(Instr.exitt N0, nativeBase), (.add N0, longRun)], Sees p.1 p.2 (fun e => e.row.formOk e.f.form = true ∧ e.f.form.isDense = false ∧
      RunBroken e e.row)) ∧
    (∀ i ∈ [Instr.add { N0 with lat := 5, dst := .v 0 }, .add { N0 with a := .lat 0 }], Sees i nativeBase (fun e => e.row.formOk e.f.form = true ∧
      e.f.form.isDense = false ∧ ¬ RunBroken e e.row ∧ LatchBroken e)) ∧
    (∀ i ∈ [Instr.nop { N0 with a := .v 0 }, .add { N0 with a := .v 8, dst := .v 0 }, .add { N0 with a := .v 0, dst := .v 8 }], Sees i smallBase (fun e =>
      e.row.formOk e.f.form = true ∧ ¬ RunBroken e e.row ∧ ¬ LatchBroken e ∧ asksCapture e.f = false ∧ (e.f.clean e.row = false ∨
        e.f.a = .v 8 ∧ e.gr.vregs ≤ 8 ∨ e.f.dst = .v 8 ∧ e.gr.vregs ≤ 8))) := by
  refine ⟨sees_of ?_, ?_, ?_, ?_⟩
  · decide +kernel
  · intro p hp; apply sees_of; simp only [RunBroken]; revert hp; revert p; decide +kernel
  · intro p hp; apply sees_of; simp only [RunBroken, LatchBroken]; revert hp; revert p; decide +kernel
  · intro p hp; apply sees_of; simp only [RunBroken, LatchBroken]; revert hp; revert p; decide +kernel

/-- Every flag traps; v1 and v2 of every thread hold these values; slot 0 has the format of `bpi`. -/
def trapWith (a b : Word) : State :=
  { mk (fun g => (List.range 16).foldl (fun g i => (g.vset 1 i a).vset 2 i b) { g with mode := 0xF80 }) with grids := bpi.grids }
/-- The instruction would set a flag that traps. -/
def FlagForm (ok : Env → Prop) (h : Env → Lane) (e : Env) : Prop := ok e ∧ Fits e e.srcs ∧ e.flagsOf (h e) &&& e.g.fpten ≠ 0
theorem test_wit_FlagTraps :
    AllIssue [.fadd R2] (trapWith 0x7F800000 0xFF800000) true (FlagForm (FloatForm true false 1) (arithLane (fun rd a b _ => addFp rd a b))) ∧
    AllIssue [.fsub R2] (trapWith 0x7F800000 0x7F800000) true (FlagForm (FloatForm true false 1) (arithLane (fun rd a b _ => addFp rd a (negFp b)))) ∧
    AllIssue [.fmul R2] (trapWith 0x7F800000 0) true (FlagForm (FloatForm true false 1) (arithLane (fun _ a b _ => mulFp a b))) ∧
    AllIssue [.ffma R3] (trapWith 0x7F800000 0) true (FlagForm (FloatForm true false 1) (arithLane (fun rd a b c => fmaFp rd a b c))) ∧
    AllIssue [.frint R1] (trapWith 0x3F000000 0) true (FlagForm (FloatForm true true 1)
      (fun e => e.elems (fun i k => rintPat e.ffmt (e.rm false) (e.f.mod.getLsbD 5) (e.patA i k)))) ∧
    AllIssue [.fldexp R2] (trapWith 0x3F800001 (-149)) true (FlagForm (FloatForm true false 1) fldexpLane) ∧
    AllIssue [.fcmp { R2 with qual := 2 }] (trapWith 0x7FC00000 0) true (FlagForm (FloatForm false false 8) fcmpLane) ∧
    AllIssue [.rcp R1] (trapWith 0 0) true (FlagForm (FloatForm true false 1) (exactLane rcpFp)) ∧
    AllIssue [.rsqrt R1] (trapWith 0 0) true (FlagForm (FloatForm true false 1) (exactLane rsqrtFp)) ∧
    AllIssue [.sqrt R1] (trapWith 0xBF800000 0) true (FlagForm (FloatForm true false 1) (exactLane sqrtFp)) ∧
    AllIssue [.exp2 R1] (trapWith 0x3F000000 0) true (FlagForm (FloatForm false false 1) (refLane true exp2Ref)) ∧
    AllIssue [.log2 R1] (trapWith 0xBF800000 0) true (FlagForm (FloatForm false false 1) (refLane false log2Ref)) ∧
    AllIssue [.cvt { R1 with mod := 6 * 8 }] (trapWith 0x3F800001 0) true (FlagForm (fun e => e.f.mod.toNat % 8 < 7 ∧ e.f.mod.toNat / 8 < 7 ∧
      e.f.mod.toNat % 8 ≠ e.f.mod.toNat / 8 ∧ e.f.qual = 0) cvtLane) ∧
    AllIssue [.cvtf { R2 with qual := 1 }] (trapWith 0x3F800001 0) true (FlagForm (fun e => e.f.mod.toNat < 2 ∧ e.f.qual.toNat < 8) cvtfLane) ∧
    AllIssue [.qscale { R2 with mod := 1 }] (trapWith 1 0x40000000) true (FlagForm (fun e => e.f.mod.toNat < 2 ∧ e.f.qual.toNat < 8 ∧
      (emaxOf (slotFmt e.slot)).isSome = true) qscaleLane) := by
  refine ⟨?_, ?_, ?_, ?_, ?_, ?_, ?_, ?_, ?_, ?_, ?_, ?_, ?_, ?_, ?_⟩ <;> (apply allIssue; simp only [FlagForm, FloatForm, fits_iff]; decide +kernel)

/-! ### Witnesses: engine flags, the switch, dispatch, sessions, the host, snapshots, saves -/

/-- A command that acquires, or releases, through a word that is no capability. -/
def badFlag (r : Shape) : Shape := { r with synca := ⟨syncCap.bits, false⟩, syncr := ⟨syncCap.bits, false⟩, acq := some 6, rel := some (6, 0) }
theorem test_wit_EngineEvents_flags : (∀ n ∈ [7, 8], (oneCommand (cmdIn .queued (acquires n))).flagFault syncCap = none ∧
      (oneCommand (cmdIn .acquiring (acquires n))).flagFault syncCap = none) ∧
    (liveCmd (oneCommand (cmdIn .acquiring badFlag)) = true ∧
      (oneCommand (cmdIn .acquiring badFlag)).flagFault (cmdIn .acquiring badFlag).rcd.synca = some (cTAG, 0x21000)) ∧
    ({ oneCommand (cmdIn .acquiring (acquires 7)) with unc := [(0x21000 / 32, true)] } : State).flagFault syncCap = none ∧
    (oneCommand (cmdIn (.finishing 0 0) releases)).flagFault syncCap = none ∧ (engineSent (oneCommand (cmdIn (.finishing 0 0) releases))).flagFault syncCap = none ∧
    (liveCmd (oneCommand (cmdIn (.finishing 0 0) badFlag)) = true ∧ (cmdIn (.finishing 0 0) badFlag).rcd.cmpl = ⟨0, false⟩ ∧
      (oneCommand (cmdIn (.finishing 0 0) badFlag)).flagFault (cmdIn (.finishing 0 0) badFlag).rcd.syncr = some (cTAG, 0x21000)) := by decide +kernel

/-- A collective through the switch. -/
def switched (r : Shape) : Shape := { collective r with sw := true }
/-- Its command with its shape record, whose SWSTATE is given, and with a second command of that record that has asked as well. -/
def switching (st : CmdState) (sws : Nat) (two : Bool) : State :=
  let hc (c : Ctx) : Ctx := { c with shapes := [(0, ⟨1, some { switched (oneByte false) with swstate := sws }⟩)] }
  let c : Cmd := { cmdIn st switched with ringSize := 2, asked := true }
  let s := oneCommand c
  { s with ctxs := s.ctxs.map (fun p => (p.1, hc p.2)), cmds := s.cmds ++ (if two then [(10, { c with id := 10 })] else []) }
theorem test_wit_EngineEvents_switch :
    (∀ st ∈ [CmdState.switchWait, .active], ∀ sws ∈ [0, 1, 3], ∀ two ∈ [false, true], let s := switching st sws two
      liveCmd s = true ∧ (mfind s.cmds 9).any (fun c => c.asked && c.state == st && !c.waited &&
        (s.ctx? c.ctx).any (fun x => x.colour == c.ctx && (x.shape? c.handle.toNat).any (fun r => r.swstate == sws))) = true) ∧
    (∀ sws ∈ [0, 1], let s := switching .ring sws false
      (mfind s.cmds 9).any (fun c => c.state == .ring && c.rcd.sw) = true ∧ (∀ p ∈ s.cmds, p.1 < 9 → False) ∧
      (mfind s.cmds 9).any (fun c => decide (s.inProgress c < 4) &&
        ((s.ctx? c.ctx).bind (fun x => x.shape? c.handle.toNat)).any (fun r => r.swstate == 1) == (sws == 1)) = true ∧ s.devgroup = none) := by
  decide +kernel

theorem test_wit_LaunchQueues_ends : Identified base ∧ (base.grid? b0.gr.id).any (fun g => !g.complete) = true ∧ base.anyRunning 2 = true ∧
    Identified (idleGroups base) ∧ (idleGroups base).anyRunning 2 = false ∧ ((idleGroups base).team? 2).any (fun t => t.grid == b0.gr.id && t.status != .retired) = true ∧
    (dispatching id []).grids.any (fun p => !p.2.complete && decide (p.2.nextKid < p.2.nteams)) = true :=
  ⟨identified_of _ (by rfl) (by rfl), by decide +kernel, by decide +kernel, identified_of _ (by rfl) (by rfl), by decide +kernel⟩
/-- A packet of revision 2 whose completion record is at an address. -/
def oldPacket (a : Nat) : State :=
  let s := launching 1 1
  let s1 : State := { s with mem := setBytes (setBytes s.mem 0x30000 [2]) 0x30010 (bytesOfNat 8 a) }
  s1.setFn 0 { s1.fn 0 with pasids := [(0, ⟨true, 7, 1⟩)] }
theorem test_wit_LaunchQueues_revision : ∀ p ∈ [((0x32000 : Nat), (0, (0 : Byte))), (0x32004, (0, 0)), (0x200000, (1, cCOLOUR)), (0x80000000032000, (2, 0))],
    pktCode ((oldPacket p.1).packet 0 15) = (0, 0) ∧ imgNat (bytesAt (oldPacket p.1).mem 0x30000 64) 0 2 ≠ ((oldPacket p.1).queue 0 15).rev ∧
    imgNat (bytesAt (oldPacket p.1).mem 0x30000 64) 0x10 8 = p.1 ∧
    (p.1 % 32 = 0 → reachCode ((oldPacket p.1).reach 0 ((oldPacket p.1).ringPasid 0) p.1 32 true) = p.2) ∧ NoSync (oldPacket p.1) p.1 32 := by
  simp only [NoSync]; decide +kernel

/-- Functions 0 and 2 have a weight, function 1 none. -/
def weightedFns : State :=
  let s := (base.setFn 0 { base.fn 0 with weight := 3 }).setFn 2 { base.fn 2 with weight := 5 }
  s.setFn 1 { s.fn 1 with weight := 0 }
theorem test_wit_TeamLife_rounds : let w := weightedFns
    (w.wdrrPick ⟨[], 63⟩ [] = none) ∧ (w.wdrrPick ⟨[(0, 2)], 0⟩ [0, 2]).map (·.1) = some 0 ∧ (w.wdrrPick ⟨[], 0⟩ [0, 1, 2]).map (·.1) = some 2 ∧
    (w.wdrrPick ⟨[(2, 4)], 2⟩ [1]).map (·.1) = some 1 ∧ (w.wdrrPick ⟨[], 63⟩ [1, 2]).map (·.1) = some 2 := by decide +kernel
theorem test_wit_TeamLife_plans : Identified (teamIs .saved 0x400000) ∧ (teamIs .saved 0x400000).savedNext 0 = some 2 ∧
    (dispatching id []).savedNext 0 = none ∧ ((dispatching id []).plan 0).isSome = true ∧
    (let s := dispatching (fun g => { g with prio := 0, pair := true }) [1, 2, 3, 4, 5];
      (s.grid? 50).any (fun gr => (s.ctx? gr.colour).isSome && s.gridPlan gr == some (.preempt 50 [[0, 1]] [2])) = true) :=
  ⟨identified_of _ (by rfl) (by rfl), by decide +kernel⟩

/-- Function 63's TDI runs under session 5, owns colour 1, and the machine's grid and team are of it; key colour 4095 is a weight of session
5 or not. -/
def owned (st : SessState) (fn : Option Nat) (sess : Nat) : State :=
  let s := inSession st fn
  let s1 : State := { s with ctxs := s.ctxs.map (fun p => (p.1, { p.2 with fn := 63 })), keys := s.keys ++ [(4095, .weight [] 5)],
                             comap := [⟨0x50000, 0x1000, 4095, .live, 63, true⟩] }
  s1.setFn 63 { State.reset.fn 63 with session := sess, tdi := .run }
theorem test_wit_Sessions_lost : (∀ fn ∈ [none, some 63], ∀ sess ∈ [5, 6],
      (Identified (owned .frozen fn sess) ∧ mfind (owned .frozen fn sess).sessions 5 = some ⟨5, fn, .frozen, 2000, 0⟩) ∧
      (Identified (owned .active fn sess) ∧ mfind (owned .active fn sess).sessions 5 = some ⟨5, fn, .active, 2000, 0⟩)) ∧
    ((owned .active (some 63) 5).fn 63).session = 5 ∧ (owned .active (some 63) 5).ctxs.any (fun p => p.2.fn == 63 && (owned .active (some 63) 5).keyed p.1) = true ∧
    (owned .active (some 63) 5).grids.any (fun p => !p.2.complete && (owned .active (some 63) 5).ctxs.any (fun c => c.1 == p.2.colour)) = true ∧
    (mfind (owned .active none 5).keys 4095 = some (.weight [] 5)) ∧
    (owned .active none 5).comap.any (fun e => e.keycol == 4095 && e.fn == 63) = true := by
  refine ⟨fun fn hf sess hs => ?_, by decide +kernel, by decide +kernel, by decide +kernel, by decide +kernel, by decide +kernel⟩
  refine ⟨⟨identified_of _ (by rfl) (by rfl), ?_⟩, identified_of _ (by rfl) (by rfl), ?_⟩ <;> (revert hs; revert sess; revert hf; revert fn; decide +kernel)
theorem test_wit_Sessions_losing : LosesSession (owned .frozen none 5) ⟨5, none, .frozen, 2000, 0⟩ (.graceExpiry 5) ∧
    LosesSession (owned .active (some 63) 5) ⟨5, some 63, .active, 2000, 0⟩ (.endSession ⟨5, true⟩) :=
  ⟨⟨by decide +kernel, .inl ⟨rfl, rfl⟩⟩, ⟨by decide +kernel, .inr ⟨rfl, rfl⟩⟩⟩
/-- A key colour whose CO map entry belongs to a function whose TDI is in a state. -/
def unkeyed (t : Tdi) : State :=
  let s : State := { inSession .active none with comap := [⟨0x50000, 0x1000, 4095, .live, 63, true⟩] }
  s.setFn 63 { State.reset.fn 63 with tdi := t }
theorem test_wit_Sessions_weights : (∀ t ∈ [Tdi.run, .locked], (unkeyed t).keyed 4095 = false ∧ (unkeyed t).ctx? 4095 = none ∧
      ((unkeyed t).comap.all (fun e => e.keycol != 4095 || e.fn == 0 || ((unkeyed t).fn e.fn).tdi == .run) = (t == .run))) ∧
    Identified (inSession .active none) := ⟨by decide +kernel, identified_of _ (by rfl) (by rfl)⟩
theorem test_wit_Sessions_requests (m : SpdmMsg) : SessionRequest m (.heartbeat m) ∧ SessionRequest m (.getReceipt ⟨m, 3⟩) ∧
    SessionRequest m (.ideKm m) := ⟨.heartbeat, .getReceipt 3, .ideKm⟩

/-- A dirty line of the host's page 5, cached under colour 1; function 0's PASID 7 is that colour's. -/
def hostCached (line : Nat) : State :=
  let s : State := { managed with copies := [⟨.l1 0, line, 1, 1, 1, [(127, 0xAB)], [(127, 0x0F)], 0, 0, [], 0, some 0x9000⟩] }
  s.setFn 0 { s.fn 0 with pasids := [(0, ⟨true, 7, 1⟩)] }
theorem test_wit_HostEvents_lines : (∀ k ∈ (hostCached ((2 ^ 55 + 0x5000) / 128)).copies, HostLine (hostCached ((2 ^ 55 + 0x5000) / 128)) 0 7 0x5000 0x1000 k) ∧
    (∀ k ∈ (hostCached ((2 ^ 55 + 0x6000) / 128)).copies, ¬ HostLine (hostCached ((2 ^ 55 + 0x6000) / 128)) 0 7 0x5000 0x1000 k) ∧
    (hostCached ((2 ^ 55 + 0x5000) / 128)).copies.all (fun k => k.hpa == some 0x9000 && rising k.dirty && k.dirty.all (fun p => decide (p.1 < 128))) = true := by
  simp only [HostLine]; decide +kernel
theorem test_wit_HostEvents_registers : (∀ fn ∈ [0, 1, 63], BarOpen managed fn) ∧
    (((queueing id).queue 0 15).enable = false ∧ ((queueing (fun x => { x with enable := true })).queue 0 15).enable = true) ∧
    ((managed.fn 0).mstat ≠ 1 ∧ ((managed (minting 3)).fn 0).mstat = 1) ∧ ((managed.fn 0).sstat ≠ 1 ∧ ((sealing 1 0x1000 []).fn 0).sstat = 1) ∧
    (((managed (fun f => { f with sop := 1 })).fn 0).sop = 1 ∧ ((managed (fun f => { f with sop := 1 })).fn 0).sstat ≠ 1) ∧
    ((managed.fn 0).fenable = false ∧ ((ringing true 1).fn 0).fenable = true) ∧
    ((managed id (block 1 0x100000 0x1000 1 0)).gblock.gstat = 1 ∧ (managed id (block 1 0x100000 0x1000 0 0)).gblock.gstat ≠ 1 ∧
      (managed id (block 1 0x100000 0x1000 0 0)).gblock.gop = 1) ∧
    mget PasidEntry.none (managed.fn 0).pasids 15 = ⟨false, 0, 0⟩ ∧ (⟨true, 7, 1⟩ : PasidEntry) ≠ ⟨false, 0, 0⟩ ∧
    (∀ t ∈ [Tdi.locked, .run, .unlocked], ((managed.setFn 63 { managed.fn 63 with tdi := t }).fn 63).tdi = t) := by
  simp only [BarOpen]; decide +kernel
/-- A range that was ungranted under the key that colour 1 has. -/
def regranting : State :=
  let s := managed id (block 1 0x100000 0x1000 1 0)
  { s with ungranted := [⟨0x100000, 0x1000, mfind s.keys 1⟩] }
theorem test_wit_GrantsAndMints_key : regranting.grantRefused = false ∧ regranting.sameKey 1 (0x100000 / 32) = true ∧
    regranting.coSector (0x100000 / 32) = false := by decide +kernel
theorem test_wit_Dredge_again : (∀ n ∈ [1, 2], let s : State := { dredging .sweep with dredge := { (dredging .sweep).dredge with requested := n } }
    s.dredge.state = .sweep ∧ s.dredge.completed = 0 ∧ s.dredge.requested = n) := by decide +kernel
theorem test_wit_SnapshotTriggers : (∀ s, SnapOf s (.sw 5 0) 0 0 0 5) ∧ SnapOf (reliable [] 2 1) (.fault cBOUND 0) 1 cBOUND 0 (cBOUND.setWidth 32) ∧
    (reliable [] 0 1).snapb.sarm.getLsbD 0 = false ∧
    (∀ b ∈ [0, 1, 2, 3], (reliable [] 0x0F 1).snapb.sarm.getLsbD b = true ∧ (reliable [] 0x0F 1).snapb.sarm.getLsbD 4 = false ∧ (reliable [] 0x0F 1).snapb.sstat = 1) ∧
    ((reliable [] 0x0F 2).snapb.sstat = 2 ∧ ({ reliable [] 0x0F 2 with clk := 99 } : State).clk < (reliable [] 0x0F 2).snapb.tclk) ∧
    ((reliable [] 0x0F 2).snapb.tclk ≤ (reliable [] 0x0F 2).clk ∧ (reliable [] 0x0F 3).snapb.sstat ≠ 1) :=
  ⟨fun _ => .sw 5 0, .fault cBOUND 0 (.inl rfl), by decide +kernel, by decide +kernel, by decide +kernel, by decide +kernel⟩

/-- A team with something in every kind of register, tile, accumulator and scratch. -/
def saving : State :=
  let hg (g : Group) : Group := { (((((g.vset 1 0 5).vset 7 15 0xDEADBEEF).vset 6 3 77).sset 63 0x123456789ABCDEF).pset 2 0x8) with
    c := 0xA5, mode := 0xFFF, sat := 0x7F, psize := 16, vside := [(3, { Side.clear with taint := 3, lbl := 2 })], status := .ready }
  let hr (r : CoreRes) : CoreRes := { r with
    tiles := [(0, { Tile.zero with co := true, keycol := 17, bytes := [(3, 9), (65535, 8)] }), (2, { Tile.zero with lbl := 1, bytes := [(100, 200)] })],
    accs := [(1, { Acc.zero with el := [(5, 0x11223344), (20479, 7)], unwaited := true })],
    mscr := [(1, 2), (16383, 4)], tarn := [(0, 1), (4095, 3)] }
  mk hg (fun t => { t with status := .saving, cores := t.cores.map hr, guards := [(0, .unresolved)] })
    (fun g => { g with tiles := 3, accs := 2, mscr := 1, tarn := 1, vregs := 8 }) (fun c => { c with saveBase := 0x80000, saveLen := 0x400000 })
theorem isDev_below {a n x : Nat} (h : isDev (a + n) = true) (hx : x < n) : isDev (a + x) = true := by
  simp only [isDev, decide_eq_true_eq] at *; omega
theorem pget_masked {g : Group} {w : Nat} (h : g.p.all (fun p => p.2 &&& firstMask w == p.2) = true) (n : Nat) :
    g.pget w n &&& firstMask w = g.pget w n := by
  have key : ∀ m : List (Nat × Mask), m.all (fun p => p.2 &&& firstMask w == p.2) = true → mget 0 m n &&& firstMask w = mget 0 m n := by
    intro m
    induction m with
    | nil => intro _; simp [mget, mfind]
    | cons p m ih =>
      intro hm
      simp only [List.all_cons, Bool.and_eq_true, beq_iff_eq] at hm
      have := ih hm.2
      simp only [mget, mfind] at this ⊢
      split
      · exact hm.1
      · exact this
  unfold Group.pget
  split
  · simp
  · exact key g.p h
theorem imageFits_of {s : State} {gr : Grid} {t : Team} {r : CoreRes} {member base : Nat}
    (h : base % 4096 = 0 ∧ isDev (base + 4096 * (gr.areas member).size) = true ∧ Memory.wf s.mem = true ∧ gr.width ∈ [16, 32, 64] ∧
      (∀ gid ∈ gr.gidsAt member, (s.group? t.id gid).any (fun g => decide (((g.v.map (·.1)).Pairwise (· < ·) ∧ ∀ p ∈ g.v, p.1 / 64 < gr.vregs ∧ p.1 % 64 < gr.width) ∧
        (∀ p ∈ g.vside, p.1 < gr.vregs) ∧ (∀ p ∈ g.vtag, p.1 / 64 < gr.vregs / 4 ∧ p.1 % 64 < gr.width) ∧ g.deferBytes.length ≤ 0x10000 ∧
        (g.mode &&& 0xFFF = g.mode ∧ g.sat &&& 0x7F = g.sat) ∧ g.threads.length = gr.width ∧
        g.p.all (fun p => p.2 &&& firstMask gr.width == p.2) = true)) = true) ∧
      (gr.tiles ≤ 8 ∧ KeysBelow r.tiles gr.tiles ∧ ∀ p ∈ r.tiles, KeysBelow p.2.bytes 0x10000 ∧ p.2.keycol < 4096) ∧
      (gr.accs ≤ 16 ∧ KeysBelow r.accs gr.accs ∧ ∀ p ∈ r.accs, KeysBelow p.2.el 20480) ∧ KeysBelow r.mscr (16384 * gr.mscr) ∧
      KeysBelow r.tarn (4096 * gr.tarn) ∧ KeysBelow t.guards 64 ∧ KeysBelow t.bars 24 ∧ KeysBelow t.binds 24 ∧ KeysBelow t.mrecs 16 ∧
      KeysBelow t.streams 16) : ImageFits s gr t r member base := by
  obtain ⟨h1, h2, h3, h4, h5, h6, h7, h8, h9, h10, h11, h12, h13, h14⟩ := h
  refine ⟨⟨h1, fun x hx => isDev_below h2 hx⟩, h3, h4, fun gid hg => ?_, h6, h7, h8, h9, fun _ => ⟨h10, h11, h12, h13, h14⟩⟩
  have := h5 gid hg
  cases hs : s.group? t.id gid with
  | none => simp [hs] at this
  | some g =>
    simp only [hs, Option.any_some, decide_eq_true_eq] at this
    exact ⟨g, rfl, this.1, this.2.1, this.2.2.1, this.2.2.2.1, pget_masked this.2.2.2.2.2.2, this.2.2.2.2.1, this.2.2.2.2.2.1⟩

/-- Its team, grid and core as they are written, and the place that its save area gives them. -/
def savingTeam : Team := (((saving.beforeImages 2).team? 2).getD b0.t)
def savingGrid : Grid := ((saving.grid? savingTeam.grid).getD b0.gr)
def savingCore : CoreRes := savingTeam.cores.headD (CoreRes.fresh 0 0)
theorem test_wit_SaveAndRestore_image : ImageFits (saving.beforeImages 2) savingGrid savingTeam savingCore 0 0xC0000 ∧ savingGrid.gidsAt 0 = [0] := by
  refine ⟨imageFits_of ?_, by decide +kernel⟩
  simp only [KeysBelow]
  decide +kernel
theorem saving_sound (a n : Nat) : saving.badSec? a n = none := by
  have h : ∀ x, saving.secBad x = false := fun x => rfl
  unfold State.badSec?
  split
  · rw [List.find?_eq_none]; intro x _; rw [h x]; simp
  · rfl
theorem test_wit_SaveAndRestore_save : Identified saving ∧ (saving.team? 2).any (fun t => t.status == .saving && t.term.isNone && saving.settled t &&
      saving.saveBad t == none && (saving.grid? t.grid == some savingGrid) && (saving.ctx? savingGrid.colour).any (fun c =>
        placeAll (c.saveLen / 4096) savingGrid.imageSizes (saving.dirUsed c) == some [64] && c.saveBase + 4096 * 64 == 0xC0000)) = true ∧
    (saving.beforeImages 2).team? 2 = some savingTeam ∧ savingTeam.cores = [savingCore] :=
  ⟨identified_of _ (by rfl) (by rfl), by decide +kernel⟩
/-- The team SAVED, its image at unit 64. -/
def restoring : State :=
  let ht (t : Team) : Team := { t with status := .saved }
  let s : State := { saving with teams := saving.teams.map (fun p => (p.1, ht p.2)) }
  { s with mem := setBytes s.mem 0x80000 (bytesOfNat 8 savingGrid.tag.toNat ++ bytesOfNat 4 0 ++ bytesOfNat 2 savingCore.core ++ [1, 0] ++
      bytesOfNat 4 64 ++ bytesOfNat 4 38) }
theorem restoring_sound (a n : Nat) : restoring.badSec? a n = none := by
  have h : ∀ x, restoring.secBad x = false := fun x => rfl
  unfold State.badSec?
  split
  · rw [List.find?_eq_none]; intro x _; rw [h x]; simp
  · rfl
theorem test_wit_SaveAndRestore_restore : Identified restoring ∧ restoring.savedNext 0 = some 2 ∧ restoring.wdrrNext.map (·.1) = some 0 ∧ savingGrid.fn = 0 ∧
    (restoring.team? 2).any (fun t => (restoring.grid? t.grid == some savingGrid) && (restoring.ctx? savingGrid.colour).any (fun c =>
      t.cores.all (fun r => restoring.imageUnit c savingGrid t r == 64))) = true ∧
    restoring.groups.all (fun p => p.2.team == 2 && p.2.gid == 0) = true :=
  ⟨identified_of _ (by rfl) (by rfl), by decide +kernel⟩

/-! ### Witnesses: the machine as a whole -/

/-- A `mul24` of two units that stands at the group's PC. -/
def standing : State := State.reset.withFetchWord 64 0x0000000600503961
theorem test_wit_StepRunsInstruction : standing.inputs = [] ∧ standing.part.powered = true ∧
    (standing.running?).any (fun p => p.1.canIssue &&
      (match unitLength p.2.2.1.native (standing.codeUnit p.1.pc) with | some n => n == 8 | none => false) &&
      p.1.canFetch p.1.pc 4 && p.1.canFetch (p.1.pc + 4) 4 && standing.keyed p.1.kcode.col && (standing.badSec? (p.1.pc + 4) 4).isNone &&
      (standing.badSec? p.1.pc 4).isNone && !standing.coAt (p.1.pc + 4) 4 && !standing.coAt p.1.pc 4 && !p.2.2.1.native &&
      (match decode true (standing.codeUnits p.1.pc 2) with | .ok i => i.parts.isSome | .error _ => false) &&
      !standing.isFill false p.1.pc && !p.1.breaks p.2.2.2 p.1.pc) = true := by decide +kernel
theorem test_wit_StepRunsInstruction_quiet : standing.snapDue = false := by decide +kernel
theorem test_wit_MemoryStaysCanonical : State.reset.memOk = true := by decide +kernel
theorem test_wit_DecodeEncode : Instr.wf (.mma { F0 with a := .v 64, b := .imm 320, mod := 0x33, qual := 0x12 }) = true := by decide

end Sys2Proof.Tests
end

