-- ==== Sys2Proof/Proofs/LittleEndian.lean ====
section
/-! PROOF. Proofs/LittleEndian.lean: the bytes of a number, and reading them back from any slice of the memory
that holds it (00 R9). -/

namespace Sys2Proof.Machine

open Sys2Proof

/-! ### The bytes of a number -/

@[simp] theorem length_bytesOfNat (n v : Nat) : (bytesOfNat n v).length = n := by
  induction n generalizing v with
  | zero => rfl
  | succ n ih => rw [bytesOfNat, List.length_cons, ih]

theorem div_256_div_two_pow (v j : Nat) : v / 256 / 2 ^ (8 * j) = v / 2 ^ (8 * (j + 1)) := by
  rw [Nat.div_div_eq_div_mul, Nat.mul_add, Nat.pow_add, Nat.mul_comm]

/-- Byte `j` of a number holds its bits [8j + 7 : 8j]. -/
theorem getElem?_bytesOfNat {n j : Nat} (v : Nat) (h : j < n) :
    (bytesOfNat n v)[j]? = some (BitVec.ofNat 8 (v / 2 ^ (8 * j))) := by
  induction n generalizing v j with
  | zero => omega
  | succ n ih =>
    cases j with
    | zero => rw [bytesOfNat, List.getElem?_cons_zero, Nat.mul_zero, Nat.pow_zero, Nat.div_one]
    | succ j =>
      rw [bytesOfNat, List.getElem?_cons_succ, ih _ (by omega), div_256_div_two_pow]

theorem natOfBytes_bytesOfNat (n v : Nat) : natOfBytes (bytesOfNat n v) = v % 2 ^ (8 * n) := by
  induction n generalizing v with
  | zero => rw [bytesOfNat, natOfBytes, Nat.mul_zero, Nat.pow_zero, Nat.mod_one]
  | succ n ih =>
    have hpow : 2 ^ (8 * (n + 1)) = 256 * 2 ^ (8 * n) := by rw [Nat.mul_add, Nat.pow_add, Nat.mul_comm]
    rw [bytesOfNat, natOfBytes, ih, hpow, Nat.mod_mul, BitVec.toNat_ofNat]

/-! ### The bytes of memory -/

@[simp] theorem length_bytesAt (m : List Host.Cell) (a n : Nat) : (bytesAt m a n).length = n := by
  induction n generalizing a with
  | zero => rfl
  | succ n ih => rw [bytesAt, List.length_cons, ih]

theorem getElem?_bytesAt (m : List Host.Cell) (a : Nat) {n j : Nat} (h : j < n) :
    (bytesAt m a n)[j]? = some (byteAt m (a + j)) := by
  induction n generalizing a j with
  | zero => omega
  | succ n ih =>
    cases j with
    | zero => rw [bytesAt, List.getElem?_cons_zero, Nat.add_zero]
    | succ j =>
      rw [bytesAt, List.getElem?_cons_succ, ih _ (by omega), Nat.add_right_comm, Nat.add_assoc]

/-- The byte at offset `j` of a stored number holds its bits [8j + 7 : 8j]. -/
theorem byteAt_setBytes_bytesOfNat (m : List Host.Cell) (a v : Nat) {n j : Nat} (h : j < n) :
    byteAt (setBytes m a (bytesOfNat n v)) (a + j) = BitVec.ofNat 8 (v / 2 ^ (8 * j)) := by
  rw [byteAt_setBytes, if_pos (Nat.le_add_right a j), Nat.add_sub_cancel_left, getElem?_bytesOfNat v h, Option.getD_some]

/-- `n` bytes read at offset `i` of a stored number are the bytes of the number shifted right by `i` bytes: both lists hold
the bits [8(i + j) + 7 : 8(i + j)] at `j`. -/
theorem bytesAt_setBytes_bytesOfNat (m : List Host.Cell) (a v : Nat) {k i n : Nat} (h : i + n ≤ k) :
    bytesAt (setBytes m a (bytesOfNat k v)) (a + i) n = bytesOfNat n (v / 2 ^ (8 * i)) := by
  refine List.ext_getElem (by rw [length_bytesAt, length_bytesOfNat]) fun j hlen _ => Option.some.inj ?_
  have hj : j < n := (length_bytesAt _ _ n) ▸ hlen
  have hshift : v / 2 ^ (8 * (i + j)) = v / 2 ^ (8 * i) / 2 ^ (8 * j) := by
    rw [Nat.div_div_eq_div_mul, Nat.mul_add, Nat.pow_add]
  rw [← List.getElem?_eq_getElem, ← List.getElem?_eq_getElem, getElem?_bytesAt _ _ hj,
    getElem?_bytesOfNat _ hj, Nat.add_assoc, byteAt_setBytes_bytesOfNat m a v (by omega), hshift]

/-- `n` bytes read at offset `i` of a stored number give its bits [8(i + n) - 1 : 8i]. -/
theorem natOfBytes_bytesAt_setBytes (m : List Host.Cell) (a v : Nat) {k i n : Nat} (h : i + n ≤ k) :
    natOfBytes (bytesAt (setBytes m a (bytesOfNat k v)) (a + i) n) = v / 2 ^ (8 * i) % 2 ^ (8 * n) := by
  rw [bytesAt_setBytes_bytesOfNat m a v h, natOfBytes_bytesOfNat]

/-- Eight bytes read at offset `i` of a stored capability give its bits [8i + 63 : 8i]. -/
theorem natOfBytes_bytesAt_capability (m : List Host.Cell) (a : Nat) (k : BitVec 128) {i : Nat} (h : i + 8 ≤ 16) :
    natOfBytes (bytesAt (setBytes m a (bytesOfNat 16 k.toNat)) (a + i) 8) = (k.extractLsb' (8 * i) 64).toNat := by
  rw [natOfBytes_bytesAt_setBytes m a k.toNat h, BitVec.extractLsb'_toNat, Nat.shiftRight_eq_div_pow]

/-- Settles O58: a stored number read back at any offset is that number shifted right by the offset; a whole value is the
slice at 0, and the two halves of a capability are those at 0 and at 8. -/
theorem littleEndian : Obligations.LittleEndian := by
  refine ⟨fun n v j => getElem?_bytesOfNat v, fun n v m a => ?_, fun k m a => ?_⟩
  · have hbytes : bytesAt (setBytes m a (bytesOfNat n v)) a n = bytesOfNat n v := by
      have hslice := bytesAt_setBytes_bytesOfNat m a v (i := 0) (Nat.le_of_eq (Nat.zero_add n))
      rwa [Nat.add_zero, Nat.mul_zero, Nat.pow_zero, Nat.div_one] at hslice
    exact ⟨hbytes, by rw [hbytes, natOfBytes_bytesOfNat]⟩
  · exact ⟨natOfBytes_bytesAt_capability m a k (i := 0) (by decide),
      natOfBytes_bytesAt_capability m a k (i := 8) (by decide)⟩

end Sys2Proof.Machine
end

