-- ==== Sys2Proof/Proofs/PredicateRegisters.lean ====
section
/-! PROOF. Proofs/PredicateRegisters.lean: p registers as sources and as destinations of a result (03 R52). -/

namespace Sys2Proof.Machine

open Sys2Proof

/-! ### p0 as a source -/

theorem one_shiftLeft_sub_one (n : Nat) : (1#64 <<< n) - 1 = BitVec.ofNat 64 (2 ^ n - 1) := by
  have hpow : 1#64 <<< n = BitVec.ofNat 64 (2 ^ n) := congrArg (BitVec.ofNat 64) (Nat.one_shiftLeft n)
  rw [hpow]
  exact BitVec.ofNat_sub_ofNat_of_le _ _ (by decide) Nat.one_le_two_pow

/-- The first `n` indices are those below `n`, as far as a mask has indices. -/
theorem getLsbD_firstMask (n i : Nat) : (firstMask n).getLsbD i = decide (i < n ∧ i < 64) := by
  unfold firstMask
  split
  case isTrue hn =>
    rw [BitVec.getLsbD_allOnes, decide_eq_decide]
    omega
  case isFalse hn =>
    rw [one_shiftLeft_sub_one, BitVec.getLsbD_ofNat, Nat.testBit_two_pow_sub_one, ← Bool.decide_and, decide_eq_decide]
    exact And.comm

theorem pget_zero (g : Group) (width : Nat) : g.pget width 0 = firstMask width := rfl

/-! ### The write of a result to a p register -/

theorem writeP_zero (g : Group) (width : Nat) (vals : List (Nat × Bool)) (l : Label) : g.writeP width 0 vals l = g := by
  rw [Group.writeP, beq_self_eq_true, Bool.or_true, if_pos rfl]

/-- A result to p0 is discarded, whatever threads take part; a capture into a latch leaves the p registers alone. -/
theorem p_writeResult_of_dst_p0 {e : Env} (hdst : e.f.dst = .p 0) (vals : List (Nat × DWord)) (tn : Taint) (l : Label)
    (wide unif : Bool) : (e.writeResult vals tn l wide unif).p = e.g.p := by
  have hdiscard : e.writeDst vals tn l wide = e.g := by
    rw [Env.writeDst, hdst]
    exact writeP_zero ..
  obtain ⟨lats, vbad, heq⟩ := writeResult_eq e vals tn l wide unif
  rw [heq, hdiscard]

/-- A result to a p register: the bit of a taking-part thread is 1 where its result is not zero, the other bits are kept, and
p0 keeps them all. -/
theorem getLsbD_pget_writeResult {e : Env} {n : Fin 16} (hdst : e.f.dst = .p n) {ws : List Nat} (hws : ∀ j ∈ ws, j < 64)
    (w : Nat → DWord) (tn : Taint) (l : Label) (wide unif : Bool) {i : Nat} (hi : i < 64) :
    ((e.writeResult (entries ws w) tn l wide unif).pget e.gr.width n.val).getLsbD i =
      (if n.val ≠ 0 ∧ i ∈ ws then (w i).setWidth 32 != (0 : Word) else (e.g.pget e.gr.width n.val).getLsbD i) := by
  obtain ⟨hholds, hkeeps, -⟩ := writeResult_regs e ws w tn l wide unif hws
  rw [Holds, hdst] at hholds
  by_cases hmem : i ∈ ws
  · rw [hholds i hmem]
    by_cases hn : n.val = 0
    · rw [if_pos hn, if_neg (fun h => h.1 hn), hn]
    · rw [if_neg hn, if_pos ⟨hn, hmem⟩]
  · rw [hkeeps.p n.val i hi (fun h => hmem h.2), if_neg (fun h => hmem h.2)]

/-- Settles O57: p0 reads as the mask of all the threads, a source reads one bit, and the two writes are those of the one
write of a result. -/
theorem predicateRegisters : Obligations.PredicateRegisters := by
  refine ⟨fun g width i hi hwidth => ?_, fun e n i => rfl,
    fun e n ws w tn l wide unif i hdst hws hi => getLsbD_pget_writeResult hdst hws w tn l wide unif hi,
    fun e ws w tn l wide unif hdst => p_writeResult_of_dst_p0 hdst (entries ws w) tn l wide unif⟩
  rw [pget_zero, getLsbD_firstMask, decide_eq_true_eq]
  exact ⟨hi, Nat.lt_of_lt_of_le hi hwidth⟩

end Sys2Proof.Machine
end

