-- ==== Sys2Proof/Proofs/Conditions.lean ====
section
/-! PROOF. Proofs/Conditions.lean: condition registers, `elect` and guard slots (15 R326, R327, R338; 14 R309). -/

namespace Sys2Proof.Machine

open Sys2Proof

/-! ### An instruction at its issue -/

theorem Issues.env {i : Instr} {row : OpRow} {f : Fields} {s : State} {e : Env} {cap : Bool} (h : Issues i s e cap)
    (hparts : i.parts = some (row, f)) : s.env? row f = some e := by
  obtain ⟨row', f', hparts', henv, -⟩ := h
  obtain ⟨rfl, rfl⟩ : row' = row ∧ f' = f := by simpa [hparts'] using hparts
  exact henv

theorem Issues.fields {i : Instr} {row : OpRow} {f : Fields} {s : State} {e : Env} {cap : Bool} (h : Issues i s e cap)
    (hparts : i.parts = some (row, f)) : e.f = f := by
  obtain ⟨-, hfields, -⟩ := env?_some (h.env hparts)
  exact hfields

theorem Issues.group {i : Instr} {s : State} {e : Env} {cap : Bool} (h : Issues i s e cap) :
    s.group? e.g.team e.g.gid = some e.g := by
  obtain ⟨_, _, -, henv, -⟩ := h
  obtain ⟨-, -, hgroup, -⟩ := env?_some henv
  exact hgroup

theorem Issues.team {i : Instr} {s : State} {e : Env} {cap : Bool} (h : Issues i s e cap) :
    s.team? e.t.id = some e.t := by
  obtain ⟨_, _, -, henv, -⟩ := h
  obtain ⟨-, -, -, -, -, -, hteam, -⟩ := env?_some henv
  exact hteam

/-- An instruction at its issue ends as its own effect says. -/
theorem Issues.finish {i : Instr} {row : OpRow} {f : Fields} {s : State} {e : Env} {cap : Bool} (h : Issues i s e cap)
    (hparts : i.parts = some (row, f)) (body : Env → State → Out) :
    issue row f cap body s = e.finish s (body e s) := by
  have henv := h.env hparts
  obtain ⟨_, _, -, -, howed, hdecode, hsound⟩ := h
  exact issue_some henv howed hdecode hsound

theorem finish_next (e : Env) (s s1 : State) : e.finish s (.next s1) = .next (e.done s1) := rfl

theorem finish_fail (e : Env) (s : State) (c : Byte) : e.finish s (.fail c) = .next (e.take s { code := c }) := rfl

/-! ### Writing back what a state holds -/

theorem mput_mput_same {α : Type} (m : List (Nat × α)) (k : Nat) (a b : α) : mput (mput m k a) k b = mput m k b := by
  induction m with
  | nil => simp [mput]
  | cons p m ih =>
    obtain ⟨q, c⟩ := p
    rcases Nat.lt_trichotomy k q with hlt | rfl | hgt
    · simp [mput, hlt]
    · simp [mput]
    · simp [mput, Nat.not_lt_of_gt hgt, Nat.ne_of_gt hgt, ih]

theorem setGroup_setGroup (s : State) {g g' : Group} (ht : g'.team = g.team) (hg : g'.gid = g.gid) :
    (s.setGroup g).setGroup g' = s.setGroup g' := by
  simp only [State.setGroup, ht, hg, mput_mput_same]

/-- An instruction that writes its group back as it was ends as one that writes nothing. -/
theorem done_setGroup_self {e : Env} {s : State} (h : s.group? e.g.team e.g.gid = some e.g) :
    e.done (s.setGroup e.g) = e.done s := by
  have hin : e.groupIn s = e.g := by rw [Env.groupIn, h, Option.getD_some]
  have hbase := base_commitGroup e s (e.g.setPcs e.nextPc) none false .ready .none
  have hcommit : e.commitGroup (s.setGroup e.g) (e.g.setPcs e.nextPc) none false .ready .none =
    e.commitGroup s (e.g.setPcs e.nextPc) none false .ready .none := rfl
  rw [Env.done, Env.done, groupIn_setGroup e s e.g rfl rfl, hin, Env.commit, Env.commit, hcommit,
    setGroup_setGroup (g := e.g) s (base_team hbase) (base_gid hbase)]

theorem modTeam_of_team? {s : State} {id : Nat} {t : Team} (ht : s.team? id = some t) (h : Team → Team) :
    s.modTeam id h = s.setTeam (h t) := by
  rw [State.modTeam, ht]

/-! ### What an instruction wrote -/

theorem Holds.of_sameRegs {e : Env} {g g' : Group} {ws : List Nat} {w : Nat → DWord} {wide : Bool}
    (h : Holds e g ws w wide) (same : SameRegs g g') : Holds e g' ws w wide := by
  unfold Holds Group.vget Group.sget Group.pget Group.cget at *
  rwa [same.v, same.s, same.p, same.c, same.vtag, same.stag]

theorem Keeps.of_sameRegs {e : Env} {g g' : Group} {ws : List Nat} (h : Keeps e ws g) (same : SameRegs g g') :
    Keeps e ws g' where
  v n i hi hn := by rw [Group.vget, same.v]; exact h.v n i hi hn
  s n hn := by rw [Group.sget, same.s]; exact h.s n hn
  p n i hi hn := by rw [Group.pget, same.p]; exact h.p n i hi hn
  c n hlt hn := by rw [Group.cget, same.c]; exact h.c n hlt hn
  vtag q i hi hn := by rw [same.vtag]; exact h.vtag q i hi hn
  stag m hn := by rw [same.stag]; exact h.stag m hn
  vside n hn := by rw [Group.vsd, same.vside]; exact h.vside n hn
  sside n hn := by rw [Group.ssd, same.sside]; exact h.sside n hn
  plbl n hn := by rw [same.plbl]; exact h.plbl n hn
  clbl n hn := by rw [same.clbl]; exact h.clbl n hn
  mode := same.mode.trans h.mode
  psize := same.psize.trans h.psize
  kcode := same.kcode.trans h.kcode
  frame := same.frame.trans h.frame

/-- The executing group after an instruction that leaves `g'` has the registers of `g'`. -/
theorem group?_done_setGroup (e : Env) (s : State) {g' : Group} (ht : g'.team = e.g.team) (hg : g'.gid = e.g.gid) :
    ∃ g'', (e.done (s.setGroup g')).group? e.g.team e.g.gid = some g'' ∧ SameRegs g' g'' := by
  obtain ⟨⟨g'', hfind, hbase⟩, -⟩ := setGroup_done e s g' ht hg
  exact ⟨g'', hfind, SameRegs.of_base hbase⟩

/-- An instruction that leaves a group with the results in DST and the rest as it was, and sets no flag. -/
theorem wrote_done {e : Env} {s : State} {g' : Group} {ws : List Nat} {w : Nat → DWord} {wide : Bool}
    (hholds : Holds e g' ws w wide) (hkeeps : Keeps e ws g') (hsat : g'.sat = e.g.sat) (ht : g'.team = e.g.team)
    (hg : g'.gid = e.g.gid) : Wrote e s (e.done (s.setGroup g')) ws w wide 0 := by
  obtain ⟨g'', hfind, same⟩ := group?_done_setGroup e s ht hg
  refine ⟨sameWorld_done g' ht hg, g'', hfind, hholds.of_sameRegs same, hkeeps.of_sameRegs same, ?_⟩
  rw [same.sat, hsat]
  exact BitVec.or_zero.symm

/-! ### The taking-part threads -/

theorem part_and_firstMask (e : Env) : e.part &&& firstMask e.gr.width = e.part := by
  simp only [Env.part, Group.guardMask, BitVec.and_assoc, BitVec.and_self]

theorem mem_parts {e : Env} {i : Nat} : i ∈ e.parts ↔ e.part.getLsbD i = true := by
  rw [Env.parts, maskList, List.mem_filter, List.mem_range, and_iff_right_iff_imp]
  intro hi
  rw [← part_and_firstMask, BitVec.getLsbD_and, Bool.and_eq_true, getLsbD_firstMask, decide_eq_true_eq] at hi
  exact hi.2.1

/-- Some thread takes part exactly when the list of the taking-part threads is not empty. -/
theorem any_eq_false {e : Env} : e.any = false ↔ e.parts = [] := by
  rw [Env.any, bne_eq_false_iff_eq, List.eq_nil_iff_forall_not_mem]
  refine ⟨fun h i hi => ?_, fun h => BitVec.eq_of_getLsbD_eq fun i _ => ?_⟩
  · rw [mem_parts, h] at hi
    simp at hi
  · have hi := mt mem_parts.mpr (h i)
    simpa using hi

/-! ### The write of a condition register -/

/-- The write of one truth from every taking-part thread to a c register. -/
theorem writeDst_truth_of_dst_c {e : Env} {n : Fin 8} (hdst : e.f.dst = .c n) {ws : List Nat} (hws : ws ≠ []) (b : Bool)
    (l : Label) :
    e.writeDst (entries ws (fun _ => if b then 1 else 0)) 0 l false = e.g.writeC n.val b l := by
  obtain ⟨i, ws, rfl⟩ := List.exists_cons_of_ne_nil hws
  rw [Env.writeDst, hdst]
  cases b <;> rfl

theorem writeDst_nil (e : Env) (tn : Taint) (l : Label) (wide : Bool) : e.writeDst [] tn l wide = e.g := by
  rw [Env.writeDst]
  cases e.f.dst <;> rfl

/-- A condition register written once from the taking-part threads, and left alone when there is none. -/
def Env.afterCond (e : Env) (s : State) (n : Fin 8) (b : Bool) (l : Label) : State :=
  e.done (if e.any then s.setGroup (e.g.writeC n.val b l) else s)

theorem afterCond_wrote {e : Env} {s : State} {n : Fin 8} (hgroup : s.group? e.g.team e.g.gid = some e.g)
    (hdst : e.f.dst = .c n) (b : Bool) (l : Label) :
    Wrote e s (e.afterCond s n b l) e.parts (fun _ => if b then 1 else 0) false 0 := by
  have hwrite : e.afterCond s n b l =
      e.done (s.setGroup (e.writeDst (entries e.parts (fun _ => if b then 1 else 0)) 0 l false)) := by
    cases hany : e.any with
    | true =>
      have hne : e.parts ≠ [] := fun h => by simp [any_eq_false.mpr h] at hany
      rw [writeDst_truth_of_dst_c hdst hne, Env.afterCond, if_pos hany]
    | false =>
      rw [any_eq_false.mp hany, entries, List.map_nil, writeDst_nil, done_setGroup_self hgroup, Env.afterCond, hany]
      rfl
  obtain ⟨hholds, hkeeps, hsat, -, ht, hg⟩ :=
    writeDst_regs e e.parts (fun _ => if b then 1 else 0) 0 l false (fun _ => parts_lt)
  rw [hwrite]
  exact wrote_done hholds hkeeps hsat ht hg

theorem clbl_afterCond {e : Env} {n : Fin 8} (hany : e.any = true) (s : State) (b : Bool) (l : Label) :
    ∃ g', (e.afterCond s n b l).group? e.g.team e.g.gid = some g' ∧ mget 0 g'.clbl n.val = l := by
  obtain ⟨g', hfind, same⟩ := group?_done_setGroup e s (g' := e.g.writeC n.val b l) rfl rfl
  refine ⟨g', by rwa [Env.afterCond, if_pos hany], ?_⟩
  rw [same.clbl, Group.writeC, mget_mset, if_pos rfl]

/-! ### `cset` (15 R326) -/

/-- What `cset` writes: A is not zero in every (ALL) or in some taking-part thread. -/
def Env.csetTruth (e : Env) : Bool :=
  if e.f.mod = 1 then e.parts.all (fun i => e.read32 e.f.a i != 0) else e.parts.any (fun i => e.read32 e.f.a i != 0)

/-- Below 2 the modifier is its bit 0. -/
theorem getElem_zero_iff_eq_one {m : BitVec 6} (h : m.toNat < 2) : m[0] = true ↔ m = 1 := by
  rw [← BitVec.getLsbD_eq_getElem, BitVec.getLsbD, Nat.testBit_zero, decide_eq_true_eq, ← BitVec.toNat_inj,
    Nat.mod_eq_of_lt h]
  rfl

section

variable {f : Fields} {s : State} {e : Env} {n : Fin 8}

theorem exec_cset_pending (h : Issues (.cset f) s e false) (hdst : e.f.dst = .c n) (hmod : e.f.mod.toNat < 2)
    (hqual : e.f.qual = 0) (hpend : e.pendSrc e.f.a = true) :
    exec (.cset f) s = .next (e.take s { code := cEARLY }) := by
  change execCset f s = _
  rw [execCset, h.finish rfl]
  simp [hdst, hmod, hqual, hpend, finish_fail]

theorem exec_cset (h : Issues (.cset f) s e false) (hdst : e.f.dst = .c n) (hmod : e.f.mod.toNat < 2)
    (hqual : e.f.qual = 0) (hpend : e.pendSrc e.f.a = false) :
    exec (.cset f) s = .next (e.afterCond s n e.csetTruth (e.lblOf e.f.a)) := by
  change execCset f s = _
  rw [execCset, h.finish rfl]
  cases hany : e.any <;>
    simp [hdst, hmod, hqual, hpend, hany, finish_next, Env.afterCond, Env.csetTruth, getElem_zero_iff_eq_one hmod]

theorem exec_cop (h : Issues (.cop f) s e false) (hdst : e.f.dst = .c n) (hmod : e.f.mod.toNat < 8)
    (hqual : e.f.qual = 0) (ha : e.copArg e.f.a = true) (hb : e.copArg e.f.b = true) (hpa : e.pendSrc e.f.a = false)
    (hpb : e.pendSrc e.f.b = false) :
    exec (.cop f) s = .next (e.afterCond s n
      (copOp e.f.mod.toNat (e.read32 e.f.a e.first != 0) (e.read32 e.f.b e.first != 0)) (e.lbls [e.f.a, e.f.b])) := by
  change execCop f s = _
  rw [execCop, h.finish rfl]
  cases hany : e.any <;> simp [hdst, hmod, hqual, ha, hb, hpa, hpb, hany, finish_next, Env.afterCond]

end

/-! ### `elect` (15 R338) -/

/-- What `elect` writes in a thread: an s register takes the index of the lowest taking-part thread, any other register
whether the thread is that one. -/
def Env.electResult (e : Env) (i : Nat) : DWord :=
  if (dstS e.f.dst).isSome then BitVec.ofNat 64 e.first else if i = e.first then 1 else 0

theorem exec_elect {f : Fields} {s : State} {e : Env} (h : Issues (.elect f) s e false) (hbare : Bare e)
    (hdst : (dstC e.f.dst).isSome = false) (hpend : e.pendDst e.f.dst = false) :
    exec (.elect f) s =
      .next (e.done (s.setGroup (e.writeResult (entries e.parts e.electResult) 0 0 true false))) := by
  have hplain : e.plain = true := by simp [Env.plain, hbare.1, hbare.2]
  change execElect f s = _
  rw [execElect, h.finish rfl]
  unfold Env.electResult
  cases hd : e.f.dst with
  | c n => simp [hd, dstC] at hdst
  | _ => simp [hplain, hd ▸ hpend, dstS, finish_next]

theorem elect_wrote (e : Env) (s : State) :
    Wrote e s (e.done (s.setGroup (e.writeResult (entries e.parts e.electResult) 0 0 true false))) e.parts e.electResult
      true 0 := by
  obtain ⟨hholds, hkeeps, hsat, -, ht, hg⟩ :=
    writeResult_regs e e.parts e.electResult 0 0 true false (fun _ => parts_lt)
  exact wrote_done hholds hkeeps hsat ht hg

/-! ### Guard slots (14 R309) -/

theorem guardSlot_eq_true {e : Env} (hmod : e.f.mod = 0) (hqual : e.f.qual.toNat < 16) (hb : e.f.b = .zero) {aOk : Bool}
    (ha : aOk = true) : e.guardSlot aOk = true := by
  simp [Env.guardSlot, hmod, hqual, hb, ha]

theorem exec_gset {f : Fields} {s : State} {e : Env} (h : Issues (.gset f) s e false)
    (hslot : e.guardSlot (e.uniform e.f.a) = true) (hpend : e.pendSrc e.f.a = false)
    (hguards : e.f.qual.toNat < e.gr.guards) (hany : e.any = true) :
    let b := e.read32 e.f.a e.first != 0
    exec (.gset f) s = .next (e.done ((s.setTeam
      { e.t with guards := mput e.t.guards e.f.qual.toNat (.known b) }).decideGuards e.t.id e.f.qual.toNat b)) := by
  obtain rfl := h.fields rfl
  change execGset e.f s = _
  rw [execGset, h.finish rfl]
  simp [hslot, hpend, hguards, hany, modTeam_of_team? h.team, finish_next]

theorem exec_gclr {f : Fields} {s : State} {e : Env} (h : Issues (.gclr f) s e false)
    (hslot : e.guardSlot (e.f.a == .zero) = true) (hguards : e.f.qual.toNat < e.gr.guards) (hany : e.any = true) :
    exec (.gclr f) s = .next (e.done (s.setTeam { e.t with guards := mdel e.t.guards e.f.qual.toNat })) := by
  obtain rfl := h.fields rfl
  change execGclr e.f s = _
  rw [execGclr, h.finish rfl]
  simp [hslot, Nat.not_le_of_lt hguards, hany, modTeam_of_team? h.team, finish_next]

/-- Settles O10: each instruction ends as its equation says; the c registers of `cset` and `cop` and the result of `elect`
are written by the one write of a result. -/
theorem conditions : Obligations.Conditions := by
  refine ⟨fun f s e n h hdst hmod hqual => ⟨exec_cset_pending h hdst hmod hqual, fun hpend hany => ?idle,
      fun hpend hany => ?label⟩,
    fun f s e n h hdst hmod hqual hpend => ⟨_, exec_cset h hdst hmod hqual hpend, afterCond_wrote h.group hdst _ _⟩,
    fun f s e n h hdst hmod hqual ha hb hpa hpb =>
      ⟨_, exec_cop h hdst hmod hqual ha hb hpa hpb, afterCond_wrote h.group hdst _ _⟩,
    fun f s e h hbare hdst hpend => ⟨_, exec_elect h hbare hdst hpend, elect_wrote e s⟩,
    fun f s e h hmod hqual hb ha hpend hguards hany =>
      exec_gset h (guardSlot_eq_true hmod hqual hb ha) hpend hguards hany,
    fun f s e h hmod hqual hb ha hguards hany =>
      exec_gclr h (guardSlot_eq_true hmod hqual hb (beq_iff_eq.mpr ha)) hguards hany⟩
  case idle => rw [exec_cset h hdst hmod hqual hpend, Env.afterCond, hany, if_neg Bool.false_ne_true]
  case label =>
    obtain ⟨g', hfind, hlbl⟩ := clbl_afterCond hany s e.csetTruth (e.lblOf e.f.a)
    exact ⟨_, g', exec_cset h hdst hmod hqual hpend, hfind, hlbl⟩

end Sys2Proof.Machine
end

