-- ==== Sys2Proof/Proofs/Traps.lean ====
section
/-! PROOF. Proofs/Traps.lean: `trap`, `brk`, `fdiv` and `snap`, and the frame of a delivered fault (08 R174; 19 R421,
R424, R427 to R429). -/

namespace Sys2Proof.Machine

open Sys2Proof

/-! ### Delivery of a fault -/

/-- SESSION_LOST goes to no handler (19 R419). -/
theorem Deliverable.ne_session {g : Group} {gr : Grid} {c : Ctx} {x : Exc} (h : Deliverable g gr c x) :
    x.code ≠ cSESSION := by
  intro hcode
  have hhandler : handlerCode cSESSION = true := hcode ▸ h.code.1
  exact absurd hhandler (by decide)

theorem shows_mkFrame (g : Group) (w : FrameWord) (x : Exc) : Shows (mkFrame g w x) g w x where
  code := rfl
  fpc := rfl
  rpc := rfl
  faddr := rfl
  lpc := rfl
  subset := rfl
  xflags := rfl
  aux := rfl
  fthread := rfl
  opc := rfl
  words := rfl
  amask := rfl

/-- Making a frame active and saving the code capability in it leaves what it shows. -/
theorem Shows.activate {fr : Frame} {g : Group} {w : FrameWord} {x : Exc} (h : Shows fr g w x) (k : TCap) :
    Shows { fr with active := true, kcode := k } g w x := { h with }

/-- Delivery changes control state, the frame and the code capability. -/
theorem base_deliver (g : Group) (clk : Nat) (fr : Frame) :
    (g.deliver clk fr).base =
      { g with frame := { fr with active := true, kcode := g.kcode }, kcode := (g.capPair 62).withOtype 0 }.base :=
  base_enter _ clk .ready .none

theorem frame_deliver (g : Group) (clk : Nat) (fr : Frame) :
    (g.deliver clk fr).frame = { fr with active := true, kcode := g.kcode } :=
  (SameRegs.of_base (base_deliver g clk fr)).frame

theorem takeFault_of_deliverable {g : Group} {gr : Grid} {c : Ctx} {x : Exc} (h : Deliverable g gr c x)
    (hstepped : g.run.stepped = false) (s : State) (t : Team) (w : FrameWord) :
    takeFault s g t gr c w x = (s.snapFault x.code c.fn).setGroup
      (g.deliver (s.snapFault x.code c.fn).clk (mkFrame g w x)) := by
  have hsession := h.ne_session
  obtain ⟨⟨hhandler, hpage, hbreak⟩, hidle, hsubset, hvector⟩ := h
  have hguard : (handlerCode x.code && g.run.subset != 0 && vectorOk c gr.native (g.capPair 62)) = true := by
    rw [hhandler, hvector, Bool.true_and, Bool.and_true, bne_iff_ne]
    exact hsubset
  simp only [takeFault, hsession, hpage, hbreak, hidle, hguard, hstepped, Bool.false_eq_true, if_false, if_true]

/-- The group of a delivered fault has an active frame that shows it. -/
theorem shows_of_deliverable {g : Group} {gr : Grid} {c : Ctx} {x : Exc} (h : Deliverable g gr c x)
    (hstepped : g.run.stepped = false) (s : State) (t : Team) (w : FrameWord) :
    ∃ g', (takeFault s g t gr c w x).group? g.team g.gid = some g' ∧ g'.frame.active = true ∧ Shows g'.frame g w x := by
  rw [takeFault_of_deliverable h hstepped]
  generalize s.snapFault x.code c.fn = s1
  have hbase := base_deliver g s1.clk (mkFrame g w x)
  have hframe := frame_deliver g s1.clk (mkFrame g w x)
  refine ⟨g.deliver s1.clk (mkFrame g w x), ?_, by rw [hframe], hframe ▸ (shows_mkFrame g w x).activate g.kcode⟩
  rw [State.group?_setGroup, base_team hbase, base_gid hbase]
  exact if_pos rfl

/-! ### The instructions -/

theorem Bare.plain {e : Env} (h : Bare e) : e.plain = true := by
  obtain ⟨hmod, hqual⟩ := h
  simp [Env.plain, hmod, hqual]

theorem finish_exc (e : Env) (s : State) (x : Exc) : e.finish s (.exc x) = .next (e.take s x) := rfl

section

variable {f : Fields} {s : State} {e : Env}

/-- `trap` with a taking-part thread (19 R427). -/
theorem exec_trap (h : Issues (.trap f) s e false) (hbare : Bare e) (hany : e.any = true) :
    exec (.trap f) s = .next (e.take s { code := cSOFTWARE, aux := e.imm.setWidth 64, rpcAfter := true }) := by
  change execTrap f s = _
  rw [execTrap, h.finish rfl]
  simp [hbare.plain, hany, finish_exc]

theorem exec_trap_idle (h : Issues (.trap f) s e false) (hbare : Bare e) (hany : e.any = false) :
    exec (.trap f) s = .next (e.done s) := by
  change execTrap f s = _
  rw [execTrap, h.finish rfl]
  simp [hbare.plain, hany, finish_next]

/-- `brk` with a taking-part thread and a debugger (19 R428). -/
theorem exec_brk (h : Issues (.brk f) s e false) (hbare : Bare e) (hany : e.any = true) (hdebug : e.ctx.debugger = true) :
    exec (.brk f) s = .next (e.take s { code := cBREAK, rpcAfter := true }) := by
  change execBrk f s = _
  rw [execBrk, h.finish rfl]
  simp [hbare.plain, hany, hdebug, finish_exc]

theorem exec_brk_undebugged (h : Issues (.brk f) s e false) (hbare : Bare e) (hdebug : e.ctx.debugger = false) :
    exec (.brk f) s = .next (e.done s) := by
  change execBrk f s = _
  rw [execBrk, h.finish rfl]
  simp [hbare.plain, hdebug, finish_next]

/-- `fdiv` raises UNIMPL before any decode check (08 R174): what it needs is its environment alone. -/
theorem exec_fdiv (henv : s.env? Row.fdiv f = some e) (howed : e.g.owed = none) :
    exec (.fdiv f) s = .next (e.take s { code := cUNIMPL }) := by
  change execFdiv f s = _
  simp [execFdiv, henv, Env.owedFault, howed]

theorem exec_snap (h : Issues (.snap f) s e false) (hbare : Bare e) (hany : e.any = true) :
    exec (.snap f) s = .next (e.done (s.snapSource 0 0 e.ctx.fn e.imm)) := by
  change execSnap f s = _
  rw [execSnap, h.finish rfl]
  simp [hbare.plain, hany, finish_next]

end

/-- Settles O12: each instruction ends as its equation says; the frame of a delivered `trap` is the one that shows its
fault, whose RPC is past the instruction. -/
theorem traps : Obligations.Traps := by
  refine ⟨fun f s e => exec_trap, fun f s e => exec_trap_idle, fun f s e h hbare hany hstepped _ hdel => ?frame,
    fun f s e => exec_brk, fun f s e => exec_brk_undebugged, fun f s e => exec_fdiv, fun f s e => exec_snap⟩
  case frame =>
    obtain ⟨g', hfind, hactive, hshows⟩ := shows_of_deliverable hdel hstepped s e.t (e.frameWord false)
    exact ⟨_, g', exec_trap h hbare hany, hfind, hactive, hshows.code, hshows.aux, hshows.fpc, hshows.rpc⟩

end Sys2Proof.Machine
end
